-- ==== Sys2Proof/Word.lean ====
section
/-! DEFINITION. The plain word types of the model and the type of a sparse table. -/

namespace Sys2Proof

/-- One byte. -/
abbrev Byte := BitVec 8

/-- A 32-bit register or an FP32 element. -/
abbrev Word32 := BitVec 32

/-- A 64-bit register or a Crill instruction word (R106). -/
abbrev Word64 := BitVec 64

/-- A sparse table: entries by rising key, none equal to the table's default
(the form is `tabWf` of Machine/Tab.lean). -/
abbrev Tab (α : Type) := List (Nat × α)

end Sys2Proof
end

