-- ==== Sys2Proof/Syntax.lean ====
section
/-! DEFINITION. The commands of the V8160: one constructor of Instr per row of spec/opcode_table.json,
with the operand types that carry what the command's sender or the environment chooses. -/

namespace Sys2Proof

/-- What a read of one ECC word met, after at most one re-read (R346, R347): the environment's choice. -/
inductive Ecc where
  /-- no error -/
  | clean
  /-- a single-bit error, corrected in line -/
  | corrected
  /-- uncorrectable at first, clean at the re-read -/
  | cured
  /-- uncorrectable at the re-read as well -/
  | bad
  deriving DecidableEq, Repr

/-- A disturbance of a checked read: none, one that the re-read cures, one that meets the re-read too. -/
inductive Glitch where
  | none
  | once
  | twice
  deriving DecidableEq, Repr

/-- A unit or a command by its number, and what the read of memory on its behalf met (R346). -/
structure Fetch where
  n : Nat
  ecc : Ecc := .clean
  deriving DecidableEq, Repr

/-- What the reads of a weight block met: the cell rows fed by a store word that stays uncorrectable, 256 more for a word of a second
half, 512 more for one of the scales; and the words that a re-read cured (R345, R347). -/
structure WldReads where
  bad : List Nat := []
  cured : List Nat := []
  deriving DecidableEq, Repr

/-- What a tile row met on its way: the read's code, and the cycles that its granules waited for a stack controller and for link
credit (R341, R346). -/
structure RowTrip where
  ecc : Ecc := .clean
  hbm : Nat := 0
  link : Nat := 0
  deriving DecidableEq, Repr

/-- What the read of an assay record met: a defect that disturbs it, and the memory's own code (R88, R346). -/
structure RecordRead where
  glitch : Glitch := .none
  ecc : Ecc := .clean
  deriving DecidableEq, Repr

/-- The command and the round that an arriving write belongs to (R280, R332). -/
structure Stamp where
  tag : Nat := 0
  round : Nat := 0
  deriving DecidableEq, Repr

/-- The three scopes of a tally (R168). -/
inductive Scope where
  | stope
  | level
  | device
  deriving DecidableEq, Repr

/-- A block that a commit or drop notice reaches (R283). -/
inductive Block where
  /-- the stope and its tram, its stope tallies -/
  | stope (st : Nat)
  /-- the level's tally block and hoist -/
  | level (n : Nat)
  /-- the headframe's device tallies and its bulk senders -/
  | head (h : Nat)
  /-- the stack controller -/
  | stack (k : Nat)
  deriving DecidableEq, Repr

/-- Who writes through a stack controller (R280, R428). -/
inductive Writer where
  /-- a tram transfer or assay record update of a stope (R280) -/
  | tram (st : Nat)
  /-- a hoist result or record write -/
  | hoist
  /-- a sieve output -/
  | sieve
  /-- an arriving bulk PUT -/
  | bulk
  /-- a host write through a command-buffer window (R309) -/
  | host
  /-- a foreman write -/
  | foreman
  /-- a pseudo-channel migration copy (R355) -/
  | migration
  deriving DecidableEq, Repr

/-- A mailbox request as it stands in its slot (R316); its TYPE is the constructor that carries it, or the reserved one that `reserved`
names (R317). -/
structure Req where
  version : Nat
  reserved : Option Nat := none
  seq : Nat := 0
  len : Nat := 0
  status : Nat := 0
  flags : Nat := 0
  tag : Nat := 0
  epoch : Nat := 0
  round : Nat := 0
  reqSeq : Nat := 0
  check : Nat := 0
  payload : List Byte := []
  deriving DecidableEq, Repr

/-- A hoist slice: the header of R217, its roster (bit i for participant i) and its FP32 payload. -/
structure SliceMsg where
  /-- 0 PARTIAL, 1 RESULT, 2 ROSTER -/
  kind : Nat
  home : Nat
  slot : Nat
  hops : Nat := 0
  id : Nat
  idx : Nat
  count : Nat := 0
  roster : Nat := 0
  round : Nat := 0
  deadline : Nat := 0
  data : List Word32 := []
  /-- LEN and RLEN -/
  len : Nat := 4 * data.length
  rlen : Nat := 64
  /-- CRC-32C of the payload -/
  crc : Word32 := 0
  /-- DST, SRC and TTL of its message: DST is the neighbour's identifier (R243, R244) -/
  dst : Nat := 0
  src : Nat := 0
  ttl : Nat := 0
  deriving DecidableEq, Repr

/-- A fabric message (R243): header fields, the 20 TYPE-SPECIFIC bytes and the payload. -/
structure FabMsg where
  typ : Nat
  dst : Nat
  src : Nat
  ttl : Nat
  spec : List Byte := []
  payload : List Byte := []
  deriving DecidableEq, Repr

/-- A flit as the receiver sees it after error correction (R234, R238): DATA, LINK and CRC, and which of its 288 bytes arrived wrong. -/
structure Flit where
  /-- DATA; bytes not listed are 0 -/
  data : List Byte := []
  seq : Nat
  ack : Nat
  vc : Nat := 0
  som : Bool := false
  eom : Bool := false
  ctrl : Bool := false
  nak : Bool := false
  crc : Word32
  /-- the bytes that arrived wrong, by their place in the flit -/
  errs : List Nat := []
  deriving DecidableEq, Repr

/-- What a BEACON flit carries (R252, R287). -/
structure Beacon where
  wire : Nat
  lenUs : Nat
  elapsed : Nat
  master : Nat := 0
  fwd : Nat := 0
  budget : Nat := 0
  deriving DecidableEq, Repr

/-- What a CAPS flit names (R235). -/
structure Caps where
  gen : Nat
  /-- usable lanes, bit k for lane k -/
  lanes : Nat
  three : Bool
  dev : Nat
  deriving DecidableEq, Repr

/-- What a quench is caused by (R294, R423). -/
inductive QuenchCause where
  | vinLow
  | vinHigh
  | trip
  deriving DecidableEq, Repr

/-- The reference clocks of R406. -/
inductive RefClk where
  | fab (h : Nat)
  | pe
  | sn
  | sys
  deriving DecidableEq, Repr

/-- A drive below the snapshot port as Identify describes it: its serial number, 20 bytes, and namespace 1 (R373, R384). -/
structure Drive where
  serial : Nat := 0
  lbas : Nat := 0
  lbaSize : Nat := 4096
  metadata : Nat := 0
  protection : Bool := false
  deriving DecidableEq, Repr

/-- A segment as it stands on a drive: data bytes by their offset, unlisted ones 0, and the sidecar entries in granule order (R381). -/
structure DiskSeg where
  drive : Nat
  lba : Nat
  data : List (Nat × Byte) := []
  side : List Word64 := []
  deriving DecidableEq, Repr

/-- A snapshot slot on the drives: header and body of its manifest, bytes not listed 0, and its segments (R380, R381, R384). -/
structure Slot where
  header : List Byte := []
  body : List Byte := []
  segs : List DiskSeg := []
  deriving DecidableEq, Repr

/-- What the outside decides of a step of the bring-up (R424, R425, R426). -/
structure BootEnv where
  /-- BOOT_SEL[1:0] as sampled (R413) -/
  bootSel : Nat := 0
  /-- physical stopes that fail self-test -/
  stopeFails : List Nat := []
  /-- levels whose monitor block fails self-test -/
  monFails : List Nat := []
  /-- pseudo-channels and module lane pairs that fail when they are tested afresh (R352) -/
  pcFails : List (Nat × Nat) := []
  laneFails : List Nat := []
  /-- what the PUF of H0, of H1 gives with its helper data, 32 bytes (R388) -/
  puf0 : List Byte := []
  puf1 : List Byte := []
  /-- the drives below the snapshot port, and what their slots hold where they are others than before (R372, R373, R385) -/
  found : List Drive := []
  slots : Option (Slot × Slot) := none
  /-- the snapshot link's rate code and width as trained (R372, R397) -/
  rate : Nat := 6
  width : Nat := 8
  /-- nanoseconds from t0 to the end of the step, taken within the bounds of R425 -/
  readyNs : Nat := 3650000000
  deriving DecidableEq, Repr

/-- The commands of the V8160: one constructor per row of spec/opcode_table.json. -/
inductive Instr where
  /-- WAIT (R107). Crew instruction that delays the crew's next issue by max(1, IMM) cycles. -/
  | wait (st ag : Nat) (w : Word64)
  /-- SADD (R107). Crew scalar add of Sa and Sb into Sd. -/
  | sadd (st ag : Nat) (w : Word64)
  /-- SSUB (R107). Crew scalar subtract of Sb from Sa into Sd. -/
  | ssub (st ag : Nat) (w : Word64)
  /-- SMUL (R107). Crew scalar multiply keeping the low 64 bits, ready at issue + 3. -/
  | smul (st ag : Nat) (w : Word64)
  /-- SAND (R107). Crew scalar bitwise AND. -/
  | sand (st ag : Nat) (w : Word64)
  /-- SOR (R107). Crew scalar bitwise OR. -/
  | sor (st ag : Nat) (w : Word64)
  /-- SXOR (R107). Crew scalar bitwise XOR. -/
  | sxor (st ag : Nat) (w : Word64)
  /-- SSHL (R107). Crew scalar shift left by Sb[5:0]. -/
  | sshl (st ag : Nat) (w : Word64)
  /-- SSHR (R107). Crew scalar logical shift right by Sb[5:0]. -/
  | sshr (st ag : Nat) (w : Word64)
  /-- SSRA (R107). Crew scalar arithmetic shift right by Sb[5:0]. -/
  | ssra (st ag : Nat) (w : Word64)
  /-- SLI (R107). Crew loads a sign-extended immediate into Sd. -/
  | sli (st ag : Nat) (w : Word64)
  /-- SLIH (R107). Crew sets Sd[63:32] to IMM and keeps Sd[31:0] as read at issue. -/
  | slih (st ag : Nat) (w : Word64)
  /-- SADDI (R107). Crew adds a sign-extended immediate to Sa into Sd. -/
  | saddi (st ag : Nat) (w : Word64)
  /-- SLD (R113). Crew (or overman) loads 8 bytes from the stope store into Sd, under the bank and offset checks. -/
  | sld (st ag : Nat) (w : Word64) (e : Ecc)
  /-- SST (R113). Crew (or overman) stores 8 bytes of Sd to the stope store. -/
  | sst (st ag : Nat) (w : Word64)
  /-- VARITH (R108). Crew FP32 or BF16 vector arithmetic selected by SUB, predicated. -/
  | varith (st ag : Nat) (w : Word64)
  /-- VINT (R107). Crew 32-bit integer vector operation selected by SUB, predicated. -/
  | vint (st ag : Nat) (w : Word64)
  /-- VCMP (R111). Crew vector compare writing a predicate register. -/
  | vcmp (st ag : Nat) (w : Word64)
  /-- VSFU (R110). Crew special-function vector operation (RCP, RSQ, SQRT, EXP2, LOG2). -/
  | vsfu (st ag : Nat) (w : Word64)
  /-- VRED (R109). Crew reduction of enabled FP32 elements into a scalar register. -/
  | vred (st ag : Nat) (w : Word64)
  /-- VPERM (R107). Crew permutes 32-bit vector elements by index. -/
  | vperm (st ag : Nat) (w : Word64)
  /-- VBCST (R107). Crew broadcasts a scalar into every element of a vector register. -/
  | vbcst (st ag : Nat) (w : Word64)
  /-- VMOVS (R111). Crew extracts one vector element into a scalar register if enabled. -/
  | vmovs (st ag : Nat) (w : Word64)
  /-- VLD (R113). Crew loads 512 B from the stope store into a vector register. -/
  | vld (st ag : Nat) (w : Word64) (e : Ecc)
  /-- VST (R113). Crew stores 512 B of a vector register to the stope store. -/
  | vst (st ag : Nat) (w : Word64)
  /-- PLOGIC (R107). Crew predicate logic operation selected by SUB. -/
  | plogic (st ag : Nat) (w : Word64)
  /-- CVT (R430). Crew converts between FP32 and BF16 or FP16 within vector registers. -/
  | cvt (st ag : Nat) (w : Word64)
  /-- TCFG (R137). Crew configures a tile register's shape and clears its payload, statistics and transfer state. -/
  | tcfg (st ag : Nat) (w : Word64)
  /-- TREL (R138). Crew releases a tile register, clearing its in-use flag, statistics and transfer state. -/
  | trel (st ag : Nat) (w : Word64)
  /-- TLD (R141). Crew queues an asynchronous load of a stored tile into a tile register, or resumes a held one. -/
  | tld (st ag : Nat) (w : Word64)
  /-- TST (R141). Crew queues an asynchronous store of a tile register, optionally with an assay record update. -/
  | tst (st ag : Nat) (w : Word64)
  /-- CVTT (R112). Crew converts vector registers into one tile row in the tile's format and gathers pending statistics. -/
  | cvtt (st ag : Nat) (w : Word64)
  /-- CVTW (R112). Crew widens one tile row into FP32 vector registers. -/
  | cvtw (st ag : Nat) (w : Word64)
  /-- TRD (R107). Crew copies the bytes of a tile row into a vector register. -/
  | trd (st ag : Nat) (w : Word64)
  /-- TWR (R111). Crew writes bytes of a vector register into a tile row under predicate. -/
  | twr (st ag : Nat) (w : Word64)
  /-- SRSEED (R82). Crew reseeds its 32 stochastic generators from Sa[31:0]. -/
  | srseed (st ag : Nat) (w : Word64)
  /-- TRAM (R154). Crew reads a 64-byte tram descriptor from the stope store and queues the transfer. -/
  | tram (st ag : Nat) (w : Word64) (e : Ecc)
  /-- WLD (R44). Crew starts a weight load into the shadow planes of both twins. -/
  | wld (st ag : Nat) (w : Word64) (m : WldReads)
  /-- WSW (R47). Crew swaps the active and shadow planes of the named arrays. -/
  | wsw (st ag : Nat) (w : Word64)
  /-- MCFG (R58). Crew sets the shape of the named arrays to normal or wide-shallow. -/
  | mcfg (st ag : Nat) (w : Word64)
  /-- MFWD (R51). Crew starts a forward (broadcast) stream of tile rows through the named arrays. -/
  | mfwd (st ag : Nat) (w : Word64)
  /-- MSTRT (R54). Crew starts a column-read stream of tile rows through the named arrays. -/
  | mstrt (st ag : Nat) (w : Word64)
  /-- ARD (R64). Crew reads one accumulator row into two vector registers. -/
  | ard (st ag : Nat) (w : Word64) (e : Ecc)
  /-- AWR (R64). Crew writes two vector registers into one accumulator row. -/
  | awr (st ag : Nat) (w : Word64)
  /-- ACLR (R64). Crew clears n accumulator rows to +0.0, four rows per cycle. -/
  | aclr (st ag : Nat) (w : Word64)
  /-- HOIST (R210). Crew hands accumulator rows to the hoist as a segment of a reduction. -/
  | hoist (st ag : Nat) (w : Word64)
  /-- BR (R117). Crew conditional branch resolved at issue. -/
  | br (st ag : Nat) (w : Word64)
  /-- CALL (R117). Crew saves PC + 1 in Sa and branches. -/
  | call (st ag : Nat) (w : Word64)
  /-- RET (R117). Crew branches to Sa[14:0]. -/
  | ret (st ag : Nat) (w : Word64)
  /-- LOOP (R118). Crew opens a hardware loop at a nesting level or skips the body when the count is zero. -/
  | loop (st ag : Nat) (w : Word64)
  /-- SLC (R107). Crew writes a loop count source register. -/
  | slc (st ag : Nat) (w : Word64)
  /-- LIX (R119). Crew reads the iteration index of the active loop at a level. -/
  | lix (st ag : Nat) (w : Word64)
  /-- FENCE (R123). Crew bank fence: continues, or holds until a pending swap completes. -/
  | fence (st ag : Nat) (w : Word64)
  /-- HALT (R107). Crew ends and becomes idle. -/
  | halt (st ag : Nat) (w : Word64)
  /-- TSIG (R170). Crew or overman signals a tally with an add or subtract of n. -/
  | tsig (st ag : Nat) (w : Word64)
  /-- TTAKE (R170). Crew sends a taking wait to a tally and enters state waiting. -/
  | ttake (st ag : Nat) (w : Word64)
  /-- TWATCH (R170). Crew sends a watching wait to a tally and enters state waiting. -/
  | twatch (st ag : Nat) (w : Word64)
  /-- TREAD (R170). Crew reads a tally count into Sa. -/
  | tread (st ag : Nat) (w : Word64)
  /-- SYSRD (R128). Overman reads a system register. -/
  | sysrd (st ag : Nat) (w : Word64)
  /-- SYSWR (R128). Overman writes a system register that has no row of its own. -/
  | syswr (st ag : Nat) (w : Word64)
  /-- CRSTART (R128). Overman starts an idle or stopped crew at a given PC. -/
  | crstart (st ag : Nat) (w : Word64)
  /-- CRSTOP (R128). Overman stops a running, waiting or fenced crew, withdrawing any wait. -/
  | crstop (st ag : Nat) (w : Word64)
  /-- CRRES (R128). Overman resumes a stopped or faulted crew at its PC. -/
  | crres (st ag : Nat) (w : Word64)
  /-- CRRD (R129). Overman reads a crew register element. -/
  | crrd (st ag : Nat) (w : Word64)
  /-- CRWR (R128). Overman writes a crew register element of an idle, stopped or faulted crew. -/
  | crwr (st ag : Nat) (w : Word64)
  /-- CLMLD (R159). Overman loads a claim window from a 32-byte image, checking it. -/
  | clmld (st ag : Nat) (w : Word64)
  /-- CLMINV (R159). Overman invalidates a claim window. -/
  | clminv (st ag : Nat) (w : Word64)
  /-- PSWAP (R122). Overman requests a program bank swap, which becomes pending. -/
  | pswap (st ag : Nat) (w : Word64)
  /-- EVWAIT (R128). Overman sleeps until an unmasked event is pending. -/
  | evwait (st ag : Nat) (w : Word64)
  /-- ERET (R128). Overman returns from an event handler and re-enables events. -/
  | eret (st ag : Nat) (w : Word64)
  /-- FLTREC (R350). Overman submits a 64-byte fault record to the device fault log. -/
  | fltrec (st ag : Nat) (w : Word64)
  /-- RESULT_READY (R100). An instruction's write lands in its destination at its fixed ready cycle. -/
  | resultReady (st ag : Nat)
  /-- STREAM_ROW_WRITE (R52). A stream row's sums are added into or stored as accumulator rows at the row's ready cycle. -/
  | streamRowWrite (st arr : Nat)
  /-- WLD_TILE_CHECK (R49). WLD compares a stored tile's CRC with its sidecar entry 2 cycles after the tile's last row is written. -/
  | wldTileCheck (st : Nat) (glitch : Bool)
  /-- WLD_CHECK_HOLD_END (R49). The 72-cycle check hold expires after the re-read; a match counts a transient, a second mismatch raises TILE_CHECK. -/
  | wldCheckHoldEnd (st : Nat) (glitch : Bool)
  /-- BANK_SWAP (R122). A pending swap takes place once every crew is fenced, idle, stopped or faulted and no inactive-bank write is in progress. -/
  | bankSwap (st : Nat)
  /-- OVERMAN_EVENT_ENTRY (R131). With events enabled and an unmasked event pending, the overman saves its PC and enters the handler for the lowest class. -/
  | overmanEventEntry (st : Nat)
  /-- STOPE_DOUBLE_FAULT_RESET (R359). The foreman resets a double-faulted stope, ends its commands and self-tests it on a repeat. -/
  | stopeDoubleFaultReset (st : Nat)
  /-- TRAM_TRANSFER_START (R152). The tram starts a queued transfer when an active place is free, decoding any TRAM descriptor. -/
  | tramTransferStart (st : Nat)
  /-- TILE_ROW_TRANSLATE (R142). The tram translates the next row of a transfer through a claim and issues its granules. -/
  | tileRowTranslate (st id : Nat)
  /-- TILE_ROW_RETIRE (R143). A row retires when all its bytes have landed or been acknowledged, advancing PROG and RUN_CRC. -/
  | tileRowRetire (st id : Nat) (trip : RowTrip)
  /-- TRANSFER_HOLD (R148). After earlier rows retire, a faulted transfer is held with its state and a transfer-fault event is raised. -/
  | transferHold (st id : Nat)
  /-- TLD_TILE_CHECK (R145). Two cycles after a TLD's last row retires, the tram compares the sidecar entry and CRC, re-reading once on a CRC mismatch. -/
  | tldTileCheck (st id : Nat) (glitch : Bool)
  /-- SIDECAR_ENTRY_ACK (R95). A tile writer receives acknowledgement of its PRESENT = 0 entry write, or of all payload writes, and proceeds. -/
  | sidecarEntryAck (st id : Nat)
  /-- ASSAY_RECORD_UPDATE (R87). After a TST's last row with PENDING set, the vector engine reads, checks, updates and writes the assay record. -/
  | assayRecordUpdate (st id : Nat) (m : RecordRead)
  /-- TRANSFER_COMPLETE (R147). A transfer completes, adds 1 to its stope tally and empties the transfer state. -/
  | transferComplete (st id : Nat)
  /-- TRM_RESUME (R163). Overman write of OVM_TRM_CTL with action resume re-queues a held transfer. -/
  | trmResume (st : Nat) (v : Word64)
  /-- TRM_DISCARD (R151). Overman write of OVM_TRM_CTL with action discard empties a held transfer's state. -/
  | trmDiscard (st : Nat) (v : Word64)
  /-- TRAM_QUIESCE (R164). Overman write of OVM_TRM_QUIESCE bit 0 stops transfer starts and holds active transfers at row boundaries. -/
  | tramQuiesce (st : Nat)
  /-- QUIESCE_RELEASE (R164). Overman write of OVM_TRM_QUIESCE bit 1 lets queued transfers start again. -/
  | quiesceRelease (st : Nat)
  /-- CONTEXT_SAVE (R165). Overman write of OVM_CTX_CTL with save starts writing a crew's context image. -/
  | contextSave (st : Nat) (v : Word64)
  /-- CONTEXT_RESTORE (R165). Overman write of OVM_CTX_CTL with restore starts reading a context image back into a crew. -/
  | contextRestore (st : Nat) (v : Word64)
  /-- CONTEXT_DONE (R165). The last byte of a context save or restore lands and CTX_BUSY clears. -/
  | contextDone (st : Fetch)
  /-- SWAP_CANCEL (R123). Overman write of SWAP_CANCEL in OVM_PROG_CTL withdraws a pending swap. -/
  | swapCancel (st : Nat)
  /-- OVM_TRACE (R338). Overman write of OVM_TRACE writes a software trace record with OVM_TRACE_ARG. -/
  | ovmTrace (st : Nat) (v : Word64)
  /-- TRACE_CLEAR (R340). Write of CLEAR in TRC_CTL sets TRC_HEAD to 0 and restarts STOP counting. -/
  | traceClear (st : Nat)
  /-- TSIG_EFFECT (R171). A signal takes effect at its tally block at its release point, or at transfer completion. -/
  | tsigEffect (agents : List (Nat × Nat))
  /-- TALLY_WAIT_ARRIVAL (R173). A TTAKE or TWATCH reaches the tally block and joins the waiter list. -/
  | tallyWaitArrival (st cr : Nat)
  /-- WAITER_RELEASE (R183). A released waiter becomes eligible to issue at its stope, waking a sleeping stope. -/
  | waiterRelease (st cr : Nat)
  /-- WAIT_WITHDRAWAL (R176). A withdrawal of a stopped crew's wait reaches the tally block before that cycle's scan. -/
  | waitWithdrawal (st cr : Nat)
  /-- WITHDRAWAL_ANSWER (R176). The answer to a withdrawal returns and the crew reads as stopped with its final PC. -/
  | withdrawalAnswer (st cr : Nat)
  /-- TALLY_COUNT_WRITE (R173). A register write to a tally count sets it and triggers a scan. -/
  | tallyCountWrite (sc : Scope) (unit num : Nat) (v : Word32)
  /-- STOPE_SLEEP (R180). After R127's condition holds for 16 cycles the stope gates its clock. -/
  | stopeSleep (st : Nat)
  /-- HOIST_SEGMENT_READ (R211). After a HOIST's release point the hoist reads its rows once and signals Q. -/
  | hoistSegmentRead (st : Nat) (ecc : Ecc)
  /-- LOCAL_CONTRIBUTION (R213). A forwarded segment arrives at the home hoist and is added in fixed order into its slices. -/
  | localContribution (n st : Nat)
  /-- SLICE (R218). A hoist receives a slice, checks its CRC and uses, keeps, or discards it by ID, round and slot. -/
  | slice (n port : Nat) (sl : SliceMsg) (fails : Nat)
  /-- SLICE_FORWARD (R225). A hoist forwards a slice toward its root, or fixes it at the root, once its contribution and partials are in or their times are reached. -/
  | sliceForward (n slot idx : Nat)
  /-- SLICE_CREDIT (R216). A sender receives a window credit and sends a waiting slice. -/
  | sliceCredit (n port : Nat)
  /-- SLICE_ACK (R216). A receiver acknowledges a slice and the sender releases its copy. -/
  | sliceAck (n port id idx : Nat)
  /-- SLICE_CUTOFF (R222). A hoist's cutoff C(x) for a slice is reached. -/
  | sliceCutoff (n slot idx : Nat)
  /-- HST_WIN_CFG_WRITE (R231). Write of the hoist window size, taking effect only with no slot loaded and all windows free. -/
  | hstWinCfgWrite (n : Nat) (v : Word32)
  /-- MARK_FIRE (R276). A level mark reaches its round and phase and performs its action. -/
  | markFire (n k : Nat)
  /-- ROUND_START (R268). Phase passes L − 1; the round number advances and phase returns to 0. -/
  | roundStart
  /-- RELEASE_MARK (R275). The round's release mark fires, letting its commands be admitted. -/
  | releaseMark
  /-- COMMIT_MARK (R282). The commit mark fires; the device decides commit or drop and sends the notice from H0. -/
  | commitMark
  /-- COMMIT_NOTICE (R284). A commit notice reaches a block, which ends unfinished commands, discards gob entries and copies tally bases. -/
  | commitNotice (b : Block)
  /-- DROP_NOTICE (R284). A drop notice reaches a block, which ends unfinished commands and restores declared tallies. -/
  | dropNotice (b : Block)
  /-- BACKFILL (R285). After every write of a dropped round is acknowledged, a stack writes back its saved granules. -/
  | backfill (k : Nat)
  /-- BACKFILL_DONE (R285). Every stack finishes its backfill and admission of later rounds resumes. -/
  | backfillDone
  /-- DROP_CURRENT (R282). Host write of DROP_CURRENT in RND_CTL makes the current round drop at its commit mark. -/
  | dropCurrent
  /-- COMMIT_REGION_WRITE (R278). Write of a commit region register, refused with CREG_IGN when it breaks the rules. -/
  | commitRegionWrite (r : Nat) (size : Bool) (v : Word64)
  /-- GOB_REGISTER_WRITE (R279). Write of a gob base or capacity register, refused with GOB_IGN when it breaks the rules. -/
  | gobRegisterWrite (k : Nat) (ctl : Bool) (v : Word64)
  /-- STACK_WRITE (R280). A write reaches a stack controller, which stages or saves the granule first when required. -/
  | stackWrite (who : Writer) (tag : Stamp) (pa : Nat) (bytes : List Byte)
  /-- BEACON (R271). A beacon on the cadence port sets or advances the round and corrects phase. -/
  | beacon (p : Nat) (b : Beacon)
  /-- BEACON_MISS (R274). No beacon or edge by 10 µs after the round completes; three misses set CADENCE_LOST and free-running. -/
  | beaconMiss
  /-- ROUND_IN_EDGE (R273). A rising edge on ROUND_IN aligns phase or ends the round in progress. -/
  | roundInEdge
  /-- PRESENCE (R254). A received PRESENCE flit is forwarded unchanged through the cadence port. -/
  | presence (p : Nat) (data : List Byte)
  /-- ABSENT (R256). An ABSENT flit is recorded, forwarded and reported to the host. -/
  | absent (p wire dev reason : Nat)
  /-- LEDGER_TICK (R288). Every 10 µs the ledger updates its figures and retries held fill commands. -/
  | ledgerTick (watts : Nat)
  /-- COMMAND_ADMIT (R329). The dispatcher admits a ready command after its release mark, under energy rules, or refuses it. -/
  | commandAdmit (tag : Fetch)
  /-- COMMAND_START (R202). The dispatcher dispatches an admitted command once its target stopes are free. -/
  | commandStart (tag : Nat)
  /-- STOPE_FREE_REPORT (R203). An overman reports its preempted stope free to the dispatcher. -/
  | stopeFreeReport (st : Nat)
  /-- FILL_TIMEOUT (R204). 1 ms after a preempt without all stopes free, the fill command's stopes are reset and it ends. -/
  | fillTimeout (tag : Nat)
  /-- RUN (R327). RUN command starts the named crews on each target stope with S1 to S4 set. -/
  | run (tag : Nat)
  /-- LOAD_PROG (R326). LOAD_PROG command copies an image into the inactive bank of every target stope, optionally swapping. -/
  | loadProg (tag : Nat)
  /-- SIEVE (R200). SIEVE command runs a job list on one level's sieve in queue order. -/
  | sieve (tag : Fetch)
  /-- SIEVE_ROW (R198). The sieve computes one row once its fetch has arrived, writes or compares the output. -/
  | sieveRow (n : Nat) (ecc : Ecc)
  /-- QUERY_INSTALL (R326). QUERY_INSTALL command loads and swaps a query-model image into reserved stopes and starts their crews. -/
  | queryInstall (tag : Nat)
  /-- COMMAND_FINISH (R282). A command's crews, transfers, reductions and bulk entries are done; tallies are checked and COMPLETION is posted. -/
  | commandFinish (tag : Nat)
  /-- MBX_REQ_TAIL_WRITE (R313). Host write of a request tail exposes new request slots or sets OVERRUN. -/
  | mbxReqTailWrite (m : Nat) (v : Word32)
  /-- MBX_RSP_HEAD_WRITE (R314). Host write of a response head frees response slots for pending replies and notes. -/
  | mbxRspHeadWrite (m : Nat) (v : Word32)
  /-- MBX_FLUSH (R311). Write of FLUSH in MBX_CTL zeroes a disabled mailbox's indices and closes its session. -/
  | mbxFlush (m : Nat)
  /-- HELLO (R319). HELLO request negotiates a version and opens a session with a new queue identifier. -/
  | hello (m : Nat) (r : Req)
  /-- BYE (R318). BYE request closes the mailbox session. -/
  | bye (m : Nat) (r : Req)
  /-- SUBMIT (R321). SUBMIT request queues one to three descriptors with consecutive tags. -/
  | submit (m : Nat) (r : Req)
  /-- CANCEL (R330). CANCEL request removes a still-queued command. -/
  | cancel (m : Nat) (r : Req)
  /-- STATUS (R317). STATUS request returns a command's state and dispatch stamp. -/
  | status (m : Nat) (r : Req)
  /-- SET_BUDGET (R317). SET_BUDGET request writes NRG_BUDGET_NEXT. -/
  | setBudget (m : Nat) (r : Req)
  /-- POWER_WAKE (R292). POWER request with value 0 returns the device from Doze or Vigil to Full. -/
  | powerWake (m : Nat) (r : Req)
  /-- POWER_DOZE (R292). POWER request with value 2 enters Doze unless refused. -/
  | powerDoze (m : Nat) (r : Req)
  /-- POWER_VIGIL (R292). POWER request with value 3 enters Vigil unless refused. -/
  | powerVigil (m : Nat) (r : Req)
  /-- SET_FAB_ID (R317). SET_FAB_ID request writes HDF_FAB_ID. -/
  | setFabId (m : Nat) (r : Req)
  /-- LOG_READ (R368). LOG_READ request returns up to three fault records from the log or flash history. -/
  | logRead (m : Nat) (r : Req)
  /-- RESET_DEVICE (R368). RESET request of kind 1 performs a device reset after its reply. -/
  | resetDevice (m : Nat) (r : Req) (e : BootEnv)
  /-- RESET_LEVEL (R368). RESET request of kind 2 performs a level reset after its reply. -/
  | resetLevel (m : Nat) (r : Req) (fails : List Nat)
  /-- RESET_STOPE (R368). RESET request of kind 3 performs a stope reset after its reply. -/
  | resetStope (m : Nat) (r : Req)
  /-- RETIRE_READ (R368). RETIRE_READ request returns the retirement bitmaps. -/
  | retireRead (m : Nat) (r : Req)
  /-- RETIRE_CLEAR (R352). RETIRE_CLEAR request empties the retirement list at the next device or cold reset. -/
  | retireClear (m : Nat) (r : Req)
  /-- RECOVERY_ENTER (R369). RECOVERY request with value 1 enters recovery mode with monitors off. -/
  | recoveryEnter (m : Nat) (r : Req)
  /-- RECOVERY_LEAVE (R369). RECOVERY request with value 0 leaves recovery mode. -/
  | recoveryLeave (m : Nat) (r : Req)
  /-- SNAP (R378). SNAP request names a plan and a round at whose decision staging begins. -/
  | snap (m : Nat) (r : Req)
  /-- SNAPSHOT_STAGING (R378). At round r's decision, after any backfill, stacks start copying snapshot granules into their stages. -/
  | snapshotStaging (ecc : Ecc)
  /-- SNAPSHOT_DRAIN (R382). Once staging completes, the foreman drains segments to the target slot and finally writes the header. -/
  | snapshotDrain
  /-- NVME_COMPLETION (R374). An NVMe command completes; an error status fails the operation with MEDIA. -/
  | nvmeCompletion (drive : Nat) (ok disturbed : Bool)
  /-- NVME_TIMEOUT (R374). An NVMe command not completed after 10 s fails the operation with MEDIA. -/
  | nvmeTimeout (drive : Nat)
  /-- RESTORE (R386). RESTORE request verifies a slot and copies selected regions and records back to HBM. -/
  | restore (m : Nat) (r : Req)
  /-- SLOT_INFO (R396). SLOT_INFO request returns the state of both snapshot slots. -/
  | slotInfo (m : Nat) (r : Req)
  /-- QUOTE (R395). QUOTE request writes a signed attestation quote to HBM. -/
  | quote (m : Nat) (r : Req)
  /-- CERT_READ (R389). CERT_READ request writes the device and intermediate certificates to HBM. -/
  | certRead (m : Nat) (r : Req)
  /-- FW_UPDATE (R394). FW_UPDATE request verifies an image and writes it to the non-running slot as pending. -/
  | fwUpdate (m : Nat) (r : Req)
  /-- FW_COMMIT (R394). FW_COMMIT request burns SVN fuses up to the confirmed running image's SVN. -/
  | fwCommit (m : Nat) (r : Req)
  /-- CFG_UPDATE (R394). CFG_UPDATE request verifies a configuration record and writes it over the older copy. -/
  | cfgUpdate (m : Nat) (r : Req)
  /-- REGISTER_WRITE (R9). A write to a register with no row of its own, by its access code and the window rules. -/
  | registerWrite (host : Bool) (pa width : Nat) (v : Word64)
  /-- UAS_CFG_WRITE (R237). Write of UAS_CFG, taking effect at the next training or taking the port down when ENABLE clears. -/
  | uasCfgWrite (p : Nat) (v : Word32)
  /-- PORT_TRAIN (R235). An enabled port starts training on its lowest unretired lane and sends CAPS. -/
  | portTrain (p : Nat)
  /-- TRAIN_RETRY (R235). A port with no partner repeats its training attempt every 100 ms. -/
  | trainRetry (p : Nat)
  /-- CAPS (R235). A received CAPS flit fixes generation and lanes and switches the port to its rate. -/
  | caps (p : Nat) (c : Caps)
  /-- READY (R235). A received READY flit brings the port up for flits. -/
  | ready (p : Nat)
  /-- FLIT_RECEIVE (R238). A flit is corrected, checked and accepted, or discarded with NAK. -/
  | flitReceive (p : Nat) (f : Flit)
  /-- NAK (R238). A received NAK makes the sender resend from the next sequence number. -/
  | nak (p ack : Nat)
  /-- LINK_SILENCE (R239). No valid flit for 10 µs on an up port triggers a retrain. -/
  | linkSilence (p : Nat)
  /-- UAS_LINK_DOWN (R239). A port not up again within 160 ms goes down and discards its buffers. -/
  | uasLinkDown (p : Nat)
  /-- LANE_RETIRE (R240). A LANE_RETIRE flit moves both ends to three-lane operation or takes the port down. -/
  | laneRetire (p lane : Nat) (accept : Bool)
  /-- ECHO_SEND (R251). Every 10 ms an up port sends an ECHO flit. -/
  | echoSend (p : Nat)
  /-- ECHO (R251). A received ECHO updates the port's one-way delay. -/
  | echo (p roundTrip turnaround : Nat)
  /-- WAKE (R250). A WAKE flit on a WAKE_OK port starts the exit from Vigil or Doze to Full. -/
  | wake (p : Nat)
  /-- MESSAGE_ARRIVAL (R244). A message for another device is forwarded by route table or discarded. -/
  | messageArrival (p : Nat) (msg : FabMsg)
  /-- TALLY_MESSAGE (R245). A TALLY message applies a TSIG to a device tally when TALLY_RX is set. -/
  | tallyMessage (p : Nat) (msg : FabMsg)
  /-- BULK_PUT_SEND (R246). The sender transmits a PUT bulk entry's data to its destination. -/
  | bulkPutSend (tag : Nat) (i : Fetch)
  /-- BULK_TALLY_SEND (R246). Once earlier PUTs are acknowledged, the sender sends a TALLY bulk entry. -/
  | bulkTallySend (tag i : Nat)
  /-- BULK_DATA (R247). A receiver lands PUT data in a landing window or refuses it. -/
  | bulkData (p : Nat) (msg : FabMsg) (last : Bool)
  /-- BULK_ACK (R247). A received BULK_ACK completes a bulk entry and signals its DONE tally, or reports UAS_LAND. -/
  | bulkAck (p tag i : Nat) (refused : Bool)
  /-- BULK_ABORT (R248). A received BULK_ABORT ends a PUT without signalling. -/
  | bulkAbort (p src id : Nat)
  /-- QUERY (R261). A query arriving on a query port is given a slot and delivered to an inbox, or answered VOID. -/
  | query (p : Nat) (msg : FabMsg)
  /-- ANSWER_COLLECT (R262). When a slot's answer tally is at least 1 the tram reads the outbox and sends ANSWER. -/
  | answerCollect (i k : Nat)
  /-- QUERY_VOID_LATE (R263). A query whose VOID_AT passes without a started read receives VOID reason LATE. -/
  | queryVoidLate (i k : Nat)
  /-- IDLE_ENTRY (R292). After IDLE_DELAY with no work, the device enters Idle. -/
  | idleEntry
  /-- POWER_STATE_REACHED (R292). Entry to or exit from Doze or Vigil completes after its stated time. -/
  | powerStateReached (e : BootEnv)
  /-- EBB_ENTER (R295). VIN falling below 42.0 V puts the device in ebb. -/
  | ebbEnter
  /-- EBB_EXIT (R295). VIN held at or above 43.0 V for 100 µs ends ebb. -/
  | ebbExit
  /-- QUENCH (R296). VIN below 38.0 V or above 57.0 V, or a thermal trip, stops the device in order and holds levels in reset. -/
  | quench (cause : QuenchCause)
  /-- VIN_POWER_LOSS (R297). VIN below 36.0 V removes power from every VIN-derived domain. -/
  | vinPowerLoss
  /-- RETURN_TO_SERVICE (R297). VIN held above 44.0 V for 10 ms after a quench returns the device to service. -/
  | returnToService (fails : List Nat)
  /-- VAUX_LOSS (R294). VAUX below 3.0 V resets the whole device including AUX. -/
  | vauxLoss
  /-- SUPPLIES_VALID (R424). Both supplies become valid and the bring-up timeline starts without host action. -/
  | suppliesValid (e : BootEnv)
  /-- THERM_TRIP (R423). A sensor at 115 °C asserts THERM_TRIP_N, quenches and sets the trip latch. -/
  | thermTrip
  /-- JUNCTION_WARN (R418). A junction reaching HDF_I3C_WARN sets the WARN alert cause. -/
  | junctionWarn (level : Option Nat) (temp : Nat)
  /-- RESET_N (R411). RESET_N held low for 10 µs starts a device reset; the timeline restarts on release. -/
  | resetN (lowNs : Nat) (held : Bool) (e : BootEnv)
  /-- PERST_N (R412). PERST_N resets the endpoint only; configuration space follows its deassertion. -/
  | perstN
  /-- PCIE_HOT_RESET (R343). A hot reset or Function Level Reset resets the endpoint and masks MSI-X vectors. -/
  | pcieHotReset
  /-- REFCLK_LOSS (R407). A stopped reference clock takes down its port or stops the controllers. -/
  | refclkLoss (clk : RefClk)
  /-- PATROL_SCRUB (R346). Each stack controller reads every word of its stack once per 24 h. -/
  | patrolScrub (k pc : Nat) (ecc : Ecc)
  /-- LOCATION_TEST (R353). After a TILE_CHECK record the foreman pattern-tests the tile's granules. -/
  | locationTest (pa bytes : Nat) (fails : List Nat)
  /-- PC_RETIRE (R355). The foreman starts retiring a pseudo-channel by migrating its granules to the spill. -/
  | pcRetire (k pc : Nat)
  /-- PC_MIGRATION_DONE (R355). Migration ends; the PCMAP bit is set and PC_RETIRED is recorded. -/
  | pcMigrationDone (k : Nat) (bad : List Nat)
  /-- STOPE_RETIRE (R357). The foreman retires an active stope, ends its commands and starts remapping. -/
  | stopeRetire (phys : Nat)
  /-- REMAP_COMPLETE (R357). The reserve stope passes self-test, holds the logical number and held commands are released. -/
  | remapComplete (phys : Nat) (pass : Bool)
  /-- LEVEL_FAULT (R360). An uncorrectable error in level logic makes the foreman reset and self-test the level. -/
  | levelFault (n : Nat)
  /-- FAULT_RECORD_APPEND (R350). A fault record enters the fault log with its sequence and check, and class H records go to flash. -/
  | faultRecordAppend (rec : List Byte)
  /-- HEARTBEAT (R363). The active controller sends its 100 µs heartbeat to the standby. -/
  | heartbeat
  /-- CONTROLLER_TAKEOVER (R364). On three missing heartbeats or a controller stop, the standby takes over. -/
  | controllerTakeover
  /-- STANDBY_RESYNC (R365). The failed controller is restarted and becomes the synchronised standby. -/
  | standbyResync (pass : Bool)
  /-- SAFE_HALT (R367). A canary trigger drives the device to safe halt. -/
  | safeHalt (h cause : Nat)
  /-- CANARY_LOST (R366). A canary missing its peer's pulse for 1 ms raises CANARY_LOST. -/
  | canaryLost (h : Nat)
  /-- I3C_ENTDAA (R416). I3C common command ENTDAA assigns a dynamic address. -/
  | i3cEntdaa (addr : Nat)
  /-- I3C_SETDASA (R416). I3C common command SETDASA sets the dynamic address from the static one. -/
  | i3cSetdasa (addr : Nat)
  /-- I3C_SETNEWDA (R416). I3C common command SETNEWDA changes the dynamic address. -/
  | i3cSetnewda (addr : Nat)
  /-- I3C_RSTDAA (R416). I3C common command RSTDAA resets the dynamic address. -/
  | i3cRstdaa
  /-- I3C_ENEC (R419). I3C common command ENEC enables in-band interrupts. -/
  | i3cEnec
  /-- I3C_DISEC (R416). I3C common command DISEC disables in-band interrupts. -/
  | i3cDisec
  /-- I3C_GETPID (R416). I3C common command GETPID returns the Provisioned ID. -/
  | i3cGetpid
  /-- I3C_GETBCR (R416). I3C common command GETBCR returns the bus characteristics. -/
  | i3cGetbcr
  /-- I3C_GETDCR (R416). I3C common command GETDCR returns the device characteristics. -/
  | i3cGetdcr
  /-- I3C_GETSTATUS (R416). I3C common command GETSTATUS returns target status. -/
  | i3cGetstatus
  /-- I3C_PRIVATE_WRITE (R416). I3C private write sets the register index or writes one register. -/
  | i3cPrivateWrite (bytes : List Byte)
  /-- I3C_PRIVATE_READ (R416). I3C private read returns registers and advances the index by 4 each. -/
  | i3cPrivateRead (count : Nat)
  /-- JTAG_BYPASS (R420). JTAG BYPASS instruction. -/
  | jtagBypass
  /-- JTAG_IDCODE (R420). JTAG IDCODE instruction returns 0x1816_0A6B. -/
  | jtagIdcode
  /-- JTAG_SAMPLE_PRELOAD (R420). JTAG SAMPLE/PRELOAD instruction on the boundary register. -/
  | jtagSamplePreload (shift : List Bool)
  /-- JTAG_EXTEST (R420). JTAG EXTEST drives the boundary register while RESET_N is low, else acts as BYPASS. -/
  | jtagExtest
  /-- JTAG_CLAMP (R420). JTAG CLAMP while RESET_N is low, else acts as BYPASS. -/
  | jtagClamp
  /-- JTAG_HIGHZ (R420). JTAG HIGHZ while RESET_N is low, else acts as BYPASS. -/
  | jtagHighz
  /-- MONITOR_RETIRED (R351). A monitor block whose counters hold an uncorrectable word in service is retired, and its level's figures read 0 and its stopes write no trace. -/
  | monitorRetired (n : Nat)
  /-- DEPUTY_FAIL (R362). The standby controller stops on a lockstep mismatch or uncorrectable memory word; the active controller records DEPUTY_FAIL and STANDBY clears. -/
  | deputyFail
  /-- SELF_TEST_DONE (R359). A foreman self-test run in place, after a repeated double fault or a level reset, ends and releases held commands or retires the stope. -/
  | selfTestDone (phys : Nat) (pass : Bool)
  /-- VIN_RANGE (R418). VIN stays outside 44.0 V to 56.0 V for 1 ms outside ebb and quench, setting the VIN_RANGE alert cause. -/
  | vinRange
  /-- MBX_COAL_HOLDOFF (R312). The coalescing hold-off time of a response ring passes since the first uncovered slot, and its MSI-X vector is sent. -/
  | mbxCoalHoldoff (m : Nat)
  /-- VAUX_VALID (R404). VAUX alone becomes valid and the AUX domain starts: canaries run and the I3C target answers with VIN_OK clear. -/
  | vauxValid
  /-- SNAPSHOT_LINK_LOSS (R383). The snapshot root port's link goes down, ending an unfinished drain and leaving the other slot unaffected. -/
  | snapshotLinkLoss
  deriving DecidableEq, Repr

end Sys2Proof
end

