-- ==== Sys2Proof/Decode.lean ====
section
/-! DEFINITION. The command that a word of the opcode table spells. -/

namespace Sys2Proof

/-- The command whose table bits are w: no row of the table gives bits, so no word spells a command (DESIGN CHOICE, log 2). -/
def decodeTableWord (_nbits _w : Nat) : Option Instr := none

end Sys2Proof
end

