-- ==== Sys2Proof/Config.lean ====
section
/-! DEFINITION. What an implementation fixes and the spec leaves open: free values, constants without a body. -/

namespace Sys2Proof

/-- The k-th free value of the run (a value that the spec leaves unspecified and the machine goes on with; DESIGN CHOICE,
log 3). -/
opaque Config.freeValue : Nat → Word64

/-- EXP2's bits inside the error bound of R110: one fixed algorithm, a function of the operand (DESIGN CHOICE, log 9). -/
opaque Config.exp2Bits : Word32 → Word32

/-- LOG2's bits inside the error bound of R110 (DESIGN CHOICE, log 9). -/
opaque Config.log2Bits : Word32 → Word32

/-- ML-DSA-65 verification with the empty context (FIPS 204): public key, message, signature (R389, R391 to R393; DESIGN CHOICE, log 18). -/
opaque Config.verifies : List Byte → List Byte → List Byte → Bool

/-- ML-DSA.KeyGen_internal of FIPS 204: public and secret key of a seed (R388; DESIGN CHOICE, log 18). -/
opaque Config.keyGen : List Byte → List Byte × List Byte

/-- The fuzzy extractor over a PUF's start-up values and helper data (R388; DESIGN CHOICE, log 18). -/
opaque Config.fuzzyExtract : List Byte → List Byte → List Byte

/-- The identity block of the flash, which the device never writes: the vendor root and owner public keys; helper data, wrapped seed and
seed tag by headframe (R388, R390; DESIGN CHOICE, log 18). -/
opaque Config.vendorKey : List Byte
opaque Config.ownerKey : List Byte
opaque Config.helperData : Nat → List Byte
opaque Config.wrappedSeed : Nat → List Byte
opaque Config.seedTag : Nat → List Byte

/-- A hedged ML-DSA-65 signature by the device key: the k-th one made (R389; DESIGN CHOICE, log 18). -/
opaque Config.signature : Nat → List Byte → List Byte

/-- The two DER certificates of the identity block, which has 64 KiB (R389, R390; DESIGN CHOICE, log 18). -/
opaque Config.certificateLength : Fin (2 ^ 16)
opaque Config.certificateByte : Nat → Byte
def Config.certificates : List Byte := (List.range Config.certificateLength).map Config.certificateByte

/-- The boot ROM's version and measurement (R395; DESIGN CHOICE, log 18). -/
opaque Config.romVersion : Nat
opaque Config.romDigest : List Byte

/-- The image that stands in firmware slot A at manufacture: VERSION, SVN and the two digests (R391; DESIGN CHOICE,
log 7). -/
opaque Config.factoryVersion : Nat
opaque Config.factorySvn : Nat
opaque Config.factoryFwDigest : List Byte
opaque Config.factoryMicroDigest : List Byte

/-- Word i of the stope microcode whose digest is d, as it stands in an overman's instruction memory (R105; DESIGN CHOICE, log 8).
-/
opaque Config.microWord : List Byte → Nat → Word64

/-- The retirement list's bytes in flash: lane pairs, pseudo-channels, stopes, monitor blocks (R352, R390; DESIGN
CHOICE, log 18). -/
opaque Config.retirementBytes : List Nat → List (Nat × Nat) → List Nat → List Nat → List Byte

/-- The FEC bytes of a flit whose other bytes are given: the spec names the code, not its field polynomial (R234; DESIGN CHOICE, log 20). -/
opaque Config.fecBytes : List Byte → List Byte

/-- The TTL with which a message to a neighbour leaves (R243; DESIGN CHOICE, log 24). -/
opaque Config.hopTtl : BitVec 8

/-- The DATA bytes of control flits, or of SLICE_CTL's TYPE-SPECIFIC bytes, whose layout the spec does not give: by kind and fields
(R234, R243; DESIGN CHOICE, log 24). -/
opaque Config.controlBytes : Nat → List Nat → List Byte

/-- What sensor k reads at device cycle t: supply voltages and power, temperatures (R299, R418, R422; DESIGN
CHOICE, log 37). -/
opaque Config.reading : Nat → Nat → Word32

/-- The I3C Provisioned ID, the same in every device, and the two characteristics registers (R416, R417;
DESIGN CHOICE, log 33). -/
opaque Config.provisionedId : Nat
opaque Config.busCharacteristics : Nat
opaque Config.deviceCharacteristics : Nat

end Sys2Proof
end

