-- ==== Sys2Proof/Machine/Tab.lean ====
section
/-! DEFINITION. Sparse tables: reading, writing and their canonical form. -/

namespace Sys2Proof.Machine

variable {α : Type}

/-- The entry at key k, the default d when k is not listed. -/
def tget (t : Tab α) (d : α) (k : Nat) : α :=
  match t with
  | [] => d
  | (j, v) :: t => if j = k then v else tget t d k

/-- The least of a list of numbers. -/
def leastOf : List Nat → Option Nat
  | [] => none
  | c :: cs => match leastOf cs with | none => some c | some d => some (min c d)

/-- The table without key k. -/
def tdel (t : Tab α) (k : Nat) : Tab α :=
  match t with
  | [] => []
  | (j, v) :: t => if j = k then tdel t k else (j, v) :: tdel t k

/-- The table with v at key k, the keys kept rising. -/
def tput (t : Tab α) (k : Nat) (v : α) : Tab α :=
  match t with
  | [] => [(k, v)]
  | (j, u) :: t =>
    if j = k then (k, v) :: t else if k < j then (k, v) :: (j, u) :: t else (j, u) :: tput t k v

/-- Write v at key k; a write of the default removes the entry. -/
def tset [DecidableEq α] (t : Tab α) (d : α) (k : Nat) (v : α) : Tab α :=
  if v = d then tdel t k else tput t k v

/-- Every key is above lo, or there is no lo. -/
def keysAbove (lo : Option Nat) (t : Tab α) : Bool :=
  match t with
  | [] => true
  | (j, _) :: t => (match lo with | none => true | some l => decide (l < j)) && keysAbove (some j) t

/-- The canonical form: keys strictly rising, no entry equal to the default. -/
def tabWf [DecidableEq α] (d : α) (t : Tab α) : Bool :=
  keysAbove none t && t.all (fun e => decide (e.2 ≠ d))

end Sys2Proof.Machine
end

