-- ==== Sys2Proof/Machine/Bits.lean ====
section
/-! DEFINITION. Bit fields, sign extension, byte order (R6) and CRC-32C (R90). -/

namespace Sys2Proof.Machine

/-- Bits [lo + len - 1 : lo] of n (R6). -/
def bits (n lo len : Nat) : Nat := (n >>> lo) % 2 ^ len

/-- Bit i of n. -/
def bit (n i : Nat) : Bool := n.testBit i

/-- 1 for true. -/
def b2n (b : Bool) : Nat := if b then 1 else 0

/-- The 32-bit immediate as a 64-bit two's complement number (R107). -/
def sext32 (imm : Nat) : Word64 := (BitVec.ofNat 32 imm).signExtend 64

/-- A mask of n ones. -/
def ones (n : Nat) : Nat := 2 ^ n - 1

/-- n elements of `width` bits side by side, element 0 lowest. -/
def packElems (width n : Nat) (f : Nat → Nat) : Nat :=
  (List.range n).foldl (fun v e => v + (f e % 2 ^ width) * 2 ^ (width * e)) 0

/-- All ones in the elements that `en` enables. -/
def maskElems (width n : Nat) (en : Nat → Bool) : Nat := packElems width n (fun e => if en e then ones width else 0)

/-- Element e of a register's bits. -/
def elem (width v e : Nat) : Nat := bits v (width * e) width

/-- The n bytes of x, least significant first (R6). -/
def toBytes (n x : Nat) : List Byte := (List.range n).map (fun i => BitVec.ofNat 8 (x >>> (8 * i)))

/-- The number whose bytes are bs, least significant first (R6). -/
def ofBytes (bs : List Byte) : Nat := bs.foldr (fun b n => n * 256 + b.toNat) 0

/-- Bytes [lo, lo + n) of a byte list as a number; missing bytes read 0. -/
def field (bs : List Byte) (lo n : Nat) : Nat := ofBytes ((bs.drop lo).take n)

/-- One bit step of the reflected CRC-32C. -/
def crcBit (c : Nat) : Nat := if c % 2 = 1 then (c / 2) ^^^ 0x82F63B78 else c / 2

/-- One byte step of the CRC-32C state. -/
def crcByte (c : Word32) (b : Byte) : Word32 :=
  BitVec.ofNat 32 ((List.range 8).foldl (fun x _ => crcBit x) (c.toNat ^^^ b.toNat))

/-- The CRC-32C state after bytes, from state c. -/
def crcRun (c : Word32) (bs : List Byte) : Word32 := bs.foldl crcByte c

/-- The initial CRC-32C state (R90). -/
def crcInit : Word32 := 0xFFFFFFFF

/-- CRC-32C of bytes (R90). -/
def crc32c (bs : List Byte) : Word32 := crcRun crcInit bs ^^^ 0xFFFFFFFF

/-- Saturating addition below 2^w (counters of R9, R85). -/
def satAdd (w a b : Nat) : Nat := min (a + b) (2 ^ w - 1)

/-- The bits of old outside mask, those of val inside. -/
def blend (old val mask : Nat) : Nat := (old ^^^ (old &&& mask)) ||| (val &&& mask)

/-- Wire round a precedes b, half-range window (R270). -/
def precedes32 (a b : Nat) : Bool :=
  let d := (b + 2 ^ 32 - a % 2 ^ 32) % 2 ^ 32
  decide (d ≠ 0 ∧ d ≤ 2 ^ 31)

/-- A wire round extended about the current 48-bit round (R270). -/
def extendRound (w x : Nat) : Int :=
  let d : Nat := (w + 2 ^ 32 - x % 2 ^ 32) % 2 ^ 32
  if d < 2 ^ 31 then (x : Int) + (d : Int) else (x : Int) + (d : Int) - 4294967296

/-- The keys and values of a byte list laid out from address a. -/
def cellsAt (a : Nat) (bs : List Byte) : List (Nat × Byte) := (List.range bs.length).zip bs |>.map (fun e => (a + e.1, e.2))

end Sys2Proof.Machine
end

