-- ==== Sys2Proof/Machine/Fp.lean ====
section
/-! DEFINITION. The number formats and their exact arithmetic (R40, R41, R72, R73, R78 to R81, R108 to R110). -/

namespace Sys2Proof.Machine

/-- A number as a format denotes it: (-1)^neg × m × 2^e, an infinity, or NaN. -/
inductive FpVal where
  | nan
  | inf (neg : Bool)
  | fin (neg : Bool) (m : Nat) (e : Int)
  deriving DecidableEq, Repr

/-- A sign-exponent-mantissa layout (R72). `ieee`: the all-ones exponent holds infinities and NaNs. -/
structure FpFmt where
  eb : Nat
  mb : Nat
  bias : Nat
  ieee : Bool
  deriving DecidableEq, Repr

def fFp32 : FpFmt := ⟨8, 23, 127, true⟩
def fBf16 : FpFmt := ⟨8, 7, 127, true⟩
def fFp16 : FpFmt := ⟨5, 10, 15, true⟩
def fE4m3 : FpFmt := ⟨4, 3, 7, false⟩
def fE5m2 : FpFmt := ⟨5, 2, 15, true⟩
def fE2m1 : FpFmt := ⟨2, 1, 1, false⟩

/-- Exponent of the last place of the subnormals. -/
def fpEmin (f : FpFmt) : Int := 1 - (f.bias : Int) - f.mb

/-- The number that bits x denote in f (R72). -/
def fpDecode (f : FpFmt) (x : Nat) : FpVal :=
  let m := bits x 0 f.mb
  let e := bits x f.mb f.eb
  let s := bit x (f.mb + f.eb)
  if f.ieee ∧ e = 2 ^ f.eb - 1 then (if m = 0 then .inf s else .nan)
  else if f = fE4m3 ∧ e = 15 ∧ m = 7 then .nan
  else if e = 0 then .fin s m (fpEmin f)
  else .fin s (2 ^ f.mb + m) (fpEmin f + (e - 1 : Nat))

/-- The canonical NaN of f (R73). -/
def fpNan (f : FpFmt) : Nat :=
  if f = fE4m3 ∨ f = fE5m2 then 0x7F
  else (2 ^ f.eb - 1) * 2 ^ f.mb + 2 ^ (f.mb - 1)

/-- The magnitude code of infinity in f. -/
def fpInf (f : FpFmt) : Nat := (2 ^ f.eb - 1) * 2 ^ f.mb

/-- The sign bit of f. -/
def fpSign (f : FpFmt) (neg : Bool) : Nat := if neg then 2 ^ (f.mb + f.eb) else 0

/-- The exponent of the last kept place when m × 2^e is rounded to f. -/
def fpPlace (f : FpFmt) (m : Nat) (e : Int) : Int := max (fpEmin f) (e + (Nat.log2 m : Int) - f.mb)

/-- m × 2^(e - q) for q at most e. -/
def shiftUp (m : Nat) (e q : Int) : Nat := m <<< (e - q).toNat

/-- Magnitude code of m × 2^e in f, rounded to nearest even, exponent range unbounded above (R40, R78). -/
def fpRne (f : FpFmt) (m : Nat) (e : Int) : Nat :=
  if m = 0 then 0
  else
    let q := fpPlace f m e
    if q ≤ e then (q - fpEmin f).toNat * 2 ^ f.mb + shiftUp m e q
    else
      let d := (q - e).toNat
      let lo := m >>> d
      let r := m % 2 ^ d
      let up := decide (2 ^ d < 2 * r ∨ (2 * r = 2 ^ d ∧ lo % 2 = 1))
      (q - fpEmin f).toNat * 2 ^ f.mb + lo + b2n up

/-- Magnitude code of m × 2^e in f under stochastic rounding with draw g (R81). -/
def fpSr (f : FpFmt) (g m : Nat) (e : Int) : Nat :=
  if m = 0 then 0
  else
    let q := fpPlace f m e
    if q ≤ e then (q - fpEmin f).toNat * 2 ^ f.mb + shiftUp m e q
    else
      let d := (q - e).toNat
      let lo := m >>> d
      let r := m % 2 ^ d
      let frac := (r <<< 16) >>> d
      (q - fpEmin f).toNat * 2 ^ f.mb + lo + b2n (decide (65536 ≤ frac + g))

/-- v in an IEEE layout, nearest even, canonical NaN, overflow to infinity (R41, R73, R108). -/
def fpRound (f : FpFmt) (v : FpVal) : Nat :=
  match v with
  | .nan => fpNan f
  | .inf s => fpSign f s + fpInf f
  | .fin s m e => fpSign f s + min (fpRne f m e) (fpInf f)

/-- v as FP32 bits. -/
def to32 (v : FpVal) : Word32 := BitVec.ofNat 32 (fpRound fFp32 v)

/-- The number that FP32 bits denote. -/
def of32 (x : Word32) : FpVal := fpDecode fFp32 x.toNat

/-- The exact product, with R41's special values. -/
def fpMul (a b : FpVal) : FpVal :=
  match a, b with
  | .nan, _ => .nan
  | _, .nan => .nan
  | .inf s, .inf t => .inf (s != t)
  | .inf s, .fin t m _ => if m = 0 then .nan else .inf (s != t)
  | .fin s m _, .inf t => if m = 0 then .nan else .inf (s != t)
  | .fin s m e, .fin t n k => .fin (s != t) (m * n) (e + k)

/-- v × 2^k. -/
def fpScale (v : FpVal) (k : Int) : FpVal :=
  match v with
  | .fin s m e => .fin s m (e + k)
  | v => v

/-- -v. -/
def fpNeg (v : FpVal) : FpVal :=
  match v with
  | .nan => .nan
  | .inf s => .inf (!s)
  | .fin s m e => .fin (!s) m e

def fpIsNan (v : FpVal) : Bool := match v with | .nan => true | _ => false
def fpIsInf (v : FpVal) : Bool := match v with | .inf _ => true | _ => false
def fpIsZero (v : FpVal) : Bool := match v with | .fin _ m _ => decide (m = 0) | _ => false
def fpIsNeg (v : FpVal) : Bool := match v with | .nan => false | .inf s => s | .fin s _ _ => s

/-- The finite value of v as an integer multiple of 2^k, k at most v's exponent. -/
def fpInt (v : FpVal) (k : Int) : Int :=
  match v with
  | .fin s m e => (if s then -1 else 1) * (shiftUp m e k : Int)
  | _ => 0

/-- The least exponent among the finite terms. -/
def fpMinExp (vs : List FpVal) : Int :=
  vs.foldl (fun k v => match v with | .fin _ _ e => min k e | _ => k) 0

/-- The exact sum of the terms under R40 and R41: an exact zero is -0 only when every term is -0. -/
def fpSum (vs : List FpVal) : FpVal :=
  if vs.any fpIsNan ∨ (vs.any (fun v => decide (v = .inf false)) ∧ vs.any (fun v => decide (v = .inf true))) then .nan
  else if vs.any (fun v => decide (v = .inf false)) then .inf false
  else if vs.any (fun v => decide (v = .inf true)) then .inf true
  else
    let k := fpMinExp vs
    let t := vs.foldl (fun n v => n + fpInt v k) 0
    if t = 0 then .fin (!vs.isEmpty && vs.all fpIsNeg) 0 0
    else .fin (decide (t < 0)) t.natAbs k

/-- One FP32 addition (R40, R108). -/
def add32 (a b : Word32) : Word32 := to32 (fpSum [of32 a, of32 b])
def sub32 (a b : Word32) : Word32 := to32 (fpSum [of32 a, fpNeg (of32 b)])
def mul32 (a b : Word32) : Word32 := to32 (fpMul (of32 a) (of32 b))
def fma32 (a b c : Word32) : Word32 := to32 (fpSum [fpMul (of32 a) (of32 b), of32 c])
def neg32 (a : Word32) : Word32 := to32 (fpNeg (of32 a))
/-- The exact sum of FP32 terms, rounded once (R109). -/
def xsum32 (xs : List Word32) : Word32 := to32 (fpSum (xs.map of32))

/-- a < b by value; false when either is NaN. -/
def fpLt (a b : FpVal) : Bool :=
  match a, b with
  | .nan, _ => false
  | _, .nan => false
  | .inf s, .inf t => s && !t
  | .inf s, .fin _ _ _ => s
  | .fin _ _ _, .inf t => !t
  | a, b => let k := fpMinExp [a, b]; decide (fpInt a k < fpInt b k)

/-- Equal by value: -0 equals +0; false when either is NaN. -/
def fpEq (a b : FpVal) : Bool := !fpIsNan a && !fpIsNan b && !fpLt a b && !fpLt b a

/-- MAX of R108: NaN when either is NaN, -0 below +0. -/
def fpMax (a b : FpVal) : FpVal :=
  if fpIsNan a ∨ fpIsNan b then .nan
  else if fpLt a b then b else if fpLt b a then a
  else if fpIsNeg a then b else a

/-- MIN of R108. -/
def fpMin (a b : FpVal) : FpVal :=
  if fpIsNan a ∨ fpIsNan b then .nan
  else if fpLt a b then a else if fpLt b a then b
  else if fpIsNeg a then a else b

/-- The integer square root of n, by bits from 2^k down. -/
def isqrtFrom (n : Nat) : Nat → Nat → Nat
  | 0, r => if (r + 1) * (r + 1) ≤ n then r + 1 else r
  | k + 1, r => isqrtFrom n k (if (r + 2 ^ (k + 1)) * (r + 2 ^ (k + 1)) ≤ n then r + 2 ^ (k + 1) else r)

/-- The integer square root. -/
def isqrt (n : Nat) : Nat := isqrtFrom n (Nat.log2 n / 2) 0

/-- A quotient or root q × 2^e with a sticky bit below it. -/
def sticky (neg : Bool) (q : Nat) (exact : Bool) (e : Int) : FpVal := .fin neg (2 * q + b2n (!exact)) (e - 1)

/-- a / b, carried far enough for one correct rounding to FP32 (R110, R226). -/
def fpDiv (a b : FpVal) : FpVal :=
  match a, b with
  | .nan, _ => .nan
  | _, .nan => .nan
  | .inf _, .inf _ => .nan
  | .inf s, .fin t _ _ => .inf (s != t)
  | .fin s _ _, .inf t => .fin (s != t) 0 0
  | .fin s m e, .fin t n k =>
    if n = 0 then (if m = 0 then .nan else .inf (s != t))
    else if m = 0 then .fin (s != t) 0 0
    else
      let sh := Nat.log2 n + 40
      let num := m <<< sh
      sticky (s != t) (num / n) (decide (num % n = 0)) (e - k - sh)

/-- RCP (R110). -/
def rcp32 (x : Word32) : Word32 := to32 (fpDiv (.fin false 1 0) (of32 x))

/-- SQRT (R110). -/
def sqrt32 (x : Word32) : Word32 :=
  match of32 x with
  | .nan => to32 .nan
  | .inf s => to32 (if s then .nan else .inf false)
  | .fin s m e =>
    if m = 0 then to32 (.fin s 0 0)
    else if s then to32 .nan
    else
      let sh := 60 + (e % 2).toNat
      let n := m <<< sh
      let r := isqrt n
      to32 (sticky false r (decide (r * r = n)) ((e - sh) / 2))

/-- RSQ (R110). -/
def rsq32 (x : Word32) : Word32 :=
  match of32 x with
  | .nan => to32 .nan
  | .inf s => to32 (if s then .nan else .fin false 0 0)
  | .fin s m e =>
    if m = 0 then to32 (.inf s)
    else if s then to32 .nan
    else
      let sh := 120 + (e % 2).toNat
      let r := isqrt ((2 ^ sh) / m)
      to32 (sticky false r (decide (r * r * m = 2 ^ sh)) ((-e - sh) / 2))

/-- floor of a finite value, for |v| below 2^24. -/
def fpFloor (s : Bool) (m : Nat) (e : Int) : Int :=
  let n : Int := if s then -(m : Int) else m
  if 0 ≤ e then n * 2 ^ e.toNat else n / 2 ^ (-e).toNat

/-- The largest FP32 magnitude code whose value is at most z × 2^k, and whether it is that value (DESIGN CHOICE, log 9). -/
def codeBelow (z : Nat) (k : Int) : Nat × Bool :=
  if z = 0 then (0, true)
  else
    let q := fpPlace fFp32 z k
    let base := (q - fpEmin fFp32).toNat * 2 ^ 23
    if q ≤ k then (base + shiftUp z k q, true) else (base + z >>> (q - k).toNat, decide (z % 2 ^ (q - k).toNat = 0))

/-- The magnitude code, taken from v, of a result within one unit in the last place of a value that lies strictly between lo ×
2^k and hi × 2^k, or is both of them (R110; DESIGN CHOICE, log 9). -/
def nearCode (lo hi : Nat) (k : Int) (v : Nat) : Nat :=
  let strict : Bool := decide (lo ≠ hi)
  let u := 2 ^ (fpPlace fFp32 (if strict then hi - 1 else hi) k - k).toNat
  let a := codeBelow (lo - u) k
  let b := codeBelow (hi + u) k
  let least := if lo < u then 0 else if a.2 && !strict then a.1 else a.1 + 1
  max least (min (min 0x7F800000 (if b.2 && strict then b.1 - 1 else b.1)) v)

/-- The product of the roots 2^(2^(-i)) that the bits of f select, i from the next one on, k of them: 96 fraction bits, each
step rounded down (up = 0) or up (up = 1) (DESIGN CHOICE, log 9). -/
def powBits (up f : Nat) : Nat → Nat → Nat → Nat
  | 0, _, p => p
  | k + 1, r, p =>
    let r := isqrt (r * 2 ^ 96) + up
    powBits up f k r (if f.testBit k then p * r / 2 ^ 96 + up else p)

/-- Bounds of 2^(f / 2^64), 96 fraction bits; `more`: the exponent lies above f by less than one of its last places (DESIGN
CHOICE, log 9). -/
def powBounds (f : Nat) (more : Bool) : Nat × Nat :=
  if f = 0 ∧ more = false then (2 ^ 96, 2 ^ 96)
  else
    let g := f + b2n more
    (powBits 0 f 64 (2 ^ 97) (2 ^ 96), if g = 2 ^ 64 then 2 ^ 97 else powBits 1 g 64 (2 ^ 97) (2 ^ 96))

/-- EXP2 (R110). Which of the results within one unit in the last place comes is a free function of the operand
(DESIGN CHOICE, log 9). -/
def exp2At (x : Word32) : Word32 :=
  match of32 x with
  | .nan => to32 .nan
  | .inf s => to32 (if s then .fin false 0 0 else .inf false)
  | .fin s m e =>
    if m = 0 then to32 (.fin false 1 0)
    else if 30 < e + (Nat.log2 m : Int) then to32 (if s then .fin false 0 0 else .inf false)
    else
      let n := fpFloor s m e
      let d := (-e).toNat
      let f := if s then (2 ^ d - m % 2 ^ d) % 2 ^ d else m % 2 ^ d
      let b := powBounds (f * 2 ^ 64 / 2 ^ d) (decide (f * 2 ^ 64 % 2 ^ d ≠ 0))
      if 128 ≤ n then to32 (.inf false)
      else if n < -151 then to32 (.fin false 0 0)
      else BitVec.ofNat 32 (nearCode b.1 b.2 (n - 96) (Config.exp2Bits x).toNat)

/-- The next k bits of the logarithm of z, 256 fraction bits, each square rounded down (up = 0) or up (up = 1) (DESIGN CHOICE,
log 9). -/
def logBits (up : Nat) : Nat → Nat → Nat → Nat
  | 0, _, acc => acc
  | k + 1, z, acc =>
    let z := z * z / 2 ^ 256 + up
    if 2 ^ 257 ≤ z then logBits up k (z / 2 + up) (2 * acc + 1) else logBits up k z (2 * acc)

/-- LOG2 (R110), free inside its bound as EXP2 is (DESIGN CHOICE, log 9). -/
def log2At (x : Word32) : Word32 :=
  match of32 x with
  | .nan => to32 .nan
  | .inf s => to32 (if s then .nan else .inf false)
  | .fin s m e =>
    if m = 0 then to32 (.inf true)
    else if s then to32 .nan
    else
      let n : Int := e + Nat.log2 m
      let z := m * 2 ^ 256 / 2 ^ Nat.log2 m
      let v := (Config.log2Bits x).toNat % 2 ^ 31
      if z = 2 ^ 256 then
        if n = 0 then to32 (.fin false 0 0)
        else BitVec.ofNat 32 (b2n (decide (n < 0)) * 2 ^ 31 + nearCode (n.natAbs * 2 ^ 80) (n.natAbs * 2 ^ 80) (-80) v)
      else
        let lo := n * 2 ^ 80 + (logBits 0 80 z 0 : Int)
        let hi := n * 2 ^ 80 + (logBits 1 80 z 0 : Int) + 1
        if n < 0 then BitVec.ofNat 32 (2 ^ 31 + nearCode hi.natAbs lo.natAbs (-80) v)
        else BitVec.ofNat 32 (nearCode lo.natAbs hi.natAbs (-80) v)

/-! ### Conversions -/

/-- The layout of a tile or vector format code that has one (R71); MX formats give their element layout. -/
def fmtLayout (code : Nat) : Option FpFmt :=
  match code with
  | 1 => some fFp32 | 2 => some fBf16 | 3 => some fFp16 | 4 => some fE4m3 | 5 => some fE5m2
  | 6 => some fE4m3 | 7 => some fE5m2 | 8 => some fE2m1 | _ => none

/-- Bits per element of a format code (R71). -/
def fmtBits (code : Nat) : Nat :=
  match code with | 1 => 32 | 2 => 16 | 3 => 16 | 8 => 4 | _ => 8

/-- An MX format (R71). -/
def isMx (code : Nat) : Bool := decide (code = 6 ∨ code = 7 ∨ code = 8)

/-- Largest finite magnitude code of a layout (R72). -/
def fpMaxFinite (f : FpFmt) : Nat :=
  if f = fE4m3 then 0x7E else if f.ieee then fpInf f - 1 else 2 ^ (f.eb + f.mb) - 1

/-- The class that a narrowing counts an element in (R79). -/
inductive CvtClass where
  | none | nan | sat | under
  deriving DecidableEq, Repr

/-- One narrowing of the FP32 value x scaled by 2^k into layout f, with draw g under SR; BF16 and FP16 overflow to
infinity, the 8- and 4-bit formats saturate, E5M2 keeps infinities (R78, R79). -/
def narrow (f : FpFmt) (wide : Bool) (k : Int) (g : Option Nat) (x : Word32) : Nat × CvtClass :=
  match of32 x with
  | .nan => (fpNan f, .nan)
  | .inf s =>
    (fpSign f s + (if f.ieee then fpInf f else fpMaxFinite f), .sat)
  | .fin s m e =>
    let c := match g with | some g => fpSr f g m (e + k) | none => fpRne f m (e + k)
    if fpMaxFinite f < c then (fpSign f s + (if wide then fpInf f else fpMaxFinite f), .sat)
    else (fpSign f s + c, if c = 0 ∧ m ≠ 0 then .under else .none)

/-- floor(log2 |v|) of a finite non-zero magnitude. -/
def fpExpo (v : FpVal) : Int := match v with | .fin _ m e => e + Nat.log2 m | _ => 0

/-- emax of R75. -/
def mxEmax (code : Nat) : Int := match code with | 6 => 8 | 7 => 15 | _ => 2

/-- The block scale of the enabled values of an MX block (R75 steps 1 to 3). -/
def mxScale (code : Nat) (xs : List Word32) : Nat :=
  let vs := xs.map of32
  if vs.any (fun v => fpIsNan v || fpIsInf v) then 0xFF
  else
    let nz := vs.filter (fun v => !fpIsZero v)
    match nz.map fpExpo with
    | [] => 0
    | e :: es => (127 + max (-127) (es.foldl max e - mxEmax code)).toNat

/-- One element of an MX block under its scale (R75, R78, R79). -/
def mxNarrow (code scale : Nat) (g : Option Nat) (x : Word32) : Nat × CvtClass :=
  let f := (fmtLayout code).getD fE2m1
  if scale = 0xFF then
    (0, match of32 x with
        | .nan => .nan | .inf _ => .sat | .fin _ m _ => if m = 0 then .none else .under)
  else narrow f false (127 - (scale : Int)) g x

/-- Widening to FP32 of an element scaled by 2^(scale - 127); a scale of 0xFF gives NaN (R80). -/
def widen (f : FpFmt) (scale : Nat) (x : Nat) : Word32 :=
  if scale = 0xFF then to32 .nan else to32 (fpScale (fpDecode f x) ((scale : Int) - 127))

/-! ### Stochastic generators (R82, R83) -/

/-- The seed of lane l of crew c on logical stope s from key K (R82). -/
def srSeed (key s c l : Nat) : BitVec 16 :=
  let m : Nat := (key ^^^ (s <<< 9) ^^^ (c <<< 5) ^^^ l) % 2 ^ 32
  let m := (m * 0x9E3779B1) % 2 ^ 32
  let m := m ^^^ (m >>> 15)
  let g := (m % 2 ^ 16) ^^^ (m >>> 16)
  BitVec.ofNat 16 (if g = 0 then 1 else g)

/-- One Galois step (R83). -/
def srStep (g : BitVec 16) : BitVec 16 := if g.getLsbD 0 then (g >>> 1) ^^^ 0xB400 else g >>> 1

/-- n Galois steps. -/
def srSteps (n : Nat) (g : BitVec 16) : BitVec 16 := (List.range n).foldl (fun g _ => srStep g) g

end Sys2Proof.Machine
end

