-- ==== Sys2Proof/Machine/State.lean ====
section
/-! DEFINITION. The state of the V8160 as plain data, and the state after reset. Every field's default is its
reset value, so the state after reset is the structure of all defaults. Indexed state is a sparse table
(`Tab`) whose unlisted entries hold the default of their type. -/

namespace Sys2Proof.Machine

/-! ### Crews and overmen (R104, R105, R124) -/

/-- The crew states of R124. For an overman: idle stands for in reset, running for running, waiting for
asleep in EVWAIT, stopped for halted. -/
inductive CrewState where
  | idle | running | waiting | fenced | stopped | faulted
  deriving DecidableEq, Repr

/-- A claim window (R159). -/
structure Claim where
  valid : Bool := false
  vbase : Nat := 0
  pbase : Nat := 0
  rd : Bool := false
  wr : Bool := false
  mode : Nat := 0
  log2 : Nat := 0
  deriving DecidableEq, Repr

/-- One entry of the loop stack (R118). -/
structure Loop where
  start : Nat
  stop : Nat
  remaining : Nat
  index : Nat
  deriving DecidableEq, Repr

/-- The destination of a register write in flight (R100, R102). -/
inductive Dest where
  | s (i : Nat) | v (i : Nat) | p (i : Nat) | lc (i : Nat)
  /-- the payload of row r of tile register t -/
  | tile (t r : Nat)
  /-- the scale bytes of row r of tile register t -/
  | scale (t r : Nat)
  deriving DecidableEq, Repr

/-- What a write in flight does when it lands. -/
inductive Eff where
  /-- bits of val under mask go to the destination -/
  | reg (d : Dest) (val mask : Nat)
  /-- the converted elements of a CVTT join the pending statistics of tile register t and the stope's
  counters (R79, R86, R102) -/
  | stats (t amax sat und nan : Nat)
  /-- the counts of a CVT join the stope's counters (R79) -/
  | counts (sat und nan : Nat)
  /-- bytes land in the agent's store -/
  | store (cells : List Host.Cell)
  /-- an AWR row lands (R64) -/
  | acc (arr row val : Nat)
  /-- an ACLR ends: rows row to row + n - 1 hold +0.0 (R64) -/
  | clear (arr row n : Nat)
  /-- the generators take new seeds (R82) -/
  | seed (key : Nat)
  /-- a CRWR of the overman: crew, element name, value (R128, R129) -/
  | elem (cr sys val : Nat)
  /-- a CLMLD or CLMINV of the overman takes effect (R128) -/
  | claim (win : Nat) (c : Claim)
  deriving DecidableEq, Repr

/-- A write in flight: it lands at the counted cycle `ready`. -/
structure Pend where
  ready : Nat
  eff : Eff
  deriving DecidableEq, Repr

/-- Where a TTAKE or TWATCH stands (R173, R174, R176, R183). -/
inductive WaitPhase where
  /-- on its way to the tally block -/
  | travelling
  /-- in the block's waiter list -/
  | listed
  /-- released by the scan, the release on its way back -/
  | released
  /-- withdrawn from the list -/
  | withdrawn
  /-- released before the withdrawal reached the block: the take stands -/
  | stands
  deriving DecidableEq, Repr

/-- A crew's outstanding wait. -/
structure Wait where
  sc : Scope
  unit : Nat
  num : Nat
  n : Nat
  take : Bool
  issued : Nat
  phase : WaitPhase
  /-- device cycle before which the released crew is not eligible to issue (R183) -/
  due : Nat := 0
  /-- device cycle up to which the wait is counted, when later than its issue (R342) -/
  since : Nat := 0
  deriving DecidableEq, Repr

/-- A tile register's held transfer (R148, table "Tile state"). -/
structure Held where
  /-- false TLD, true TST -/
  store : Bool
  /-- assay record address when the TST names one -/
  recVa : Option Nat
  check : Bool
  prog : Nat
  q : Nat
  va : Nat
  tag : Nat
  /-- running CRC state -/
  crc : Word32
  code : Nat
  /-- the shape captured at issue, and whether a TCFG or TREL took the register away since (R140) -/
  rows : Nat
  len : Nat
  fmt : Nat
  gone : Bool := false
  deriving DecidableEq, Repr

/-- A tile register (R76, R86, R136 to R139). ROWS = 0 means unconfigured. -/
structure Tile where
  rows : Nat := 0
  /-- row length in bytes -/
  len : Nat := 0
  fmt : Nat := 0
  /-- row r in bits: byte b at [8b + 7 : 8b] -/
  data : Tab (BitVec 2048) := []
  /-- scale bytes of row r -/
  scale : Tab (BitVec 128) := []
  inUse : Bool := false
  pending : Bool := false
  amax : Nat := 0
  sat : Nat := 0
  und : Nat := 0
  nan : Nat := 0
  held : Option Held := none
  /-- counted cycle, plus 1, of the latest writes, and the rows and scales written in it as they stood before (R52) -/
  wasAt : Nat := 0
  was : Tab (Option (BitVec 2048)) := []
  wasScale : Tab (Option (BitVec 128)) := []
  /-- the bits that crew writes of that cycle have put into each row and its scale bytes (R140) -/
  crewBits : Tab (BitVec 2048) := []
  crewScale : Tab (BitVec 128) := []
  deriving DecidableEq, Repr

/-- A crew's registers and control (R104); also the overman's scalar side (R105), as agent 16 of its stope. -/
structure Crew where
  state : CrewState := .idle
  pc : Nat := 0
  /-- word 32,767 issued without a branch: the next issue raises PC_RANGE (R117) -/
  ranOff : Bool := false
  s : Tab Word64 := []
  v : Tab (BitVec 4096) := []
  p : Tab (BitVec 256) := []
  lc : Tab Word32 := []
  tiles : Tab Tile := []
  /-- innermost first -/
  loops : List Loop := []
  /-- generator of lane l; 0x0001 when unlisted (R104) -/
  gens : Tab (BitVec 16) := []
  /-- counted cycle before which the agent issues nothing -/
  nextIssue : Nat := 0
  /-- device cycle before which the crew issues nothing (R128) -/
  wakeAt : Nat := 0
  pend : List Pend := []
  /-- latest ready cycle of the agent's store and accumulator writes (R171) -/
  relPoint : Nat := 0
  wait : Option Wait := none
  /-- a CRSTOP's withdrawal is under way (R176) -/
  stopping : Bool := false
  /-- device cycle from which a CRSTOP shows (R128), and the state before it -/
  stopAt : Nat := 0
  wasState : CrewState := .idle
  faultCode : Nat := 0
  faultPc : Nat := 0
  /-- the resume address of the FENCE that holds the crew (R122) -/
  fenceTgt : Nat := 0
  /-- the command the agent works for -/
  tag : Nat := 0
  epoch : Nat := 0
  round : Nat := 0
  /-- cycle since which the crew has been held at issue by the tram or the hoist queue (R141, R152) -/
  tramSince : Option Nat := none
  /-- counted cycle up to which that hold is counted, when later than its start (R342) -/
  tramCounted : Nat := 0
  stallTally : Nat := 0
  stallTram : Nat := 0
  stallIssue : Nat := 0
  deriving DecidableEq, Repr

/-! ### Tallies (R168 to R190) -/

/-- A waiter in a tally block's list, oldest first in the list. -/
structure Waiter where
  st : Nat
  cr : Nat
  n : Nat
  take : Bool
  arrived : Nat
  deriving DecidableEq, Repr

/-- Who makes a signal: SOURCE and UNIT of R179, its crew, and the command it works for. -/
structure Issuer where
  source : Nat
  unit : Nat
  crew : Nat := 0
  tag : Nat := 0
  epoch : Nat := 0
  deriving DecidableEq, Repr

/-- A signal that reaches a tally. -/
structure SigIn where
  sub : Bool
  n : Nat
  by' : Issuer
  deriving DecidableEq, Repr

/-- What reached a tally's block in one cycle (R173, R176): the count, flags and waiters as they stood before it, a register
write, the signals, the waits that arrived and those that were withdrawn. -/
structure Visit where
  cycle : Nat
  count : Nat
  sat : Bool
  under : Bool
  waiters : List Waiter
  setTo : Option Nat := none
  ins : List SigIn := []
  joined : List Waiter := []
  /-- a drop restored the count: the block scans whether or not the count rose (R188) -/
  rescan : Bool := false
  gone : List (Nat × Nat) := []
  deriving DecidableEq, Repr

/-- A tally: count, round-start base, flags and waiters; what reached it in its latest cycle. -/
structure Tally where
  count : Nat := 0
  base : Nat := 0
  sat : Bool := false
  under : Bool := false
  waiters : List Waiter := []
  visit : Option Visit := none
  deriving DecidableEq, Repr

/-- A TSIG between its issue and its effect (R171). `rel` is the counted cycle of its release point. -/
structure Signal where
  st : Nat
  ag : Nat
  rel : Nat
  sc : Scope
  unit : Nat
  num : Nat
  sub : Bool
  n : Nat
  tag : Nat
  epoch : Nat
  deriving DecidableEq, Repr

/-! ### The twin arrays (R38 to R70) -/

/-- One cell row of a weight plane: 256 cells of 16 bits, the scale of each column, the loading format
(0 when no WLD wrote it). -/
structure WRow where
  bits : BitVec 4096 := 0
  scale : BitVec 2048 := 0
  fmt : Nat := 0
  deriving DecidableEq, Repr

/-- The timing of a weight load's rows: one a cycle, four a cycle (R44), or all in one cycle (the rewrite of a
check hold, R49). -/
inductive Pace where
  | slow | quick | atOnce
  deriving DecidableEq, Repr

/-- A weight load: row r lands at issue + 1 + r, at issue + 1 + r mod 64, or at issue, as its pace says. The rows of `skip`, which
an uncorrectable store word feeds, are read and not written (R347). -/
structure Load where
  issue : Nat
  pace : Pace
  rows : Tab WRow
  skip : List Nat := []
  deriving DecidableEq, Repr

/-- A weight plane: its settled rows and its loads, newest first (R48). -/
structure Plane where
  base : Tab WRow := []
  loads : List Load := []
  valid : Bool := false
  fmt : Nat := 0
  deriving DecidableEq, Repr

/-- A stream whose rows are still to enter (R52). -/
structure Stream where
  /-- column-read (MSTRT) -/
  column : Bool
  wide : Bool
  accum : Bool
  base : Nat
  crew : Nat
  tile : Nat
  rows : Nat
  pitch : Nat
  issue : Nat
  fmt : Nat
  next : Nat
  /-- a TCFG or TREL took the source away: rows that enter read as 0 (R140) -/
  zeroA : Bool := false
  zeroB : Bool := false
  deriving DecidableEq, Repr

/-- A row between its feed and its accumulator row (R52, R54). -/
structure Flight where
  column : Bool
  wide : Bool
  accum : Bool
  row : Nat
  entry : Nat
  ready : Nat
  fmt : Nat
  plane : Nat
  /-- the crew whose stream the row belongs to -/
  crew : Nat
  x : BitVec 4096
  scale : BitVec 128
  deriving DecidableEq, Repr

/-- One array: planes, feed, accumulator memory. -/
structure Arr where
  /-- the shape from counted cycle `shapeAt` on, and the one before it (R58) -/
  wide : Bool := false
  shapeAt : Nat := 0
  wasWide : Bool := false
  /-- the active plane from counted cycle `swapAt` on, and the one before it (R47) -/
  active : Nat := 0
  swapAt : Nat := 0
  wasActive : Nat := 0
  plane0 : Plane := {}
  plane1 : Plane := {}
  feedFree : Nat := 0
  /-- entry cycle of the latest column-read row plus 1, 0 for none (R57) -/
  lastCol : Nat := 0
  /-- entry cycle of the latest normal-shape forward row plus 1, 0 for none (R57) -/
  lastFwd : Nat := 0
  portFree : Nat := 0
  streams : List Stream := []
  flights : List Flight := []
  acc : Tab (BitVec 8192) := []
  /-- counted cycle, plus 1, of the latest writes, and the rows written in it as they stood before (R65) -/
  accAt : Nat := 0
  accWas : Tab (Option (BitVec 8192)) := []
  /-- counted cycle since which the crew port has been taken without a break (R64) -/
  portSince : Nat := 0
  rowsIn : Nat := 0
  /-- counted cycle, plus 1, in which the latest row entered -/
  rowAt : Nat := 0
  /-- counted cycle up to which the activation-wait cycles are counted (R70) -/
  mark : Nat := 0
  stallWeight : Nat := 0
  stallAct : Nat := 0
  stallPort : Nat := 0
  deriving DecidableEq, Repr

/-- The tile check of a WLD that is still to be made (R49): stored tile `part` of the block at store offset `base`,
its second half, or the scale tile. -/
structure WCheck where
  due : Nat
  /-- the WLD's issue cycle, which names its load -/
  issue : Nat
  base : Nat
  fmt : Nat
  part : Nat
  half : Nat
  isScale : Bool
  plane0 : Nat
  plane1 : Nat
  crew : Nat
  tag : Nat
  epoch : Nat
  /-- a word of the tile stayed uncorrectable (R347) -/
  uncorr : Bool
  deriving DecidableEq, Repr

/-- The WLD whose rows the load path still reads (R44 to R46, R347). -/
structure WldRun where
  issue : Nat
  pace : Pace
  base : Nat
  fmt : Nat
  plane0 : Nat
  plane1 : Nat
  /-- cell rows that an uncorrectable store word feeds -/
  bad : List Nat
  /-- cycles of reading done -/
  next : Nat
  deriving DecidableEq, Repr

/-- The counted clock of a stope (R67, R68): counted cycles run at 1/div of the device clock from `start`,
and stand still while stopped. -/
structure Clk where
  base : Nat := 0
  start : Nat := 0
  div : Nat := 1
  stopped : Bool := false
  deriving DecidableEq, Repr

/-! ### Trams (R141 to R167) -/

/-- A tram descriptor (R154) as read at issue. -/
structure TramDesc where
  kind : Nat
  srcTiled : Bool
  dstTiled : Bool
  esize : Nat
  srcTPitch : Nat
  dstTPitch : Nat
  srcVa : Nat
  dstVa : Nat
  rowBytes : Nat
  rows : Nat
  srcPitch : Nat
  dstPitch : Nat
  srcShape : Word64
  dstShape : Word64
  /-- some reserved bit or field was not zero -/
  reservedSet : Bool
  deriving DecidableEq, Repr

/-- What a tram moves. -/
inductive XKind where
  | tld
  | tst (recVa : Option Nat)
  | tram (d : TramDesc)
  deriving DecidableEq, Repr

/-- A row issued and not yet retired: the physical ranges (address, length) of its source and of its destination, and
the data where it was taken at issue (TST, FILL). -/
structure XRow where
  row : Nat
  src : List (Nat × Nat)
  dst : List (Nat × Nat)
  data : List Byte
  /-- order of issue in its tram (R17) -/
  seq : Nat := 0
  deriving DecidableEq, Repr

/-- The stages of a transfer in the tram. -/
inductive XStage where
  | queued
  /-- waits for the acknowledgement of the PRESENT = 0 entry (R95) -/
  | entry
  | moving
  /-- the last row of the transfer or of a tile retired: check or final entry to come -/
  | closing
  /-- the final entry is written: the record update is to come -/
  | record
  /-- the record update is done or not needed; the final entry is acknowledged -/
  | done
  deriving DecidableEq, Repr

/-- A transfer queued or active (R152). -/
structure Xfer where
  id : Nat
  kind : XKind
  crew : Nat
  tile : Nat
  va : Nat
  q : Nat
  tag : Nat
  epoch : Nat
  round : Nat
  /-- shape captured at issue (R140) -/
  rows : Nat
  len : Nat
  fmt : Nat
  stage : XStage := .queued
  /-- next row to translate -/
  next : Nat := 0
  /-- rows retired -/
  prog : Nat := 0
  flying : List XRow := []
  /-- order in its tram of the sidecar entries or the record that are on their way (R17) -/
  sentSeq : Nat := 0
  crc : Word32 := 0
  /-- physical address of the first byte of row 0 or of the current tile, once known -/
  pa0 : Option Nat := none
  /-- scale bytes of the rows issued (TST) or retired (TLD) -/
  scales : Tab (BitVec 128) := []
  dstPa0 : Option Nat := none
  /-- where the destination rows of a TURN begin, and its tiles, as translated (R155, R160) -/
  turnRows : List Nat := []
  turnTiles : List Nat := []
  /-- source rows of a TURN from PROG on whose squares are not complete, and crc and pa0 as they stood before them (R155) -/
  band : List Byte := []
  bandCrc : Word32 := 0
  bandPa0 : Option Nat := none
  dstCrc : Word32 := 0
  /-- the source tile that ends here has been checked (R156) -/
  srcOk : Bool := false
  /-- dstCrc at the first row of the source tile in progress -/
  dstMark : Word32 := 0
  /-- the stope whose program memory a COPY writes (R121, R122) -/
  progSt : Option Nat := none
  /-- a dispatcher's copy of a program image: its addresses are physical, it signals nothing, and its end may ask for a swap (R326, R328) -/
  phys : Bool := false
  swapAfter : Bool := false
  /-- device cycle in which the latest row retired -/
  retiredAt : Nat := 0
  /-- a mark ends the transfer at its next row boundary (R166) -/
  ending : Bool := false
  /-- fault found at a row: code and faulting virtual address -/
  fault : Option (Nat × Nat) := none
  check : Bool := false
  /-- TCFG or TREL took the register away (R140) -/
  discard : Bool := false
  retried : Bool := false
  /-- a quiesce takes the transfer at its next row boundary (R164) -/
  stop : Bool := false
  /-- the last faulting access direction: true write -/
  faultWr : Bool := false
  deriving DecidableEq, Repr

/-- An event for the overman (R131, R149). -/
structure Event where
  cls : Nat
  crew : Nat := 0
  code : Nat := 0
  pc : Nat := 0
  /-- bits [53:48] of OVM_ECAUSE -/
  extra : Nat := 0
  arg : Nat := 0
  tag : Nat := 0
  epoch : Nat := 0
  deriving DecidableEq, Repr

/-- A HOIST handed over and not yet read (R210, R211). -/
structure HoistOp where
  crew : Nat
  slot : Nat
  q : Nat
  offset : Nat
  rel : Nat
  arrays : List Nat
  row : Nat
  rows : Nat
  tag : Nat
  seq : Nat
  deriving DecidableEq, Repr

/-- A segment read by a hoist and on its way to its home hoist (R213). -/
structure Segment where
  st : Nat
  arr : Nat
  seq : Nat
  home : Nat
  slot : Nat
  /-- the command's tag, the reduction's ID and its round -/
  tag : Nat
  id : Nat
  round : Nat
  /-- first reduction element -/
  elem : Nat
  rows : List (BitVec 8192)
  deriving DecidableEq, Repr

/-- The monitor's figures and the trace ring of a stope (R337 to R342). -/
structure Trace where
  ctl : Word32 := 3
  head : Nat := 0
  count : Nat := 0
  lost : Nat := 0
  /-- records since the last clear -/
  sinceClear : Nat := 0
  /-- records still to be written at the start of device cycle queuedAt, with those that arrived in it, and the AGENT bytes of that
  cycle's records (R339) -/
  queued : Nat := 0
  queuedAt : Nat := 0
  cycleAgents : List Nat := []
  stallClaim : Nat := 0
  /-- device cycle since which a transfer is held with CLAIM_FAULT -/
  claimAt : Option Nat := none
  stallHbm : Nat := 0
  stallLink : Nat := 0
  deriving DecidableEq, Repr

/-- A stope, by logical number (R12). -/
structure Stope where
  /-- agents 0 to 15 the crews, 16 the overman -/
  agents : Tab Crew := []
  clk : Clk := {}
  arr0 : Arr := {}
  arr1 : Arr := {}
  wldFree : Nat := 0
  /-- counted cycle since which the load path has been taken without a break (R70) -/
  wldSince : Nat := 0
  /-- first cycle and bank count of the load in progress (R46) -/
  wldStart : Nat := 0
  wldBanks : Nat := 0
  /-- the crew of the latest WLD -/
  wldCrew : Nat := 0
  wld : Option WldRun := none
  wchecks : List WCheck := []
  /-- tiles in the check hold and its first device cycle (R49) -/
  hold : List WCheck := []
  holdAt : Nat := 0
  /-- a quench or a safe halt holds the stope until its level resets (R296, R367) -/
  halted : Bool := false
  /-- check holds past: counted cycle and length, latest first (R70) -/
  holdsPast : List (Nat × Nat) := []
  /-- sidecar array: entry of store granule (R93) -/
  side : Tab Word64 := []
  -- issue slots of the current counted cycle (R125, R126)
  slotCycle : Nat := 0
  slotUsed : Nat := 0
  slotSfu : Nat := 0
  slotRed : Nat := 0
  slotCvt : Nat := 0
  slotXfer : Nat := 0
  slotBanks : Nat := 0
  /-- the crew that issued first in the last issuing cycle, the crew at which that cycle's scan began, and the places of that
  scan already passed (R125; DESIGN CHOICE, log 6) -/
  rotor : Nat := 15
  scanFrom : Nat := 0
  scanPast : Nat := 0
  /-- counted cycles in which four crews issued, as far as a running crew may still be waiting since: the crew at which the scan began
  and the place of the fourth (R125) -/
  fullScans : List (Nat × Nat × Nat) := []
  -- program banks (R121 to R123, R135)
  bank : Nat := 0
  swapPending : Bool := false
  cancelled : Bool := false
  swaps : Nat := 0
  -- overman (R131 to R134)
  evOn : Bool := false
  inHandler : Bool := false
  crwIgn : Bool := false
  fltBusy : Bool := false
  overrun : Nat := 0
  /-- device cycle, plus 1, in which OVERRUN bits were last set, and those bits (R10) -/
  overAt : Nat := 0
  overFresh : Nat := 0
  double : Bool := false
  epc : Word64 := 0
  ecause : Word64 := 0
  earg : Word64 := 0
  etag : Word64 := 0
  evMask : Word64 := 0
  ctxAddr : Word64 := 0
  ctxBusy : Bool := false
  /-- the context operation under way: crew, restore, address (R165) -/
  ctxOp : Option (Nat × Bool × Nat) := none
  /-- image bytes saved since the stope was last asked to yield (R337) -/
  ctxBytes : Nat := 0
  ctxErr : Bool := false
  trmErr : Bool := false
  traceArg : Word64 := 0
  events : List Event := []
  /-- digest of the verified microcode that stands in the overman's instruction memory; none before a load (R105, R392) -/
  micro : Option (List Byte) := none
  -- tram (R152 to R167)
  queue : List Xfer := []
  nextId : Nat := 0
  /-- rows issued so far, and the transfer that issued the latest (R17, R152) -/
  rowSeq : Nat := 0
  rowTurn : Nat := 0
  heldSlots : Tab (Option Xfer) := []
  quiesce : Bool := false
  claims : Tab Claim := []
  chkTransient : Nat := 0
  chkPersistent : Nat := 0
  chkMismatch : Nat := 0
  discarded : Nat := 0
  resumed : Nat := 0
  rdBytes : Nat := 0
  wrBytes : Nat := 0
  -- HOISTs (R210 to R214)
  hoists : List HoistOp := []
  segments : List Segment := []
  hoistSeq : Nat := 0
  -- tallies, sleep (R180, R189)
  tallies : Tab Tally := []
  gated : Bool := false
  /-- the latest device cycle in which R127's condition did not hold (R180) -/
  awakeAt : Nat := 0
  lvlBell : Bool := false
  devBell : Bool := false
  bellWakes : Nat := 0
  sleepCyc : Nat := 0
  gatedAt : Nat := 0
  /-- hold cycles counted up to device cycle holdSince, and the counted cycle there (R70) -/
  holdCyc : Nat := 0
  holdSince : Nat := 0
  holdCount : Nat := 0
  -- counters (R70, R98, R135)
  wldTransient : Nat := 0
  wldPersistent : Nat := 0
  cvtSat : Nat := 0
  cvtUnder : Nat := 0
  cvtNan : Nat := 0
  asTransient : Nat := 0
  asFailed : Nat := 0
  asFormat : Nat := 0
  srKey : Word32 := 0
  issued : Nat := 0
  trace : Trace := {}
  deriving DecidableEq, Repr

/-! ### Levels -/

/-- A level mark (R276, R277, R299). -/
structure Mark where
  round : Nat := 0
  phase : Nat := 0
  action : Nat := 0
  tally : Nat := 0
  fired : Bool := false
  armed : Bool := false
  /-- device cycle in which the mark was armed; its point had been reached by then (R276) -/
  armedAt : Nat := 0
  past : Bool := false
  deriving DecidableEq, Repr

/-- A reduction entry (R208). -/
structure Entry where
  topo : Nat := 0
  toRoot : Bool := false
  mean : Bool := false
  timed : Bool := false
  rank : Nat := 0
  stage : Bool := false
  home : Nat := 0
  slot : Nat := 0
  id : Nat := 0
  group : Nat := 0
  index : Nat := 0
  sources : Nat := 0
  contrib : Nat := 0
  elems : Nat := 0
  dst : Nat := 0
  recPa : Nat := 0
  dlRound : Nat := 0
  dlPhase : Nat := 0
  grace : Nat := 0
  locals : Nat := 0
  pairs : Nat := 0
  done : Nat := 0
  next : List Nat := []
  prev : List Nat := []
  parent : Nat := 0
  height : Nat := 0
  children : Nat := 0
  ringN : Nat := 0
  pathH : Nat := 0
  deriving DecidableEq, Repr

/-- A partial that arrived for a slice (R225). -/
structure Partial where
  port : Nat
  count : Nat
  roster : Nat
  data : List Word32
  /-- hops travelled in the reduce phase (R217) -/
  hops : Nat
  deriving DecidableEq, Repr

/-- A slice of a loaded reduction (R218, R222 to R227). -/
structure SliceSt where
  partials : List Partial := []
  /-- NODE_TREE at a ring root: the ring's sum, which then runs through the tree (R221) -/
  node : Option Partial := none
  /-- the ring's cutoff has been reached -/
  nodeCut : Bool := false
  /-- the cutoff C(x) has been reached -/
  cut : Bool := false
  forwarded : Bool := false
  /-- the result phase has reached this device -/
  finished : Bool := false
  count : Nat := 0
  roster : Nat := 0
  deriving DecidableEq, Repr

/-- A hoist slot (R207, R231). -/
structure HSlot where
  loaded : Bool := false
  entry : Entry := {}
  tag : Nat := 0
  round : Nat := 0
  /-- local contributions in arrival order -/
  segs : List Segment := []
  /-- the deadline D has been reached -/
  late : Bool := false
  slices : Tab SliceSt := []
  deriving DecidableEq, Repr

/-- A hoist (R206, R215, R216, R231). -/
structure Hoist where
  slots : Tab HSlot := []
  size : Nat := 0
  cfgIgn : Bool := false
  /-- early slices kept, with the port, round and device cycle of their arrival (R218 case 3, R223) -/
  early : List (Nat × SliceMsg × Nat × Nat) := []
  /-- slices already received: (port, kind, id, idx, round) (R218 case 1) -/
  seen : List (Nat × Nat × Nat × Nat × Nat) := []
  /-- slices asked for once more, in the same form (R216) -/
  asked : List (Nat × Nat × Nat × Nat × Nat) := []
  /-- slices waiting for credit, with their port -/
  waiting : List (Nat × SliceMsg) := []
  /-- slices sent and not acknowledged, with their port -/
  unacked : List (Nat × SliceMsg) := []
  /-- credits held per port, and credits granted per port whose slice has not come yet -/
  credits : Tab Nat := []
  granted : Tab Nat := []
  lateLocal : Nat := 0
  latePartial : Nat := 0
  orphan : Nat := 0
  dup : Nat := 0
  chkTransient : Nat := 0
  chkFailed : Nat := 0
  tx : Nat := 0
  rx : Nat := 0
  sent : Nat := 0
  stallDeadline : Nat := 0
  stallWindow : Nat := 0
  /-- device cycles since which the two stall causes hold (R231) -/
  deadlineAt : Option Nat := none
  windowAt : Option Nat := none
  deriving DecidableEq, Repr

/-- A row as the sieve fetched it: x, dy, the weights, the row to compare with (R198). -/
structure Fetched where
  x : List Word32
  dy : List Word32
  gamma : List Word32
  beta : List Word32
  ref : List Word32
  deriving DecidableEq, Repr

/-- A sieve (R193 to R201). -/
structure Sieve where
  busy : Bool := false
  tag : Nat := 0
  list : Nat := 0
  jobs : Nat := 0
  job : Nat := 0
  row : Nat := 0
  func : Nat := 0
  /-- the bytes of the current job as read -/
  jobRec : List Byte := []
  /-- 4 KiB granules whose entry the running command has set to PRESENT = 0 (R198) -/
  cleared : List Nat := []
  diff : Nat := 0
  /-- differences of the running command -/
  cmdDiff : Nat := 0
  first : Option (Nat × Nat × Nat) := none
  rows : Nat := 0
  stallSide : Nat := 0
  /-- device cycle at which the computation of the latest row ended (R198) -/
  rowAt : Nat := 0
  /-- the next row's operands, fetched while the latest row was computed (R198) -/
  ahead : Option Fetched := none
  deriving DecidableEq, Repr

/-- A level, by number 0 to 7. -/
structure Level where
  tallies : Tab Tally := []
  marks : Tab Mark := []
  hoist : Hoist := {}
  sieve : Sieve := {}
  /-- the level has left reset -/
  up : Bool := false
  assigned : Bool := false
  monRetired : Bool := false
  deriving DecidableEq, Repr

/-- A physical stope (R33). State codes: 0 untested, 1 active, 2 reserve, 3 remapping, 4 retired. -/
structure Phys where
  logical : Nat := 255
  state : Nat := 0
  fails : Nat := 0
  /-- a self-test in place is running (R359, R360) -/
  testing : Bool := false
  /-- TILE_CHECK and STORE_UNCORR at locations of the stope in the window (R351) -/
  hits : List Nat := []
  /-- double faults in the window -/
  doubles : List Nat := []
  /-- SEQ of the STOPE_RETIRED record of the logical number that the stope takes over (R337, R357) -/
  seq : Nat := 0
  deriving DecidableEq, Repr

/-! ### Commands and the dispatcher (R202 to R205, R321 to R332) -/

/-- A declared tally (R323). -/
structure DTally where
  sc : Nat
  num : Nat
  deriving DecidableEq, Repr

/-- A command descriptor of format 2 or 3 (R323, R324), fields as read. -/
structure Desc where
  fmt : Nat := 3
  opcode : Nat := 0
  fill : Bool := false
  eclass : Nat := 0
  ntal : Nat := 0
  tag : Nat := 0
  wire : Nat := 0
  entry : Nat := 0
  crews : Nat := 0
  /-- bit s names logical stope s -/
  target : Nat := 0
  arg : Nat := 0
  table : Nat := 0
  tallies : List DTally := []
  /-- a reserved field was not zero or a field was out of its layout -/
  bad : Bool := false
  deriving DecidableEq, Repr

/-- The states of an accepted command (R317 STATUS, R202, R203). -/
inductive CmdState where
  | queued | admitted | running | preempting | preempted | finished
  deriving DecidableEq, Repr

/-- One bulk entry's progress (R246, R247): 0 to send, 1 sent, 2 acknowledged, 3 refused. -/
structure Bulk where
  put : Bool
  dst : Nat
  target : Nat
  sub : Bool
  src : Nat
  offset : Nat
  length : Nat
  n : Nat
  done : Option Nat
  state : Nat := 0
  deriving DecidableEq, Repr

/-- An accepted command (R321, R329, R331). -/
structure Cmd where
  desc : Desc
  tag : Nat
  epoch : Nat
  mbx : Nat
  session : Nat
  version : Nat
  state : CmdState := .queued
  /-- acceptance order -/
  order : Nat := 0
  /-- held for energy or ebb (R289) -/
  heldEnergy : Bool := false
  round : Nat := 0
  start : Nat := 0
  everStarted : Bool := false
  /-- recorded counts of the declared tallies: scope, unit, number, count (R187) -/
  recorded : List (Scope × Nat × Nat × Nat) := []
  reports : List (Nat × Nat) := []
  nrep : Nat := 0
  preempts : Nat := 0
  /-- 0 full, 1 one half, 2 one quarter, 3 one eighth -/
  density : Nat := 0
  minDensity : Nat := 0
  /-- elapsed time weighted by density, in eighths of a nanosecond, up to device cycle weighedAt (R288) -/
  weighted : Nat := 0
  weighedAt : Nat := 0
  /-- stopes still to report free after a preempt event -/
  awaitFree : List Nat := []
  preemptAt : Nat := 0
  /-- LOAD_PROG and QUERY_INSTALL: stopes whose copy has no place in their tram yet, whose copy is not done, and whose swap is still to
  come -/
  awaitQueue : List Nat := []
  awaitCopy : List Nat := []
  awaitLoad : List Nat := []
  /-- (level, slot) of each reduction loaded and not finished -/
  reductions : List (Nat × Nat) := []
  bulk : List Bulk := []
  /-- the command's own work (RUN, LOAD_PROG, SIEVE, QUERY_INSTALL) has been started -/
  launched : Bool := false
  /-- OUTCOME, CODE and FINISH of its completion record (R331) -/
  outcome : Nat := 0
  code : Nat := 0
  finish : Nat := 0
  /-- ended by a retirement or a reset: it counts as unfinished (R358) -/
  lost : Bool := false
  /-- the fault with which the stope microcode ends the command, 0 for none (R347) -/
  endCode : Nat := 0
  /-- its extended round falls below 0: it precedes every round (R270) -/
  past : Bool := false
  deriving DecidableEq, Repr

/-! ### Mailboxes (R305 to R322) -/

/-- An item for a response ring: TYPE, and what it carries. -/
structure Msg where
  mbx : Nat
  typ : Nat
  status : Nat := 0
  note : Bool := false
  version : Nat := 0
  seq : Nat := 0
  tag : Nat := 0
  epoch : Nat := 0
  round : Nat := 0
  reqSeq : Nat := 0
  payload : List Byte := []
  skipped : Nat := 0
  deriving DecidableEq, Repr

/-- A mailbox. -/
structure Mbx where
  enable : Bool := false
  overrun : Bool := false
  reqTail : Nat := 0
  reqHead : Nat := 0
  rspHead : Nat := 0
  rspTail : Nat := 0
  coal : Word32 := 0
  isOpen : Bool := false
  qid : Nat := 0
  version : Nat := 0
  hellos : Nat := 0
  nextSeq : Nat := 0
  epoch : Nat := 0
  /-- first tag and number of the last accepted SUBMIT, and the first tag's epoch -/
  lastSubmit : Option (Nat × Nat) := none
  lastEpoch : Nat := 0
  driver : List Byte := []
  rspSeq : Nat := 0
  /-- replies and notes waiting for a slot or a session, oldest first -/
  pend : List Msg := []
  /-- slots posted since the last covering vector, and the time of the first -/
  uncovered : Nat := 0
  uncoveredAt : Nat := 0
  deriving DecidableEq, Repr

/-! ### What leaves the device -/

/-- The NVMe commands that the device uses, Admin ones by their opcode (R373). -/
inductive Nvme where
  | admin (opcode : Nat)
  | read (lba blocks : Nat)
  | write (lba blocks : Nat) (fua : Bool)
  | flush
  deriving DecidableEq, Repr

/-- What the block has sent to the outside, newest first in the list. -/
inductive Out where
  /-- a response slot posted in a ring (R314) -/
  | slot (m : Msg)
  /-- an MSI-X message (R312) -/
  | msix (v : Nat)
  /-- a fabric message sent on a port -/
  | fab (port : Nat) (m : FabMsg)
  /-- a hoist slice sent on a port -/
  | slice (port : Nat) (m : SliceMsg)
  /-- a slice acknowledgement, a resend request, a credit -/
  | sliceAck (port id idx : Nat)
  | sliceAgain (port id idx : Nat)
  /-- a window of level n's hoist is granted to a port's sender (R216) -/
  | sliceCredit (port n : Nat)
  /-- control flits: CAPS, READY, ECHO, NAK, LANE_RETIRE, beacon, PRESENCE, ABSENT -/
  | caps (port : Nat) (c : Caps)
  | ready (port : Nat)
  /-- ECHO, with the turnaround that the sender reports -/
  | echo (port turn : Nat)
  /-- CAPS repeated every 10 µs, n times (R235) -/
  | capsAgain (port n : Nat)
  | nak (port ack : Nat)
  | resend (port seq : Nat)
  | laneRetire (port lane : Nat)
  /-- the answer to a partner's LANE_RETIRE: acknowledged or refused (R240) -/
  | laneAnswer (port lane : Nat) (accept : Bool)
  | beacon (port : Nat) (b : Beacon)
  | presence (port : Nat) (data : List Byte)
  | absent (port wire dev reason : Nat)
  /-- I3C: bytes returned, an in-band interrupt -/
  | i3c (bytes : List Byte)
  | ibi (data : Byte)
  /-- JTAG: bits captured for TDO -/
  | tdo (bits : List Bool)
  /-- an NVMe command to a drive (R373) -/
  | nvme (drive : Nat) (c : Nvme)
  deriving DecidableEq, Repr

/-! ### Uason ports and queries -/

/-- Port states of R266. -/
inductive PortState where
  | down | training | up | vigil | retraining
  deriving DecidableEq, Repr

/-- A message or control flit that a port has still to send, whole or in part (R238, R242). -/
structure QItem where
  /-- virtual channel 0 to 3, 4 for control flits -/
  vc : Nat
  out : Out
  flits : Nat
  sent : Nat := 0
  /-- round and deadline of a tagged slice -/
  due : Option (Nat × Nat) := none
  deriving DecidableEq, Repr

/-- A flit in the replay buffer: its LINK fields, and which flit of what it is (R234, R238). -/
structure Kept where
  seq : Nat
  vc : Nat
  som : Bool
  eom : Bool
  out : Out
  part : Nat
  deriving DecidableEq, Repr

/-- A Uason port. -/
structure Port where
  cfg : Word32 := 0x306
  /-- the configuration that the last training took (R237) -/
  live : Word32 := 0
  state : PortState := .down
  gen : Nat := 0
  lanes : Nat := 0
  retired : Nat := 0
  partner : Nat := 0
  capsSeen : Bool := false
  trainAt : Nat := 0
  retireCfg : Word32 := 0x10003D09
  downs : Nat := 0
  retrains : Nat := 0
  lanesRetired : Nat := 0
  discarded : Nat := 0
  corr : Tab Nat := []
  /-- corrected bytes and replays counted against a lane: time, lane, bytes, replays (R240) -/
  window : List (Nat × Nat × Nat × Nat) := []
  /-- the lane for which LANE_RETIRE was sent -/
  retiring : Option Nat := none
  replay : Nat := 0
  crcFail : Nat := 0
  delay : Nat := 0
  tx : Nat := 0
  rx : Nat := 0
  /-- latest sequence number sent, last acknowledged, last received good -/
  sendSeq : Nat := 0
  ackedSeq : Nat := 0
  recvSeq : Nat := 0
  /-- the replay buffer, oldest first -/
  buffer : List Kept := []
  /-- what waits to be sent, oldest first, and the flits of VC2 and VC3 sent in the present turn of four (R242) -/
  sendq : List QItem := []
  turn : Nat := 0
  /-- the device's own ECHO is unanswered, and when the latest one left (R251) -/
  echoOut : Bool := false
  echoAt : Option Nat := none
  /-- a bad flit was met: discard until the resend -/
  discarding : Bool := false
  fails : Nat := 0
  lastValid : Nat := 0
  deriving DecidableEq, Repr

/-- A query slot of a reserved stope (R260 to R263). -/
structure QSlot where
  busy : Bool := false
  qid : Nat := 0
  cls : Nat := 0
  port : Nat := 0
  src : Nat := 0
  arrival : Nat := 0
  voidAt : Nat := 0
  /-- already answered by a VOID: the slot waits for its answer tally -/
  voided : Bool := false
  deriving DecidableEq, Repr

/-- A landing window (R247, R267). -/
structure Land where
  base : Word64 := 0
  ctl : Word64 := 0
  deriving DecidableEq, Repr

/-! ### Rounds, gob, ledger, power -/

/-- A granule saved in a gob (R279, R280): its place in the gob, its stack data offset and the round that saved it.
Its bytes and its sidecar entry stand in the gob's own memory. -/
structure Saved where
  slot : Nat
  offset : Nat
  round : Nat
  deriving DecidableEq, Repr

/-- The gob and the migration state of one stack (R279, R355). -/
structure Stack where
  gobBase : Nat := 0
  gobCap : Nat := 0
  /-- base and capacity as last written, taking effect at the next mark -/
  gobBaseNew : Nat := 0
  gobCapNew : Nat := 0
  saved : List Saved := []
  /-- dropped rounds still to be backfilled, and the latest round whose commit notice came (R280, R285) -/
  drops : List Nat := []
  committed : Option Nat := none
  retired : Nat := 0
  moved : List Nat := []
  migrating : Option Nat := none
  /-- pseudo-channels whose trigger has fallen while another migrates (R355, R356) -/
  due : List Nat := []
  exhausted : Bool := false
  corrected : Nat := 0
  /-- corrected errors and uncorrectable words of pseudo-channel j in hour h, at 32 h + j (R351) -/
  pcCorr : Tab Nat := []
  pcBad : Tab Nat := []
  /-- 32 B words copied with the poison code (R355) -/
  poison : List Nat := []
  deriving DecidableEq, Repr

/-- The power states that PRESENCE and the notes name (R254, R418). -/
inductive Power where
  | full | idle | doze | vigil | starting | quenched
  deriving DecidableEq, Repr

/-- A decision on its way: its round, whether it commits, the reasons of RND_LAST, the blocks it has reached (R283). -/
structure Notice where
  round : Nat
  commit : Bool
  flags : Nat
  reached : List Block := []
  deriving DecidableEq, Repr

/-- The round clock and its registers (R268 to R286, R299). -/
structure Round where
  source : Nat := 0
  acceptAny : Bool := false
  round : Nat := 0
  /-- device cycle at which phase was 0, but for what slewAt, slew and trim add since: a phase error in ns being slewed and the trim
  of the phase rate in ns a second (R272; DESIGN CHOICE, log 17) -/
  origin : Int := 0
  slewAt : Nat := 0
  slew : Int := 0
  trim : Int := 0
  lenUs : Nat := 1000
  /-- RND_LENGTH as written, for the next round start -/
  lenNew : Nat := 1000
  release : Nat := 0
  commit : Nat := 0x3B6
  /-- release and commit phases in effect, ns -/
  relNs : Nat := 0
  comNs : Nat := 950000
  /-- RND_RELEASE and RND_COMMIT as the round's start found them (R275) -/
  relRaw : Nat := 0
  comRaw : Nat := 0x3B6
  setRound : Option Nat := none
  dropReq : Bool := false
  /-- a quench fell into the round before its decision (R296) -/
  quenched : Bool := false
  /-- the round that a quench fell into, its gob not yet backfilled (R297) -/
  quenchRound : Option Nat := none
  released : Bool := false
  decided : Bool := false
  /-- the latest rounds whose release and commit marks have fired: no mark fires twice (R271) -/
  releasedTo : Option Nat := none
  decidedTo : Option Nat := none
  /-- decisions whose notices have not reached every block, oldest first (R283) -/
  notices : List Notice := []
  locked : Bool := false
  freeRun : Bool := false
  cadLost : Bool := false
  missed : Nat := 0
  gobFull : Bool := false
  /-- rounds for which a stack raised GOB_FULL (R281, R282) -/
  fullRounds : List Nat := []
  cregIgn : Bool := false
  phaseIgn : Bool := false
  gobIgn : Bool := false
  last : Word64 := 0
  /-- the last committed round (R378) -/
  lastCommit : Nat := 0
  commits : Nat := 0
  drops : Nat := 0
  skipped : Nat := 0
  backward : Nat := 0
  misses : Nat := 0
  step : Int := 0
  /-- device cycles of the last accepted ROUND_IN edge (R415) and of the last beacon taken (R272) -/
  lastEdge : Option Nat := none
  lastBeacon : Option Nat := none
  /-- the latest round that a beacon or an edge has confirmed (R274) -/
  seen : Option Nat := none
  /-- the last round counted as missed (R274) -/
  lastMiss : Option Nat := none
  cregBase : Tab Word64 := []
  cregSize : Tab Word64 := []
  /-- regions in effect -/
  liveBase : Tab Word64 := []
  liveSize : Tab Word64 := []
  /-- regions as they stood at the latest mark, to take effect after the backfill (R278) -/
  dueBase : Tab Word64 := []
  dueSize : Tab Word64 := []
  backfill : Bool := false
  deriving DecidableEq, Repr

/-- The energy ledger (R287 to R291, R299). -/
structure Ledger where
  cfg : Word32 := 0x6400
  budget : Nat := 0xFFFFFFFF
  budgetNext : Nat := 0xFFFFFFFF
  /-- NRG_BUDGET_NEXT was written since the last latch (R287) -/
  budgetNew : Bool := false
  /-- energy of the round and since cold reset, in W × ns: 100,000 to a unit of 0.1 mJ (R288) -/
  spent : Nat := 0
  total : Nat := 0
  reserved : Nat := 0
  projected : Nat := 0
  density : Nat := 0
  short : Bool := false
  exhausted : Bool := false
  floor : Nat := 0x5DC
  lastBudget : Nat := 0
  lastSpent : Nat := 0
  power : Nat := 0
  ebbs : Nat := 0
  quenches : Nat := 0
  tickAt : Nat := 0
  /-- ns to the commit mark at the last tick (R288) -/
  toMark : Nat := 0
  classes : Tab Word64 := []
  deriving DecidableEq, Repr

/-! ### Faults and controllers -/

/-- An event that waits for a controller while none is active: a record for the fault log, a note, a message (R364). -/
inductive CtlEvent where
  | record (head : List Byte)
  | notes (typ : Nat) (payload : List Byte)
  | message (m : Msg)
  deriving DecidableEq, Repr

/-- The fault log, its history and the retirement list (R350 to R352). -/
structure Faults where
  /-- records of the ring by index, 64 bytes each as one number -/
  log : Tab (BitVec 512) := []
  count : Nat := 0
  /-- FLTREC records on their way: logical stope and 64 bytes (R350) -/
  subm : List (Nat × List Byte) := []
  history : List (BitVec 512) := []
  histCount : Nat := 0
  memCured : Nat := 0
  storeCured : Nat := 0
  /-- retirement list in flash -/
  retLanes : List Nat := []
  retPcs : List (Nat × Nat) := []
  retStopes : List Nat := []
  retMons : List Nat := []
  clearAtReset : Bool := false
  -- controllers (R362 to R366, R370)
  h0Active : Bool := false
  h1Active : Bool := false
  standby : Bool := false
  evqLost : Bool := false
  /-- a takeover is under way: the headframe whose controller failed, and since when; the events that wait for its end, oldest first
  (R364) -/
  takeover : Option (Nat × Nat) := none
  evq : List CtlEvent := []
  hbMissed0 : Nat := 0
  hbMissed1 : Nat := 0
  takeovers : Nat := 0
  /-- failures of the controllers: headframe and time (R365) -/
  ctlFails : List (Nat × Nat) := []
  lastBeat : Nat := 0
  /-- controllers that stay in reset after a second failure (R365) -/
  dead : List Nat := []
  canary0 : Word32 := 0
  canary1 : Word32 := 0
  /-- the cause words that stand have been written to the log (R367) -/
  haltNoted : Bool := false
  safeHalt : Bool := false
  recovery : Bool := false
  /-- record memory: the fault log and trace records a quench copied (R296) -/
  recLog : List (BitVec 512) := []
  recTrace : List (Nat × List Byte) := []
  deriving DecidableEq, Repr

/-! ### Snapshots, identity and firmware -/

/-- A segment entry of a manifest (R384). -/
structure Segm where
  region : Nat
  drive : Nat
  len : Nat
  offset : Nat
  lba : Nat
  digest : List Byte
  deriving DecidableEq, Repr

/-- A tensor of a plan, with its assay record in a manifest (R375, R384). -/
structure Tensor where
  pa : Nat
  bytes : Nat
  fmt : Nat
  recPa : Nat
  recData : List Byte := []
  deriving DecidableEq, Repr

/-- An NVMe command that has not completed: its drive, what it is, when it was sent, the segment that a restore's read brings (R374). -/
structure NvmeJob where
  drive : Nat
  cmd : Nvme
  since : Nat
  seg : Option Nat := none
  deriving DecidableEq, Repr

/-- The snapshot engine (R377 to R387, R397). -/
structure Snap where
  op : Nat := 0
  slot : Nat := 0
  isRestore : Bool := false
  skipSame : Bool := true
  rate : Nat := 0
  width : Nat := 0
  drives : Nat := 0
  /-- serial numbers of the drives present (R384, R385) -/
  serials : List Nat := []
  refused : Nat := 0
  half : Nat := 0
  round : Nat := 0
  atRound : Nat := 0
  regions : List (Nat × Nat) := []
  tensors : List Tensor := []
  /-- granules (stack, offset) still to stage -/
  todo : List (Nat × Nat) := []
  /-- staged granules: local-view address, bytes, sidecar entry -/
  staged : List (Nat × List Host.Cell × Word64) := []
  stagedBytes : Nat := 0
  digested : Nat := 0
  written : Nat := 0
  skipped : Nat := 0
  delayed : Nat := 0
  last : Word64 := 0
  slotA : Slot := {}
  slotB : Slot := {}
  /-- the foreman has found the slot valid (R385), or its drain has ended (R382) -/
  okA : Bool := false
  okB : Bool := false
  /-- what the target slot held when the drain began (R382) -/
  old : Slot := {}
  /-- segments of the drain so far (R382) -/
  segs : List Segm := []
  /-- what the drain does next: steps 1 to 4 of R382 under their numbers, 5 the body, 6 the flush of drive 0, 7 the header, 8 nothing but
  to await the header -/
  phase : Nat := 1
  /-- NVMe commands that have not completed, oldest first (R374) -/
  waits : List NvmeJob := []
  /-- a failover has restarted the drain (R387) -/
  restarted : Bool := false
  /-- segments that a restore has still to read, those whose digest has mismatched once, its region mask and its flags FOREIGN_OK and
  UNSIGNED_OK (R386) -/
  segTodo : List Nat := []
  mismatched : List Nat := []
  mask : Nat := 0
  foreignOk : Bool := false
  unsignedOk : Bool := false
  /-- serial numbers of the drives that the latest device reset found (R372) -/
  known : List Nat := []
  /-- the round that the plan names committed (R384) -/
  committed : Bool := false
  deriving DecidableEq, Repr

/-- A firmware slot of the flash (R391). -/
structure FwSlot where
  valid : Bool := false
  pending : Bool := false
  tries : Nat := 0
  confirmed : Bool := false
  badSlot : Bool := false
  svn : Nat := 0
  version : Nat := 0
  fwDigest : List Byte := []
  microDigest : List Byte := []
  /-- steps 4 and 5 of R392 hold for what the slot holds -/
  verifies : Bool := false
  /-- the image of manufacture: SVN, VERSION and digests are the opaque ones of Config (log 7) -/
  factory : Bool := false
  deriving DecidableEq, Repr

/-- A configuration record's contents (R393), at its defaults. -/
structure Conf where
  seq : Nat := 0
  remap : Bool := true
  q : Nat := 0
  stage : Nat := 0
  skipSame : Bool := true
  /-- s of stack Mk in bits [2k+1:2k] -/
  spill : Word32 := 0x55555555
  winSize : Nat := 0
  fabId : Nat := 0xFFF
  retireCfg : Word32 := 0x10003D09
  ports : List Word32 := List.replicate 12 0x307
  classes : List Word32 := List.replicate 8 0
  deriving DecidableEq, Repr

/-- Flash, fuses, identity and what the boot measured (R388 to R395). -/
structure Trust where
  fwA : FwSlot := { valid := true, confirmed := true, verifies := true, factory := true }
  fwB : FwSlot := {}
  runningB : Bool := false
  fuses : Nat := 0
  /-- configuration record copies 0 and 1 as they stand in flash; [] for none -/
  conf0 : List Byte := []
  conf1 : List Byte := []
  /-- bytes 0x000 to 0x11F of the record applied at boot; [] for the defaults -/
  bootConf : List Byte := []
  key0 : Bool := false
  key1 : Bool := false
  /-- the identity seed that the headframes derived, [] for none (R388) -/
  seed : List Byte := []
  bootSel : Nat := 0
  /-- the retirement list applied at boot, as measured -/
  bootRetire : List Byte := []
  /-- the SHAKE256 digest of the identity block's vendor root key is the one held in ROM (R392) -/
  rootOk : Bool := true
  deriving DecidableEq, Repr

/-! ### Sideband -/

/-! ### Bring-up -/

/-- What the steps of R424 bring about, and the return of the Uason ports to full rate at the exit from Vigil (R250). -/
inductive BootStep where
  /-- step 3: the AON domain runs -/
  | aon
  /-- the Vigil lanes go back to full rate -/
  | lanes
  /-- steps 4 to 7: keys, slot, configuration record, retirement list; the foreman and the deputy run -/
  | firmware
  /-- step 8 for one level -/
  | level (n : Nat)
  /-- steps 9 and 10: the mailbox reports ready -/
  | mailbox
  /-- step 11: the SerDes are calibrated, ports may train -/
  | calibrate
  /-- steps 12 and 13: HBM is trained and zeroed -/
  | memory
  /-- step 14: the snapshot port and its drives -/
  | drives
  /-- step 15: ready for commands -/
  | ready
  deriving DecidableEq, Repr

/-- The bring-up under way (R424, R426). -/
structure Boot where
  /-- steps still to come -/
  steps : List BootStep := []
  /-- device cycle from which their times count -/
  t0 : Nat := 0
  /-- the AON domain runs (R37, R424) -/
  aon : Bool := false
  /-- a device or cold reset ends, no exit from Vigil -/
  reset : Bool := false
  /-- the retirement list was emptied at this boot: every unit is tested afresh (R352) -/
  fresh : Bool := false
  /-- when that reset was released, until the mailbox is ready (R366) -/
  released : Option Nat := none
  /-- a quench fell before step 15: service returns by a new bring-up (R426) -/
  again : Bool := false
  /-- SYSCLK has stopped (R407) -/
  clkLost : Bool := false
  deriving DecidableEq, Repr

/-- The I3C target (R416 to R419). -/
structure I3c where
  dyn : Option Nat := none
  index : Nat := 0
  enec : Bool := false
  alert : Word32 := 0
  mask : Word32 := 0
  warn : Nat := 100
  /-- an in-band interrupt waits to be sent (R419) -/
  ibi : Bool := false
  deriving DecidableEq, Repr

/-- The JTAG instructions (R420). -/
inductive JInstr where
  | bypass | idcode | sample | extest | clamp | highz
  deriving DecidableEq, Repr

/-- JTAG and the control pins (R411 to R414, R420, R423). -/
structure Pins where
  instr : JInstr := .idcode
  /-- the boundary register: one bit for each of its 26 lands (R399, R420) -/
  boundary : List Bool := List.replicate 26 false
  resetLow : Bool := false
  /-- how long RESET_N has been low in the pulse under way, in ns, and the pulse has reset the device (R411) -/
  lowNs : Nat := 0
  lowActed : Bool := false
  tripLatch : Bool := false
  vinOk : Bool := false
  vauxOk : Bool := false
  /-- the supplies have once been valid together (R404) -/
  served : Bool := false
  deriving DecidableEq, Repr

/-- The endpoint (R300 to R312). -/
structure Endpoint where
  ready : Bool := false
  deputy : Bool := false
  cmdReady : Bool := false
  intStat : Word32 := 0
  intMask : Word32 := 0x3FF
  winBase : Word64 := 0x30000000000
  winErr : Bool := false
  winHoles : Nat := 0
  cbw : Tab Word64 := []
  /-- vector v's control word and message, as the table's 16 bytes; masked when unlisted -/
  msixMask : Tab Bool := []
  msixEntry : Tab (BitVec 96) := []
  pba : Nat := 0
  /-- configuration space is served while AON runs: PERST_N has risen since the supplies became valid (R301, R412) -/
  cfgServed : Bool := false
  /-- an Uncorrectable Internal Error has been reported (R304) -/
  aerFatal : Bool := false
  /-- configuration space, as the host may write it: the command register, BAR0, BAR2 with BAR3, MSI-X enable and function mask,
  the Device Control register (R300; PRESUMED, log 20) -/
  command : BitVec 16 := 0
  bar0 : Word32 := 0
  bar2 : Word64 := 0
  msixCtl : BitVec 16 := 0
  devCtl : BitVec 16 := 0x2810
  deriving DecidableEq, Repr

/-- The whole machine. -/
structure State where
  /-- the commands that wait, first in first out -/
  pending : List Instr := []
  /-- device cycle stamp: nanoseconds since the last device reset (R36) -/
  now : Nat := 0
  /-- the model's own: how many free values have been taken (DESIGN CHOICE, log 3) -/
  freeCtr : Nat := 0
  /-- bytes at device physical addresses, striped addresses at their local-view address; an unlisted one reads 0 (R28, R30;
  DESIGN CHOICE, log 4) -/
  mem : List Host.Cell := []
  /-- stopes by logical number (R12, R19) -/
  stopes : Tab Stope := []
  /-- levels L0 to L7 (R13) -/
  levels : Tab Level := []
  /-- physical stopes 0 to 175 (R33) -/
  phys : Tab Phys := []
  /-- device tallies (R168, R184) -/
  devTallies : Tab Tally := []
  /-- the latest device cycle at which the idle condition did not hold (R292) -/
  busyAt : Nat := 0
  /-- signals on their way to a tally block (R171) -/
  signals : List Signal := []
  /-- tallies whose flags overflowed in the present cycle: their events leave when it ends (R179) -/
  flagsDue : List (Scope × Nat × Nat) := []
  /-- stacks and their controllers (R26, R279, R346) -/
  stackTab : Tab Stack := []
  /-- the round clock (R268) -/
  rnd : Round := {}
  /-- the energy ledger (R287) -/
  nrg : Ledger := {}
  /-- power state (R292) -/
  power : Power := .starting
  /-- the state that a Doze, Vigil or wake transition under way will reach -/
  powerNext : Option (Power × Nat) := none
  /-- in ebb (R295) -/
  ebb : Bool := false
  /-- quenched (R296) -/
  quench : Bool := false
  /-- commands accepted, with those that ended (R321, R329) -/
  cmds : List Cmd := []
  /-- order of acceptance of the next command (R202) -/
  nextOrder : Nat := 0
  /-- mailboxes 0 to 7 -/
  mbx : Tab Mbx := []
  /-- host endpoint (R300 to R312) -/
  ep : Endpoint := {}
  /-- Uason ports P0 to P11 (R232) -/
  ports : Tab Port := []
  /-- HDF_FAB_ID (R244) -/
  fabId : Nat := 0xFFF
  /-- HDF_ABSENT_k (R256, R267) -/
  absentRing : Tab Word32 := []
  /-- ABSENT flits recorded (R256) -/
  absentCount : Nat := 0
  /-- presence replies sent (R254) -/
  presences : Nat := 0
  /-- HDF_ROUTE_d (R244) -/
  routes : Tab Word32 := []
  /-- landing windows (R247) -/
  lands : Tab Land := []
  /-- PUTs of which some data has landed and the last has not: sender, identifier (R247, R248) -/
  puts : List (Nat × Nat) := []
  /-- HDF_QRY_CLASS_c (R259) -/
  qclass : Tab Word32 := []
  /-- slots of reserved stope i at 16 i + k -/
  qslots : Tab QSlot := []
  /-- reserved stope i has been remapped and no query model installed since (R265) -/
  qheld : Tab Bool := []
  /-- answers sent (R267) -/
  qServed : Nat := 0
  /-- VOIDs sent, by reason less 1 (R267) -/
  qVoid : Tab Nat := []
  /-- answers after their VOID (R263) -/
  qLate : Nat := 0
  /-- fault log, retirement, controllers (R346 to R370) -/
  flt : Faults := {}
  /-- snapshots (R372 to R387) -/
  snap : Snap := {}
  /-- configuration record in effect (R393); before one is applied no spill shows (R370) -/
  conf : Conf := { spill := 0 }
  /-- identity, firmware slots, fuses, record copies (R388 to R394) -/
  trust : Trust := {}
  /-- the bring-up under way (R424, R426) -/
  boot : Boot := {}
  /-- I3C target (R416 to R419) -/
  i3c : I3c := {}
  /-- supplies, straps and pins (R403, R411 to R414, R420, R423) -/
  pins : Pins := {}
  /-- held low halves for 64-bit writes and latched high halves for reads, by register address (R11) -/
  lowHeld : Tab Word32 := []
  highLatch : Tab Word32 := []
  /-- messages that left the device, newest first -/
  out : List Out := []
  deriving DecidableEq, Repr

/-- The state right after reset: every field at its default, which is the value the spec states for reset or, where
it states none, the value that the assumption log names. The supplies are not yet valid, no command waits. -/
def State.reset : State := {}

/-! ### How a step can stop -/

/-- Faults of the model. Every fault of the spec is a next state (an event, a record, a report), so no meaning
raises one; the type is closed with the single name that says so. -/
inductive Fault where
  /-- raised by nobody. Safe. -/
  | unraised
  deriving DecidableEq, Repr

/-- Refusals of the model. -/
inductive Refusal where
  /-- a dispatch arm without a meaning; the mnemonic is the table's. Safe: the step stops. -/
  | notModelled (mnemonic : String)
  deriving DecidableEq, Repr

end Sys2Proof.Machine
end

