-- ==== Sys2Proof/Machine/Ops.lean ====
section
/-! DEFINITION. The named operations over the state: tables of units, memory by device physical address, counted
time, output. -/

namespace Sys2Proof.Machine

/-- The type of a meaning's answer. -/
abbrev Answer := Host.Outcome State Fault Refusal

/-! ### Units -/

/-- Logical stope st (R12). -/
def stopeOf (s : State) (st : Nat) : Stope := tget s.stopes {} st
def putStope (s : State) (st : Nat) (x : Stope) : State := { s with stopes := tset s.stopes {} st x }
def modStope (s : State) (st : Nat) (f : Stope → Stope) : State := putStope s st (f (stopeOf s st))

/-- Agent ag of a stope: crew 0 to 15, overman 16. -/
def agentOf (x : Stope) (ag : Nat) : Crew := tget x.agents {} ag
def putAgent (x : Stope) (ag : Nat) (c : Crew) : Stope := { x with agents := tset x.agents {} ag c }
def modAgent (x : Stope) (ag : Nat) (f : Crew → Crew) : Stope := putAgent x ag (f (agentOf x ag))
def crewOf (s : State) (st ag : Nat) : Crew := agentOf (stopeOf s st) ag
def modCrew (s : State) (st ag : Nat) (f : Crew → Crew) : State := modStope s st (fun x => modAgent x ag f)

/-- Array 0 or 1 of a stope (R38). -/
def arrOf (x : Stope) (a : Nat) : Arr := if a = 0 then x.arr0 else x.arr1
def putArr (x : Stope) (a : Nat) (r : Arr) : Stope := if a = 0 then { x with arr0 := r } else { x with arr1 := r }
def modArr (x : Stope) (a : Nat) (f : Arr → Arr) : Stope := putArr x a (f (arrOf x a))

/-- Tile register t of a crew (R104). -/
def tileOf (c : Crew) (t : Nat) : Tile := tget c.tiles {} t
def putTile (c : Crew) (t : Nat) (x : Tile) : Crew := { c with tiles := tset c.tiles {} t x }
def modTile (c : Crew) (t : Nat) (f : Tile → Tile) : Crew := putTile c t (f (tileOf c t))

def levelOf (s : State) (n : Nat) : Level := tget s.levels {} n
def putLevel (s : State) (n : Nat) (x : Level) : State := { s with levels := tset s.levels {} n x }
def modLevel (s : State) (n : Nat) (f : Level → Level) : State := putLevel s n (f (levelOf s n))
def hoistOf (s : State) (n : Nat) : Hoist := (levelOf s n).hoist
def modHoist (s : State) (n : Nat) (f : Hoist → Hoist) : State := modLevel s n (fun l => { l with hoist := f l.hoist })
def slotOf (h : Hoist) (k : Nat) : HSlot := tget h.slots {} k
def putSlot (h : Hoist) (k : Nat) (x : HSlot) : Hoist := { h with slots := tset h.slots {} k x }

def physOf (s : State) (p : Nat) : Phys := tget s.phys {} p
def putPhys (s : State) (p : Nat) (x : Phys) : State := { s with phys := tset s.phys {} p x }
def modPhys (s : State) (p : Nat) (f : Phys → Phys) : State := putPhys s p (f (physOf s p))

def stackOf (s : State) (k : Nat) : Stack := tget s.stackTab {} k
def modStack (s : State) (k : Nat) (f : Stack → Stack) : State :=
  { s with stackTab := tset s.stackTab {} k (f (stackOf s k)) }

def mbxOf (s : State) (m : Nat) : Mbx := tget s.mbx {} m
def putMbx (s : State) (m : Nat) (x : Mbx) : State := { s with mbx := tset s.mbx {} m x }
def modMbx (s : State) (m : Nat) (f : Mbx → Mbx) : State := putMbx s m (f (mbxOf s m))

def portOf (s : State) (p : Nat) : Port := tget s.ports {} p
def putPort (s : State) (p : Nat) (x : Port) : State := { s with ports := tset s.ports {} p x }
def modPort (s : State) (p : Nat) (f : Port → Port) : State := putPort s p (f (portOf s p))

/-- Level of logical stope st (R19). -/
def stopeLevel (st : Nat) : Nat := st / 20

/-- Logical number of reserved stope i (R257). -/
def reservedNumber (i : Nat) : Nat := 20 * (if i % 4 = 0 then 0 else if i % 4 = 1 then 4 else if i % 4 = 2 then 3 else 7) + 19 - i / 4

/-- The index of logical stope st among the q reserved ones (R257). -/
def reservedIndex (s : State) (st : Nat) : Option Nat := (List.range s.conf.q).find? (fun i => decide (reservedNumber i = st))

def isReserved (s : State) (st : Nat) : Bool := (reservedIndex s st).isSome

/-- Slots of a hoist that are loaded (R231). -/
def slotsLoaded (h : Hoist) : Nat := (h.slots.filter (fun e => e.2.loaded)).length

/-- Not finished, not ended. -/
def unfinished (c : Cmd) : Bool := decide (c.state ≠ .finished)

/-- Running, or on its way out of its stopes. -/
def isRunning (c : Cmd) : Bool := decide (c.state = .running ∨ c.state = .preempting)

/-- Admitted and not finished (R288, R292). -/
def isAdmitted (c : Cmd) : Bool := unfinished c && decide (c.state ≠ .queued)

/-- The round of a queued command lets it be admitted: its release mark has passed (R286). -/
def roundDue (s : State) (c : Cmd) : Bool :=
  c.past || decide (c.round < s.rnd.round) || (decide (c.round = s.rnd.round) && s.rnd.released)

/-- The physical stope that holds logical number st in state active, if any (R33, R34). -/
def physHolding (s : State) (st : Nat) : Option Nat :=
  (s.phys.find? (fun e => decide (e.2.logical = st ∧ e.2.state = 1))).map (·.1)

/-- The physical stope that is to hold logical number st and is being tested (R34). -/
def physRemapping (s : State) (st : Nat) : Option Nat :=
  (s.phys.find? (fun e => decide (e.2.logical = st ∧ e.2.state = 3))).map (·.1)

/-- Logical stope st is absent: no physical stope holds or is to hold its number (R24). -/
def stopeAbsent (s : State) (st : Nat) : Bool := (physHolding s st).isNone && (physRemapping s st).isNone

/-- Active logical stopes (R21, R319). -/
def activeStopes (s : State) : Nat := (s.phys.filter (fun e => decide (e.2.state = 1))).length

/-- The k-th unused free value, and the state that has used n of them (DESIGN CHOICE, log 3). -/
def freeAt (s : State) (k : Nat) : Nat := (Config.freeValue (s.freeCtr + k)).toNat
def useFree (s : State) (n : Nat) : State := { s with freeCtr := s.freeCtr + n }

/-- A message leaves the device. -/
def emit (s : State) (o : Out) : State := { s with out := o :: s.out }

/-! ### Power domains (R37, R403, R411, R424) -/

/-- The AON domain runs: the round clock, the ledger, the configuration responder. -/
def aonOn (s : State) : Bool := s.boot.aon

/-- The headframes and HBM are powered and a controller has started; one takes over from the other in a takeover (R364). -/
def headsUp (s : State) : Bool := s.flt.h0Active || s.flt.h1Active || s.flt.takeover.isSome

/-- Level core n is held in reset or unpowered: after a quench, in safe halt, in Doze, and from reset or Vigil until its step of the
bring-up (R37, R296, R367, R424). -/
def levelHeld (s : State) (n : Nat) : Bool :=
  s.quench || s.flt.safeHalt ||
  (match s.power with | .doze => true | .vigil => !(levelOf s n).up | .starting => !(levelOf s n).up | _ => false)

/-! ### Time -/

/-- Counted cycles of a stope at device cycle t (R67, R68; DEDUCED, log 50). -/
def cnt (k : Clk) (t : Nat) : Nat := if k.stopped then k.base else k.base + (t / k.div - k.start / k.div)

/-- The first device cycle at which the counted cycle is c (DEDUCED, log 50). -/
def dueAt (k : Clk) (c : Nat) : Nat := if k.base < c then k.div * (c - k.base + k.start / k.div) else k.start

/-- The counted clock restarted at device cycle t with divisor d: it counts on from the cycle after (R68; DEDUCED, log 50). -/
def reclock (k : Clk) (t d : Nat) : Clk := { base := cnt k t, start := t, div := d, stopped := k.stopped }

/-- Device cycle t is a counted cycle: no hold and no sleep has stopped the clock, the stamp is a multiple of the divisor, and
the clock did not set out in this very cycle (R67, R68, R127; DEDUCED, log 50). -/
def counts (k : Clk) (t : Nat) : Bool := !k.stopped && decide (t % k.div = 0) && (decide (k.start < t) || decide (t = 0))

/-- The first cycle, of those that agent ag of a stope counts, that is not past at device cycle t: overmen keep running during
holds (R67; DEDUCED, log 50). -/
def agentCycle (x : Stope) (ag t : Nat) : Nat :=
  if ag = 16 then t else if counts x.clk t then cnt x.clk t else cnt x.clk t + 1

/-! ### The device physical address map (R26, R27, R30) -/

/-- What stands at a device physical address. -/
inductive Region where
  | hbm (k off : Nat)
  | side (k off : Nat)
  | store (st off : Nat)
  | acc (st arr row byte : Nat)
  | prog (st off : Nat)
  | ovm (st off : Nat)
  | sieve (n off : Nat)
  | trace (st off : Nat)
  | regs (off : Nat)
  | hole
  deriving DecidableEq, Repr

/-- Spill reserve s of stack k (R354). -/
def spillOf (s : State) (k : Nat) : Nat := bits s.conf.spill.toNat (2 * k) 2

/-- D_k in bytes (R27). -/
def dataEnd (s : State) (k : Nat) : Nat := (36792 - 1152 * spillOf s k - 1024 * s.conf.stage) * 2 ^ 20

/-- D_min in bytes (R27). -/
def dataMin (s : State) : Nat := (List.range 16).foldl (fun d k => min d (dataEnd s k)) (dataEnd s 0)

/-- Size of a stack's data range, before any reserve. -/
def stackData : Nat := 36792 * 2 ^ 20

/-- The row of the map that covers address pa, striped addresses resolved (DESIGN CHOICE, log 4). -/
def locate (s : State) (pa : Nat) : Region :=
  if pa < 2 ^ 40 then
    let k := pa / 2 ^ 36
    let o := pa % 2 ^ 36
    if o < dataEnd s k then .hbm k o
    else if stackData ≤ o ∧ o < 2 ^ 30 * 36 then .side k (o - stackData)
    else .hole
  else if pa < 2 ^ 41 then
    let v := pa - 2 ^ 40
    if v < 16 * dataMin s then .hbm (v / 4096 % 16) (v / 65536 * 4096 + v % 4096) else .hole
  else if pa < 0x020100000000 then
    let v := pa - 0x020000000000
    if v < 160 * 2 ^ 24 then .store (v / 2 ^ 24) (v % 2 ^ 24) else .hole
  else if pa < 0x020200000000 then
    let v := pa - 0x020100000000
    if v < 160 * 2 ^ 22 then .acc (v / 2 ^ 22) (v / 2 ^ 21 % 2) (v / 1024 % 2048) (v % 1024) else .hole
  else if pa < 0x020300000000 then
    let v := pa - 0x020200000000
    if v < 160 * 2 ^ 19 then .prog (v / 2 ^ 19) (v % 2 ^ 19) else .hole
  else if pa < 0x020400000000 then
    let v := pa - 0x020300000000
    if v < 160 * 2 ^ 18 then .ovm (v / 2 ^ 18) (v % 2 ^ 18) else .hole
  else if pa < 0x020500000000 then
    let v := pa - 0x020400000000
    if v < 8 * 2 ^ 22 then .sieve (v / 2 ^ 22) (v % 2 ^ 22) else .hole
  else if pa < 0x030000000000 then
    let v := pa - 0x020500000000
    if v < 160 * 2 ^ 18 then .trace (v / 2 ^ 18) (v % 2 ^ 18) else .hole
  else if pa < 0x030400000000 then .regs (pa - 0x030000000000)
  else .hole

/-- The stope whose store or accumulators stand at an address. -/
def locateStope (s : State) (pa : Nat) : Option Nat := match locate s pa with | .store t _ => some t | .acc t _ _ _ => some t | _ => none

/-- The local-view address of HBM data offset o of stack k. -/
def hbmAddr (k o : Nat) : Nat := k * 2 ^ 36 + o
/-- Base addresses of the stope-local resources (R30). -/
def storeAddr (st o : Nat) : Nat := 0x020000000000 + st * 2 ^ 24 + o
def accAddr (st arr row : Nat) : Nat := 0x020100000000 + st * 2 ^ 22 + arr * 2 ^ 21 + row * 1024
def progAddr (st o : Nat) : Nat := 0x020200000000 + st * 2 ^ 19 + o
def ovmAddr (st o : Nat) : Nat := 0x020300000000 + st * 2 ^ 18 + o
def sieveAddr (n o : Nat) : Nat := 0x020400000000 + n * 2 ^ 22 + o
def traceAddr (st o : Nat) : Nat := 0x020500000000 + st * 2 ^ 18 + o
/-- Mailbox rings: requests at 0, responses at 0x8000 of mailbox m's 64 KiB (R308). -/
def ringAddr (m o : Nat) : Nat := 0x030300300000 + m * 2 ^ 16 + o

/-- The one address at which the byte at pa is kept: both HBM views name the same byte (R28). -/
def homeAddr (s : State) (pa : Nat) : Nat :=
  match locate s pa with
  | .hbm k o => hbmAddr k o
  | _ => pa

/-! ### Memory -/

/-- The memory's canonical form. -/
def memWf (m : List Host.Cell) : Bool := tabWf (0 : Byte) m

/-- What a byte reads as; an unlisted address reads 0 (DESIGN CHOICE, log 4). -/
def cellAt (m : List Host.Cell) (a : Nat) : Byte := tget m 0 a

/-- The memory after the cells of cs, in order (DESIGN CHOICE, log 4). -/
def cellsPut (m : List Host.Cell) (cs : List Host.Cell) : List Host.Cell :=
  cs.foldl (fun m c => tset m 0 c.1 c.2) m

/-- Write cells at their home addresses. -/
def writeCells (s : State) (cs : List Host.Cell) : State := { s with mem := cellsPut s.mem cs }

/-- Write bytes from address pa, either view. -/
def writeBytes (s : State) (pa : Nat) (bs : List Byte) : State :=
  writeCells s ((cellsAt pa bs).map (fun c => (homeAddr s c.1, c.2)))

/-- A row of an accumulator memory as one number, entry c in bits [32c + 31 : 32c] (R62). -/
def accRow (r : Arr) (row : Nat) : BitVec 8192 := tget r.acc 0 row

/-- The byte at device physical address pa. -/
def byteAt (s : State) (pa : Nat) : Byte :=
  match locate s pa with
  | .hbm k o => cellAt s.mem (hbmAddr k o)
  | .acc st a row b => BitVec.ofNat 8 (bits (accRow (arrOf (stopeOf s st) a) row).toNat (8 * b) 8)
  | .hole => 0
  | .regs _ => 0
  | _ => cellAt s.mem pa

/-- n bytes from pa. -/
def readBytes (s : State) (pa n : Nat) : List Byte := (List.range n).map (fun i => byteAt s (pa + i))

/-- n bytes from pa as a little-endian number. -/
def readNat (s : State) (pa n : Nat) : Nat := ofBytes (readBytes s pa n)

/-- Data offsets [o, o + n) of stack k meet a 32 B word that holds the poison code (R355). -/
def poisonedIn (s : State) (k o n : Nat) : Bool := (stackOf s k).poison.any (fun w => decide (w * 32 < o + n ∧ o < w * 32 + 32))

/-- The n bytes of HBM from pa meet a poisoned word, granule by granule: a read returns MEM_UNCORR without a cure (R355). -/
def poisoned (s : State) (pa n : Nat) : Bool :=
  (List.range ((pa % 4096 + n + 4095) / 4096)).any (fun i =>
    let a := max pa ((pa / 4096 + i) * 4096)
    let b := min (pa + n) ((pa / 4096 + i + 1) * 4096)
    match locate s a with
    | .hbm k o => poisonedIn s k o (b - a)
    | _ => false)

/-! ### Sidecar entries (R93) -/

/-- The sidecar entry of the granule that holds pa; 0 where the region carries none. -/
def sideEntry (s : State) (pa : Nat) : Word64 :=
  match locate s pa with
  | .hbm k o => BitVec.ofNat 64 (ofBytes ((List.range 8).map (fun i => cellAt s.mem (hbmAddr k (stackData + o / 4096 * 8 + i)))))
  | .store st o => tget (stopeOf s st).side 0 (o / 4096)
  | _ => 0

/-- Write the sidecar entry of the granule that holds pa. -/
def putSideEntry (s : State) (pa : Nat) (e : Word64) : State :=
  match locate s pa with
  | .hbm k o => writeCells s (cellsAt (hbmAddr k (stackData + o / 4096 * 8)) (toBytes 8 e.toNat))
  | .store st o => modStope s st (fun x => { x with side := tset x.side 0 (o / 4096) e })
  | _ => s

/-- The entry with PRESENT cleared. -/
def clearPresent (s : State) (pa : Nat) : State :=
  putSideEntry s pa (sideEntry s pa &&& ~~~ (BitVec.ofNat 64 (2 ^ 55)))

/-- A shape word (R91). -/
def shapeWord (rows len16 fmt bpr : Nat) : Nat := rows + len16 <<< 8 + fmt <<< 16 + bpr <<< 24

/-- Scale bytes per row of a tile of row length len bytes (R77). -/
def scaleBpr (fmt len : Nat) : Nat := if fmt = 6 ∨ fmt = 7 then len / 32 else if fmt = 8 then len / 16 else 0

/-- The shape word of a tile register's shape. -/
def tileShape (rows len fmt : Nat) : Nat := shapeWord rows (len / 16) fmt (scaleBpr fmt len)

/-- The complete sidecar entry of a tile that starts at pa (R93). -/
def entryWord (pa shape : Nat) (crc : Word32) : Word64 :=
  BitVec.ofNat 64 (crc.toNat + (crc32c (toBytes 8 shape)).toNat % 2 ^ 16 * 2 ^ 32 + pa % 4096 / 64 * 2 ^ 48 + 2 ^ 55)

/-- Result of comparing a stored tile with what its reader expects (R96). -/
inductive TileCheck where
  | ok | mismatch | badCrc
  deriving DecidableEq, Repr

/-- The comparisons of R96: PRESENT, START and SHAPE_TAG, then CRC. -/
def checkEntry (e : Word64) (pa shape : Nat) (crc : Word32) : TileCheck :=
  let want := entryWord pa shape crc
  if bit e.toNat 55 ∧ bits e.toNat 48 6 = bits want.toNat 48 6 ∧ bits e.toNat 32 16 = bits want.toNat 32 16 then
    (if bits e.toNat 0 32 = crc.toNat then .ok else .badCrc)
  else .mismatch

/-- The map's holes and rights for an agent that uses physical addresses (R428): a read, a write. -/
def mayRead (s : State) (pa : Nat) : Bool :=
  match locate s pa with | .hbm .. => true | .store .. => true | .acc .. => true | .trace .. => true | _ => false
def mayWrite (s : State) (pa : Nat) : Bool :=
  match locate s pa with | .hbm .. => true | .store .. => true | _ => false

/-! ### Events of the overman (R131) -/

/-- An event is masked: classes 0 and 1 are not maskable (R134). -/
def masked (x : Stope) (cls : Nat) : Bool := decide (2 ≤ cls) && bit x.evMask.toNat cls

/-- An unmasked event is pending. -/
def eventPending (x : Stope) : Bool := x.events.any (fun e => !masked x e.cls)

/-- An event joins its class's queue; a 65th sets OVERRUN and is discarded. An overman asleep in EVWAIT wakes two
cycles after an unmasked event (R128). -/
def raiseIn (x : Stope) (now : Nat) (e : Event) : Stope :=
  if (x.events.filter (fun f => decide (f.cls = e.cls))).length < 64 then
    let x := { x with events := x.events ++ [e] }
    let o := agentOf x 16
    if o.state = .waiting ∧ !masked x e.cls then putAgent x 16 { o with state := .running, nextIssue := now + 2 }
    else x
  else { x with
    overrun := x.overrun ||| 2 ^ e.cls, overAt := now + 1
    overFresh := (if x.overAt = now + 1 then x.overFresh else 0) ||| 2 ^ e.cls }

/-- R127's condition did not hold at device cycle t (R180). -/
def stirred (x : Stope) (t : Nat) : Stope := { x with awakeAt := max x.awakeAt t }

def raiseEvent (s : State) (st : Nat) (e : Event) : State := modStope s st (fun x => raiseIn x s.now e)

/-- A transfer-fault event (class 3) of crew cr, with the PC at which the crew then stands (R131, R134, R149; DEDUCED, log 13). -/
def xferEvent (s : State) (st cr code arg extra tag epoch : Nat) : State :=
  raiseEvent s st { cls := 3, crew := cr, code := code, pc := (crewOf s st cr).pc, extra := extra, arg := arg, tag := tag, epoch := epoch }

/-- A running command is to end with a code (R347). -/
def markEnd (s : State) (tag epoch code : Nat) : State :=
  { s with cmds := s.cmds.map (fun c => if c.tag = tag ∧ c.epoch = epoch ∧ c.state = .running then { c with endCode := code } else c) }

/-- The event of a fault; with STORE_UNCORR the stope microcode ends the command of the access (R347; DEDUCED, log 35). -/
def faultEvent (s : State) (st cr code arg extra tag epoch : Nat) : State :=
  let s := xferEvent s st cr code arg extra tag epoch
  if code = 0x020C then markEnd s tag epoch code else s

/-! ### Trace records (R337 to R340) -/

/-- The trace writers of a level are off: monitor retired, or recovery mode (R342; DEDUCED, log 48). -/
def monitorOff (s : State) (n : Nat) : Bool := (levelOf s n).monRetired || s.flt.recovery

/-- Suppression field bit of an event code (R340). -/
def traceClass (code : Nat) : Nat := if 0x8000 ≤ code then 8 else code / 16

/-- Records that the monitor has still to write at device cycle t: it writes two a cycle (R339). -/
def traceQueued (t : Trace) (now : Nat) : Nat := t.queued - 2 * (now - t.queuedAt)

/-- Records of the ring that stand unwritten in the monitor's queue once device cycle t has passed (R339). -/
def traceUnwritten (t : Trace) (now : Nat) : Nat := traceQueued t now - 2

/-- AGENT bytes of the records of device cycle t. -/
def agentsNow (t : Trace) (now : Nat) : List Nat := if t.queuedAt = now then t.cycleAgents else []

/-- The 32 bytes of a trace record (R337). -/
def traceBytes (s : State) (code tag epoch agent arg : Nat) : List Byte :=
  toBytes 4 tag ++ toBytes 2 epoch ++ toBytes 2 code ++ toBytes 8 s.now ++ toBytes 6 s.rnd.round ++ toBytes 1 agent ++ [0] ++ toBytes 8 arg

/-- The record takes its place in the ring: after the earlier ones, but before those of its own cycle with a greater AGENT byte (R339).
-/
def traceCells (s : State) (st agent : Nat) (bs : List Byte) : List Host.Cell :=
  let t := (stopeOf s st).trace
  let k := ((agentsNow t s.now).filter (fun a => decide (agent < a))).length
  let place := fun (i : Nat) => traceAddr st ((t.head + 8192 - k + i) % 8192 * 32)
  cellsAt (place 0) bs ++ (List.range k).flatMap (fun i => cellsAt (place (i + 1)) (readBytes s (place i) 32))

/-- One trace record of stope st: lost in STOP mode and when the monitor's queue of 16 is full (R337 to R340; DEDUCED, log 48). -/
def traceRec (s : State) (st code tag epoch agent arg : Nat) : State :=
  let x := stopeOf s st
  let t := x.trace
  let ctl := t.ctl.toNat
  if monitorOff s (stopeLevel st) ∨ bit ctl 0 = false ∨ bit ctl (16 + traceClass code) then s
  else if (bit ctl 1 = false ∧ 8192 ≤ t.sinceClear) ∨ 18 ≤ traceQueued t s.now then
    putStope s st { x with trace := { t with lost := satAdd 32 t.lost 1 } }
  else
    writeCells (putStope s st { x with trace := { t with
        head := (t.head + 1) % 8192, count := t.count + 1, sinceClear := t.sinceClear + 1
        queued := traceQueued t s.now + 1, queuedAt := s.now, cycleAgents := agent :: agentsNow t s.now } })
      (traceCells s st agent (traceBytes s code tag epoch agent arg))

end Sys2Proof.Machine
end

