-- ==== Sys2Proof/Machine/Link.lean ====
section
/-! DEFINITION. Sending on Uason ports: what a port carries (R236, R249), the queue of a port and the order of its channels (R242),
the replay buffer (R238) and the count of what was sent (R266). -/

namespace Sys2Proof.Machine

/-! ### Configuration and lanes (R235, R237, R241, R249) -/

/-- Bits of a configuration word (table "Port configuration"). -/
def cfgEnable (w : Word32) : Bool := bit w.toNat 0
def cfgMaxGen (w : Word32) : Nat := bits w.toNat 1 2
def cfgQuery (w : Word32) : Bool := bit w.toNat 5
def cfgTallyRx (w : Word32) : Bool := bit w.toNat 6
def cfgWakeOk (w : Word32) : Bool := bit w.toNat 7
def cfgWeight (w : Word32) : Nat := bits w.toNat 8 2

/-- Number of lanes in a mask. -/
def laneCount (m : Nat) : Nat := ((List.range 4).filter (fun l => bit m l)).length

/-- Lanes of a port that are not retired (R241). -/
def usableLanes (x : Port) : Nat := 15 - x.retired % 16

/-- The lowest lane of a mask, as a mask. -/
def lowestLane (m : Nat) : Nat := match (List.range 4).find? (fun l => bit m l) with | some l => 2 ^ l | none => 0

/-- The CAPS that a port sends (R235). -/
def ownCaps (s : State) (x : Port) : Caps := { gen := cfgMaxGen x.live, lanes := usableLanes x, three := true, dev := s.fabId }

/-! ### What a port carries (R236, R242, R243, R249) -/

/-- The port carries flits: up, or on its Vigil lane. -/
def carries (p : Port) : Bool := match p.state with | .up => true | .vigil => true | _ => false

/-- Message types of VC0: queries, answers and VOID answers (R242). -/
def isVc0 (typ : Nat) : Bool := decide (typ = 0x30 ∨ typ = 0x31 ∨ typ = 0x32)

/-- The virtual channel of a message type (R242). -/
def vcOf (typ : Nat) : Nat := if isVc0 typ then 0 else if typ = 0x20 then 1 else if typ = 0x10 ∨ typ = 0x11 then 2 else 3

/-- The lowest generation that carries a message type; none for a reserved type (R236, R243). -/
def typeGen (typ : Nat) : Option Nat :=
  if typ ∈ [0x01, 0x02, 0x03, 0x04] then some 1
  else if typ ∈ [0x10, 0x11, 0x20] then some 2
  else if isVc0 typ then some 3
  else none

/-- A port of generation g carries a message type. -/
def genCarries (g typ : Nat) : Bool := match typeGen typ with | some k => decide (k ≤ g) | none => false

/-- A port carries a message of this type now; a Vigil lane carries VC0 only (R236, R249). -/
def carriesType (x : Port) (typ : Nat) : Bool := carries x && genCarries x.gen typ && (decide (x.state ≠ .vigil) || isVc0 typ)

/-- A port takes a message of this type into its queue: it carries the type, or it retrains and will carry it (R239). -/
def takesType (x : Port) (typ : Nat) : Bool := carriesType x typ || (decide (x.state = .retraining) && genCarries x.gen typ)

/-- Flits of a message with n payload bytes (R243). -/
def flitsOf (n : Nat) : Nat := (32 + n + 271) / 272

/-! ### The next flit (R242) -/

/-- Flits of receive buffer that a port's partner has for a virtual channel: 64 for VC0; of the others the spec gives no number, and the
replay buffer's 1,024 bound them (R238, R242; DESIGN CHOICE, log 20). -/
def channelRoom (vc : Nat) : Nat := if vc = 0 then 64 else 1024

/-- The port holds a credit of a channel: a flit's comes back with its acknowledgement, and control flits need none (R242; DESIGN CHOICE,
log 20). -/
def hasCredit (x : Port) (vc : Nat) : Bool := decide (vc = 4) || decide ((x.buffer.filter (fun k => decide (k.vc = vc))).length < channelRoom vc)

/-- What is queued may leave now: a Vigil lane carries control flits and VC0 only, a port that retires a lane sends nothing new
but LANE_RETIRE, and a channel needs credit (R240, R242, R249). -/
def mayLeave (x : Port) (q : QItem) : Bool :=
  hasCredit x q.vc && (decide (x.state ≠ .vigil) || decide (q.vc = 4 ∨ q.vc = 0)) &&
  (x.retiring.isNone || (match q.out with | .laneRetire _ _ => true | _ => false))

/-- The deadline of a is earlier: round, then phase. -/
def sooner (a b : Nat × Nat) : Bool := decide (a.1 < b.1) || (decide (a.1 = b.1) && decide (a.2 < b.2))

/-- The tagged item with the earliest deadline, the oldest of equals (R242). -/
def earliest : List QItem → Option QItem
  | [] => none
  | q :: qs =>
    match q.due, earliest qs with
    | none, r => r
    | some _, none => some q
    | some d, some r => if (match r.due with | some e => sooner e d | none => false) then some r else some q

/-- The item of a channel whose flit goes next: one begun goes on, on VC2 a tagged slice goes by its deadline ahead of the rest
(R242; DEDUCED, log 34). -/
def nextOf (x : Port) (vc : Nat) : Option QItem :=
  let qs := x.sendq.filter (fun q => decide (q.vc = vc) && mayLeave x q)
  match qs.find? (fun q => decide (0 < q.sent)) with
  | some q => some q
  | none => match earliest qs with | some q => some q | none => qs.head?

/-- The item whose flit a port sends next, and the turn after it: control flits, VC0, VC1, then VC2 and VC3 by WEIGHT when both
hold flits (R242; DESIGN CHOICE, log 34). -/
def nextItem (x : Port) : Option (QItem × Nat) :=
  match nextOf x 4, nextOf x 0, nextOf x 1, nextOf x 2, nextOf x 3 with
  | some q, _, _, _, _ => some (q, x.turn)
  | none, some q, _, _, _ => some (q, x.turn)
  | none, none, some q, _, _ => some (q, x.turn)
  | none, none, none, some q, some r => some (if x.turn < cfgWeight x.live then q else r, (x.turn + 1) % 4)
  | none, none, none, some q, none => some (q, x.turn)
  | none, none, none, none, some r => some (r, x.turn)
  | none, none, none, none, none => none

/-- One flit of a queued item has left: the item counts it, or leaves the queue with its last. -/
def sentOne (q : QItem) : List QItem → List QItem
  | [] => []
  | r :: rs => if r = q then (if q.sent + 1 < q.flits then { q with sent := q.sent + 1 } :: rs else rs) else r :: sentOne q rs

/-- A flit of an item leaves and is kept until it is acknowledged; the item has left with its last flit (R238, R243, R266;
DEDUCED, log 34). -/
def sendFlit (s : State) (p : Nat) (q : QItem) (turn : Nat) : State :=
  let last : Bool := decide (q.flits ≤ q.sent + 1)
  let s := modPort s p (fun x =>
    let seq := (x.sendSeq + 1) % 4096
    { x with
      sendSeq := seq, tx := x.tx + 272, turn := turn, sendq := sentOne q x.sendq
      buffer := x.buffer ++ [{ seq := seq, vc := q.vc, som := decide (q.sent = 0), eom := last, out := q.out, part := q.sent }] })
  if last then emit s q.out else s

/-- Flits leave while the port carries and the replay buffer has room (R238). -/
def pump : Nat → State → Nat → State
  | 0, s, _ => s
  | n + 1, s, p =>
    let x := portOf s p
    if carries x ∧ x.buffer.length < 1024 then
      match nextItem x with
      | some (q, turn) => pump n (sendFlit s p q turn) p
      | none => s
    else s

/-- What waits at a port leaves, as far as it can. -/
def sendOn (s : State) (p : Nat) : State := pump 1024 s p

/-- An item joins a port's queue. -/
def queueItem (s : State) (p : Nat) (q : QItem) : State := sendOn (modPort s p (fun x => { x with sendq := x.sendq ++ [q] })) p

/-! ### Messages and control flits -/

/-- A message is discarded and counted (R244, R249). -/
def discardMsg (s : State) (p : Nat) : State := modPort s p (fun x => { x with discarded := satAdd 8 x.discarded 1 })

/-- A message leaves by a port that carries its type; on any other, and from a device whose identifier is unset, it is not sent (R236,
R244). -/
def sendsFab (s : State) (p : Nat) (m : FabMsg) : Bool := takesType (portOf s p) m.typ && decide (s.fabId ≠ 0xFFF)
def sendFab (s : State) (p : Nat) (m : FabMsg) : State :=
  if sendsFab s p m then queueItem s p { vc := vcOf m.typ, out := .fab p m, flits := flitsOf m.payload.length } else s

/-- A message of the device's own leaves by a port. Its first TTL is not given by the spec: a free value (R243, log 24). -/
def sendOwn (s : State) (p : Nat) (m : FabMsg) : State := sendFab (useFree s 1) p { m with ttl := freeAt s 0 % 256 }

/-- The device takes an identifier; with 0xFFF it sends control flits only, and its ports drop the messages that wait (R244; DEDUCED,
log 34). -/
def setFabId (s : State) (v : Nat) : State :=
  let s := { s with fabId := v }
  if v ≠ 0xFFF then s
  else (List.range 12).foldl (fun s p => modPort s p (fun x => { x with sendq := x.sendq.filter (fun q => decide (q.vc = 4)) })) s

/-- A control flit leaves by a port. -/
def sendCtl (s : State) (p : Nat) (o : Out) : State := queueItem s p { vc := 4, out := o, flits := 1 }

/-- CAPS and READY leave by a port that trains: they stand outside the sequence (R235, R266; DEDUCED, log 34). -/
def sendRaw (s : State) (p n : Nat) (o : Out) : State := emit (modPort s p (fun x => { x with tx := x.tx + 272 * n })) o

/-- A port that was up goes on over its lowest lane, as its CAPS says; what only full rate carries is dropped (R249; DEDUCED, log 34).
-/
def toVigilLane (s : State) (p : Nat) : State :=
  let x := portOf s p
  let l := lowestLane x.lanes
  let s := putPort s p { x with state := .vigil, lanes := l, retiring := none, sendq := x.sendq.filter (fun q => decide (q.vc = 4 ∨ q.vc = 0)) }
  sendRaw s p 1 (.caps p { ownCaps s x with lanes := l })

/-- An item fits a port of generation g: types that g does not carry fall out, a slice loses the tag that g does not carry (R236,
R239). -/
def fitItem (g : Nat) (q : QItem) : Option QItem :=
  match q.out with
  | .fab _ m => if genCarries g m.typ then some q else none
  | .slice p m => if genCarries g 0x10 then some (if g = 3 then q else { q with out := .slice p { m with deadline := 0 }, due := none }) else none
  | .sliceAck .. => if genCarries g 0x11 then some q else none
  | .sliceAgain .. => if genCarries g 0x11 then some q else none
  | .sliceCredit .. => if genCarries g 0x11 then some q else none
  | _ => some q

end Sys2Proof.Machine
end

