-- ==== Sys2Proof/Machine/Post.lean ====
section
/-! DEFINITION. What the controllers write for the host: messages of the response rings, interrupts, notes, fault
records (R312 to R316, R333 to R335, R349, R350). -/

namespace Sys2Proof.Machine

/-- Vector v is not sent now: MSI-X is not enabled, the function or the vector is masked (R300, R312; PRESUMED, log 20). -/
def vectorHeld (e : Endpoint) (v : Nat) : Bool := !bit e.msixCtl.toNat 15 || bit e.msixCtl.toNat 14 || tget e.msixMask true v

/-- Send MSI-X vector v, or set its pending bit while it is held (R312). -/
def sendVector (s : State) (v : Nat) : State :=
  if vectorHeld s.ep v then { s with ep := { s.ep with pba := s.ep.pba ||| 2 ^ v } } else emit s (.msix v)

/-- A pending vector that is no longer held is sent (R312). -/
def freeVector (s : State) (v : Nat) : State :=
  if bit s.ep.pba v ∧ vectorHeld s.ep v = false then emit { s with ep := { s.ep with pba := s.ep.pba - 2 ^ v } } (.msix v) else s

/-- An interrupt cause sets its bit and, when unmasked, sends its vector. -/
def raiseCause (s : State) (b : Nat) : State :=
  let s := { s with ep := { s.ep with intStat := s.ep.intStat ||| BitVec.ofNat 32 (2 ^ b) } }
  if bit s.ep.intMask.toNat b then s else sendVector s b

/-- Vector m covers the slots posted so far. -/
def coverSlots (s : State) (m : Nat) : State :=
  let s := modMbx s m (fun x => { x with uncovered := 0 })
  if bit s.ep.intMask.toNat m then s else sendVector s m

/-- RSP bit m after one more slot, with the coalescing of R312. -/
def rspCause (s : State) (m : Nat) : State :=
  let s := { s with ep := { s.ep with intStat := s.ep.intStat ||| BitVec.ofNat 32 (2 ^ m) } }
  let x := mbxOf s m
  let n := bits x.coal.toNat 16 8
  if x.coal.toNat = 0 then coverSlots s m
  else
    let s := putMbx s m { x with uncovered := x.uncovered + 1, uncoveredAt := if x.uncovered = 0 then s.now else x.uncoveredAt }
    if n ≠ 0 ∧ n ≤ x.uncovered + 1 then coverSlots s m else s

/-- The 64 B header and the payload of a message in a slot (R316). -/
def msgBytes (m : Msg) : List Byte :=
  let v3 : Bool := decide (m.version = 3)
  let head := toBytes 1 m.version ++ toBytes 1 m.typ ++ toBytes 2 m.seq ++ toBytes 4 m.payload.length ++
    toBytes 2 m.status ++ toBytes 2 (b2n m.note) ++ toBytes 4 m.tag ++ toBytes 2 (if v3 then m.epoch else 0) ++
    toBytes 6 (if 2 ≤ m.version then m.round else 0) ++ toBytes 2 m.reqSeq ++ List.replicate 34 (0 : Byte)
  head ++ toBytes 4 (if v3 then (crc32c (head ++ m.payload)).toNat else 0) ++ m.payload

/-- Distance a - b of two ring indices (R311). -/
def ringDist (a b : Nat) : Nat := (a + 2 ^ 16 - b) % 2 ^ 16

/-- Post a message in the next free slot of its response ring (R310, R314). -/
def postSlot (s : State) (m : Msg) : State :=
  let x := mbxOf s m.mbx
  let payload := if m.typ = 0x41 ∨ m.typ = 0x43 then m.payload.take 8 ++ toBytes 4 m.skipped ++ m.payload.drop 12 else m.payload
  let m := { m with version := (if m.version = 0 then x.version else m.version), seq := x.rspSeq, round := s.rnd.round, payload :=
    if m.typ = 0x40 ∧ x.version = 1 then payload.take 32 else payload }
  let s := writeCells s (cellsAt (ringAddr m.mbx (0x8000 + 256 * (x.rspTail % 128))) (msgBytes m))
  let s := putMbx s m.mbx { x with rspTail := (x.rspTail + 1) % 2 ^ 16, rspSeq := (x.rspSeq + 1) % 2 ^ 16 }
  rspCause (emit s (.slot m)) m.mbx

/-- A message may take a slot now: the ring has room, and what waits there waits only for a session, which a reply does not need (R314,
R318). -/
def mayPost (x : Mbx) (m : Msg) : Bool :=
  decide (ringDist x.rspTail x.rspHead < 128) && (if m.note then x.isOpen && x.pend.isEmpty else x.pend.all (·.note))

/-- An event for the controller joins the queue of a takeover; one that finds 4,096 there is lost (R364). -/
def queueEvent (s : State) (e : CtlEvent) : State :=
  { s with flt := if s.flt.evq.length < 4096 then { s.flt with evq := s.flt.evq ++ [e] } else { s.flt with evqLost := true } }

/-- A reply, a completion or a note: into the ring while it may, otherwise pending. A pending ROUND_NOTE or STATE_NOTE displaces an
earlier one of its type (R315). -/
def postNow (s : State) (m : Msg) : State :=
  let x := mbxOf s m.mbx
  if mayPost x m then postSlot s m
  else if m.typ = 0x41 ∨ m.typ = 0x43 then
    let old := x.pend.filter (fun p => decide (p.typ = m.typ))
    let skipped := old.foldl (fun n p => n + p.skipped + 1) 0
    putMbx s m.mbx { x with pend := x.pend.filter (fun p => decide (p.typ ≠ m.typ)) ++ [{ m with skipped := skipped }] }
  else putMbx s m.mbx { x with pend := x.pend ++ [m] }

/-- A controller posts it, at once or when a takeover has ended (R364). -/
def post (s : State) (m : Msg) : State := if s.flt.takeover.isSome then queueEvent s (.message m) else postNow s m

/-- Post what waits, in order, while the ring has room; a COMPLETION waits for an open session, replies do not (R314, R318). -/
def postPending (s : State) (k : Nat) : Nat → State
  | 0 => s
  | n + 1 =>
    let x := mbxOf s k
    match x.pend.find? (fun m => x.isOpen || !m.note) with
    | none => s
    | some m =>
      if ringDist x.rspTail x.rspHead < 128 then
        postPending (postSlot (putMbx s k { x with pend := x.pend.erase m }) m) k n
      else s

/-- A note to every open session of version 2 or 3 (R333; DEDUCED, log 49). -/
def notesNow (s : State) (typ : Nat) (payload : List Byte) : State :=
  (List.range 8).foldl (fun s m =>
    let x := mbxOf s m
    if x.isOpen ∧ 2 ≤ x.version then
      postNow s { mbx := m, typ := typ, note := true, payload := payload }
    else s) s

/-- A note, at once or when a takeover has ended (R333, R364). -/
def postNotes (s : State) (typ : Nat) (payload : List Byte) : State :=
  if s.flt.takeover.isSome then queueEvent s (.notes typ payload) else notesNow s typ payload

/-- STATE_NOTE (R334, R335): what changed, its new value, the logical stope of a remap. -/
def stateNote (s : State) (what val st : Nat) : State :=
  postNotes s 0x43 (toBytes 1 what ++ toBytes 1 val ++ toBytes 2 st ++ List.replicate 8 (0 : Byte))

/-- STATE_NOTE of a change for which the spec names no new value: a free value (R335, log 40). -/
def openNote (s : State) (what : Nat) : State := stateNote (useFree s 1) what (freeAt s 0 % 256) 0

/-- ABSENT_NOTE (R256, R335). -/
def absentNote (s : State) (dev reason wire : Nat) : State :=
  postNotes s 0x42 (toBytes 2 dev ++ toBytes 1 reason ++ [0] ++ toBytes 4 wire)

/-! ### Alert causes (R418, R419) -/

/-- A cause of HDF_I3C_ALERT is set; a bit that becomes set while in-band interrupts are enabled makes one pending (R419; DESIGN CHOICE, log
33). -/
def setAlert (s : State) (b : Nat) : State :=
  if bit s.i3c.alert.toNat b then s
  else
    let a := s.i3c.alert ||| BitVec.ofNat 32 (2 ^ b)
    { s with i3c := { s.i3c with alert := a, ibi := s.i3c.ibi || s.i3c.enec } }

/-! ### Fault records -/

/-- Class of a fault code: 0 T, 1 H, 2 C (R348, R349). -/
def faultClass (code : Nat) : Nat :=
  if code = 0x0301 then 0
  else if [0x0206, 0x0207, 0x020B, 0x020C, 0x0302, 0x0304, 0x0305, 0x0601, 0x0602, 0x0603, 0x0701, 0x0702, 0x0705,
    0x0706, 0x0707, 0x0708, 0x0709, 0x070A, 0x070B].contains code then 1
  else 2

/-- The fields of a fault record that its writer chooses (R349). -/
structure FaultRec where
  code : Nat
  source : Nat
  unit : Nat := 0xFFFF
  phys : Nat := 0
  tag : Nat := 0
  epoch : Nat := 0
  /-- the CREW byte: crew in [3:0], [7] valid -/
  crew : Nat := 0
  action : Nat := 0
  arg0 : Nat := 0
  arg1 : Nat := 0
  deriving DecidableEq, Repr

/-- Bytes 0x00 to 0x2F of a record (R349). -/
def recordHead (s : State) (r : FaultRec) : List Byte :=
  toBytes 2 r.code ++ toBytes 1 (faultClass r.code) ++ toBytes 1 r.source ++ toBytes 2 r.unit ++ toBytes 2 r.phys ++
  toBytes 4 r.tag ++ toBytes 2 r.epoch ++ toBytes 1 r.crew ++ toBytes 1 r.action ++ toBytes 6 s.rnd.round ++
  [0, 0] ++ toBytes 8 s.now ++ toBytes 8 r.arg0 ++ toBytes 8 r.arg1

/-- A record enters the log: the device gives SEQ and CHECK; a class H record also goes to the flash history and
is posted as FAULT_NOTE (R350, R368). -/
def recordNow (s : State) (head : List Byte) : State :=
  let body := head.take 48 ++ toBytes 4 s.flt.count ++ List.replicate 8 (0 : Byte)
  let bs := body ++ toBytes 4 (crc32c body).toNat
  let v : BitVec 512 := BitVec.ofNat 512 (ofBytes bs)
  let hard : Bool := decide (field bs 2 1 = 1)
  let f := s.flt
  let f := { f with log := tset f.log 0 (f.count % 512) v, count := f.count + 1 }
  let f := if hard then { f with history := ((v :: f.history).take 1024), histCount := f.histCount + 1 } else f
  let s := { s with flt := f }
  if hard then setAlert (notesNow s 0x50 bs) 6 else s

/-- A record for the log, at once or when a takeover has ended (R350, R364). -/
def appendRecord (s : State) (head : List Byte) : State :=
  if s.flt.takeover.isSome then queueEvent s (.record head) else recordNow s head

/-- What waited for a controller is carried out (R364). -/
def handleEvent (s : State) (e : CtlEvent) : State :=
  match e with
  | .record head => recordNow s head
  | .notes typ payload => notesNow s typ payload
  | .message m => postNow s m

/-- The foreman or the deputy appends a record. -/
def logFault (s : State) (r : FaultRec) : State := appendRecord s (recordHead s r)

/-- PHYS of a stope source (R349). -/
def physUnit (s : State) (st : Nat) : Nat := (physHolding s st).getD 0

end Sys2Proof.Machine
end

