-- ==== Sys2Proof/Machine/TallyBlock.lean ====
section
/-! DEFINITION. The tally blocks: the tallies by scope, the cycle of a block (R173 to R176), the flags and their events
(R178, R179); time that passes ends a block's cycle. -/

namespace Sys2Proof.Machine

/-! ### The tallies -/

/-- Tally num of a scope's unit (R168). -/
def tallyOf (s : State) (sc : Scope) (unit num : Nat) : Tally :=
  match sc with
  | .stope => tget (stopeOf s unit).tallies {} num
  | .level => tget (levelOf s unit).tallies {} num
  | .device => tget s.devTallies {} num

def putTally (s : State) (sc : Scope) (unit num : Nat) (x : Tally) : State :=
  match sc with
  | .stope => modStope s unit (fun y => { y with tallies := tset y.tallies {} num x })
  | .level => modLevel s unit (fun y => { y with tallies := tset y.tallies {} num x })
  | .device => { s with devTallies := tset s.devTallies {} num x }

/-- Number of tallies of a unit (R168). -/
def tallyCount (sc : Scope) : Nat := match sc with | .stope => 64 | .level => 256 | .device => 1024

/-- Units of a scope. -/
def tallyUnits (sc : Scope) : Nat := match sc with | .stope => 160 | .level => 8 | .device => 1

/-- Scope codes of descriptors and records (R106, R179). -/
def scopeCode (sc : Scope) : Nat := match sc with | .stope => 0 | .level => 1 | .device => 2

/-! ### The scan (R174) -/

/-- The count after the scan, the waiters left and the waiters released, from `blocked`. -/
def scan : Nat → Bool → List Waiter → Nat × List Waiter × List Waiter
  | c, _, [] => (c, [], [])
  | c, blocked, w :: ws =>
    if w.take then
      if blocked = false ∧ w.n ≤ c then
        let r := scan (c - w.n) false ws
        (r.1, r.2.1, w :: r.2.2)
      else
        let r := scan c true ws
        (r.1, w :: r.2.1, r.2.2)
    else if w.n ≤ c then
      let r := scan c blocked ws
      (r.1, r.2.1, w :: r.2.2)
    else
      let r := scan c blocked ws
      (r.1, w :: r.2.1, r.2.2)

/-- Age order of waiters: arrival cycle, lower stope, lower crew (R174; DEDUCED, log 47). -/
def older (a b : Waiter) : Bool :=
  decide (a.arrived < b.arrived) ||
  (decide (a.arrived = b.arrived) && (decide (a.st < b.st) || (decide (a.st = b.st) && decide (a.cr < b.cr))))

/-- A waiter takes its place by age. -/
def insertWaiter (w : Waiter) : List Waiter → List Waiter
  | [] => [w]
  | v :: vs => if older w v then w :: v :: vs else v :: insertWaiter w vs

/-! ### The cycle of a block (R173, R176, R178) -/

/-- What a visit leads to: count, waiters left, waiters released, whether an addition passed the maximum and a subtraction
the count. -/
structure Outcome where
  count : Nat
  left : List Waiter
  freed : List Waiter
  sat : Bool
  under : Bool

/-- Additions and subtractions of a visit; those of 0 change nothing (R170). -/
def addsOf (v : Visit) : List SigIn := v.ins.filter (fun i => !i.sub && decide (0 < i.n))
def subsOf (v : Visit) : List SigIn := v.ins.filter (fun i => i.sub && decide (0 < i.n))

/-- The four steps of R173: the written count, the additions summed before saturation and the subtractions after them, the
new waits by age without the withdrawn ones (R176), the scan when the count rose or a wait arrived (R174; DEDUCED, log 47). -/
def outcomeOf (v : Visit) : Outcome :=
  let base := v.setTo.getD v.count
  let a := (addsOf v).foldl (fun n i => n + i.n) 0
  let b := (subsOf v).foldl (fun n i => n + i.n) 0
  let up := min (base + a) (2 ^ 32 - 1)
  let c := up - b
  let here := (v.joined.foldl (fun ws w => insertWaiter w ws) v.waiters).filter (fun w => !v.gone.contains (w.st, w.cr))
  let r := if v.count < c ∨ addsOf v ≠ [] ∨ v.joined ≠ [] ∨ v.rescan then scan c false here else (c, here, [])
  { count := r.1, left := r.2.1, freed := r.2.2, sat := decide (2 ^ 32 ≤ base + a), under := decide (up < b) }

/-- A crew's wait changes. -/
def modWait (s : State) (st cr : Nat) (f : Wait → Wait) : State :=
  modCrew s st cr (fun c => { c with wait := c.wait.map f })

/-- A crew's wait moves to a phase. -/
def setPhase (s : State) (st cr : Nat) (p : WaitPhase) : State := modWait s st cr (fun w => { w with phase := p })

/-- Cycles from the issue of a wait that the count already satisfies to its crew's eligibility, at the least (R183). -/
def satisfiedLatency (sc : Scope) : Nat := match sc with | .stope => 2 | .level => 16 | .device => 70

/-- Least time from a signal's effect in the block to its waiter's eligibility: 2 ns on a stope tally; the way from level
and device blocks is left to the release's own command (R183; DESIGN CHOICE, log 43). -/
def signalLatency (sc : Scope) : Nat := match sc with | .stope => 2 | _ => 0

/-- When a wait released by a visit makes its crew eligible, at the least: both bounds where wait and signal meet (R183,
R431). -/
def eligibleAt (v : Visit) (w : Wait) (joined : Bool) : Nat :=
  let sat := if joined then w.issued + satisfiedLatency w.sc else 0
  let sig := if joined ∧ addsOf v = [] ∧ v.setTo = none then 0 else v.cycle + signalLatency w.sc
  max (v.cycle + 1) (max sat sig)

/-- Where a waiter of a visit stands after it. -/
def placeWaiter (v : Visit) (o : Outcome) (s : State) (w : Waiter) : State :=
  modWait s w.st w.cr (fun x =>
    if v.gone.contains (w.st, w.cr) then { x with phase := .withdrawn }
    else if o.freed.contains w then { x with phase := .released, due := eligibleAt v x (v.joined.contains w) }
    else { x with phase := .listed })

/-- The visit of the present cycle, opened on the tally as it stands. -/
def visitOf (s : State) (x : Tally) : Visit :=
  let new : Visit := { cycle := s.now, count := x.count, sat := x.sat, under := x.under, waiters := x.waiters }
  match x.visit with
  | some v => if v.cycle = s.now then v else new
  | none => new

/-- Something more reaches a tally in the present cycle: the cycle's outcome is that of all that reached it (R173; DEDUCED,
log 47). -/
def reachTally (s : State) (sc : Scope) (unit num : Nat) (f : Visit → Visit) : State :=
  let x := tallyOf s sc unit num
  let v := f (visitOf s x)
  let o := outcomeOf v
  let s := putTally s sc unit num { x with
    count := o.count, waiters := o.left, sat := v.sat || o.sat, under := v.under || o.under, visit := some v }
  let s := (v.waiters ++ v.joined).foldl (placeWaiter v o) s
  { s with flagsDue := if (o.sat ∨ o.under) ∧ ¬ s.flagsDue.contains (sc, unit, num) then (sc, unit, num) :: s.flagsDue else s.flagsDue }

/-! ### The events of the flags (R179) -/

/-- The order in which issuers of one cycle are named (R179): crews, overmen and trams by stope, hoists, marks, ports. -/
def issuerRank (i : Issuer) : Nat :=
  match i.source with
  | 0 => 16 * i.unit + i.crew
  | 1 => 10000 + i.unit
  | 2 => 11000 + i.unit
  | 6 => 20000 + i.unit
  | 5 => 30000 + i.unit
  | _ => 40000 + i.unit

/-- The issuer named first (DEDUCED, log 47). -/
def firstIssuer : List Issuer → Option Issuer
  | [] => none
  | i :: is =>
    match firstIssuer is with
    | none => some i
    | some j => if issuerRank j < issuerRank i then some j else some i

/-- The AGENT byte of an issuer of stope tallies: a crew, the overman, the tram with its crew (R337). -/
def agentByte (i : Issuer) : Nat := match i.source with | 0 => i.crew | 2 => 0x20 + i.crew | _ => 0x10

/-- The event of a flag that was set (R179): under = false for SAT. -/
def flagEvent (s : State) (sc : Scope) (unit num : Nat) (under : Bool) (ops : List SigIn) : State :=
  match firstIssuer (ops.map (·.by')) with
  | none => s
  | some i =>
    let code := if under then 0x0402 else 0x0401
    match sc with
    | .stope =>
      let pc := if i.source = 0 then (crewOf s i.unit i.crew).pc else 0
      let s := raiseEvent s unit { cls := 5, crew := i.crew, code := code, pc := pc, arg := num + b2n under * 256, tag := i.tag, epoch := i.epoch }
      traceRec s unit 0x0030 i.tag i.epoch (agentByte i) (num + b2n under * 256)
    | _ =>
      logFault s { code := code, source := i.source, unit := i.unit, phys := if i.source ≤ 2 then physUnit s i.unit else 0,
                   tag := i.tag, epoch := i.epoch, crew := if i.source = 0 then i.crew + 128 else 0, action := 1,
                   arg0 := num + scopeCode sc * 1024 + b2n under * 4096,
                   arg1 := (if sc = .device then 0xFFFF else unit) + min ops.length 0xFFFF * 2 ^ 16 }

/-- The cycle ends at a tally: at most one SAT and one UNDER event (R179). -/
def flagsOf (s : State) (k : Scope × Nat × Nat) : State :=
  match (tallyOf s k.1 k.2.1 k.2.2).visit with
  | none => s
  | some v =>
    let o := outcomeOf v
    let s := if o.sat then flagEvent s k.1 k.2.1 k.2.2 false (addsOf v) else s
    if o.under then flagEvent s k.1 k.2.1 k.2.2 true (subsOf v) else s

/-- The blocks' cycle ends: the events of its flags leave (R179; DEDUCED, log 47). -/
def endCycle (s : State) : State := s.flagsDue.reverse.foldl flagsOf { s with flagsDue := [] }

/-- In Full no command is ready, admitted or running, no hoist slot is loaded and no crew of a non-reserved stope runs (R292). -/
def idleHolds (s : State) : Bool :=
  decide (s.power = .full) &&
  !s.cmds.any (fun c => isAdmitted c || (decide (c.state = .queued) && roundDue s c)) &&
  s.levels.all (fun l => decide (slotsLoaded l.2.hoist = 0)) &&
  s.stopes.all (fun x => isReserved s x.1 || x.2.agents.all (fun a => decide (16 ≤ a.1 ∨ a.2.state ≠ .running)))

/-- Cycles pass up to t: the present one ends, and a condition of Idle that did not hold is counted from t (R292; DESIGN
CHOICE, log 2). -/
def passTo (s : State) (t : Nat) : State := { endCycle s with now := t, busyAt := if idleHolds s then s.busyAt else t }

/-- The command happens at device cycle t or, when t is past, now (DESIGN CHOICE, log 2). -/
def advance (s : State) (t : Nat) : State := if s.now < t then passTo s t else s

/-! ### What reaches a tally -/

/-- Signals of one cycle reach a tally (R173). -/
def signalTally (s : State) (sc : Scope) (unit num : Nat) (ins : List SigIn) : State :=
  reachTally s sc unit num (fun v => { v with ins := v.ins ++ ins })

/-- One signal. -/
def signalOne (s : State) (sc : Scope) (unit num n : Nat) (sub : Bool) (by' : Issuer) : State :=
  signalTally s sc unit num [{ sub := sub, n := n, by' := by' }]

/-- The tram of a stope adds 1 to stope tally q for a transfer of a crew (R147). -/
def tramSignal (s : State) (st q crew tag epoch : Nat) : State :=
  signalOne s .stope st q 1 false { source := 2, unit := st, crew := crew, tag := tag, epoch := epoch }

/-- A write to the count: no flag (R173, R178; DEDUCED, log 47). -/
def writeCount (s : State) (sc : Scope) (unit num : Nat) (v : Nat) : State :=
  reachTally s sc unit num (fun x => { x with setTo := some (v % 2 ^ 32) })

/-- A count goes back to its base, and the remaining waiters are scanned (R188). -/
def restoreCount (s : State) (sc : Scope) (unit num : Nat) : State :=
  reachTally s sc unit num (fun v => { v with setTo := some (tallyOf s sc unit num).base, rescan := true })

/-- A wait joins the list (R173). -/
def joinTally (s : State) (sc : Scope) (unit num : Nat) (w : Waiter) : State :=
  reachTally s sc unit num (fun v => { v with joined := v.joined ++ [w] })

/-- A wait leaves the list before the cycle's scan (R176). -/
def leaveTally (s : State) (sc : Scope) (unit num st cr : Nat) : State :=
  reachTally s sc unit num (fun v => { v with gone := v.gone ++ [(st, cr)] })

/-- The waiters that `p` names leave the list with the crews they belong to; what came before is past. -/
def dropWaiters (s : State) (sc : Scope) (unit num : Nat) (p : Waiter → Bool) : State :=
  let s := endCycle s
  let x := tallyOf s sc unit num
  putTally s sc unit num { x with waiters := x.waiters.filter (fun w => !p w), visit := none }

/-- The count as a TREAD of the present cycle finds it (R173). -/
def treadCount (s : State) (x : Tally) : Nat :=
  match x.visit with
  | some v => if v.cycle = s.now then v.count else x.count
  | none => x.count

/-- A flag is cleared by software: a flag set in the same cycle stays set (R10, R178). -/
def clearFlag (s : State) (x : Tally) (under : Bool) : Tally :=
  match x.visit with
  | some v =>
    if v.cycle = s.now then
      let v := if under then { v with under := false } else { v with sat := false }
      let o := outcomeOf v
      { x with sat := v.sat || o.sat, under := v.under || o.under, visit := some v }
    else if under then { x with under := false } else { x with sat := false }
  | none => if under then { x with under := false } else { x with sat := false }

end Sys2Proof.Machine
end

