-- ==== Sys2Proof/Machine/Landing.lean ====
section
/-! DEFINITION. What lands at its fixed cycle: rows entering the feeds, their sums (R39 to R42, R48, R52, R54,
R59), the writes in flight of crews and overmen (R100 to R102), in the order of the counted cycles. -/

namespace Sys2Proof.Machine

/-! ### Weight planes -/

/-- Accepted format pairs (R42). -/
def pairFmt (plane act : Nat) : Bool :=
  decide ((plane = 4 ∨ plane = 5) ∧ (act = 4 ∨ act = 5)) || decide ((plane = 6 ∨ plane = 7) ∧ (act = 6 ∨ act = 7)) ||
  (decide (plane = act) && (plane == 8 || plane == 2 || plane == 3))

/-- Counted cycle in which a load writes cell row r (R44, R49). -/
def loadCycle (l : Load) (r : Nat) : Nat :=
  match l.pace with
  | .slow => l.issue + 1 + r
  | .quick => l.issue + 1 + r % 64
  | .atOnce => l.issue

/-- A load writes cell row r. -/
def writesRow (l : Load) (r : Nat) : Bool := l.rows.any (fun e => decide (e.1 = r)) && !l.skip.contains r

/-- The load of a list that wrote cell row r last; the first listed of one cycle (R48). -/
def lastWrite (r : Nat) : List Load → Option Load
  | [] => none
  | l :: ls =>
    match lastWrite r ls with
    | none => if writesRow l r then some l else none
    | some m => if writesRow l r ∧ loadCycle m r ≤ loadCycle l r then some l else some m

/-- Cell row r as a product of cycle cyc reads it: the latest write before that cycle (R48; DEDUCED, log 16). -/
def planeRow (pl : Plane) (r cyc : Nat) : WRow :=
  match lastWrite r (pl.loads.filter (fun l => decide (loadCycle l r < cyc))) with
  | some l => tget l.rows {} r
  | none => tget pl.base {} r

/-- Plane 0 or 1 of an array. -/
def planeOf (a : Arr) (p : Nat) : Plane := if p = 0 then a.plane0 else a.plane1
def putPlane (a : Arr) (p : Nat) (x : Plane) : Arr := if p = 0 then { a with plane0 := x } else { a with plane1 := x }

/-- The plane active in counted cycle c (R47). -/
def activeAt (a : Arr) (c : Nat) : Nat := if c < a.swapAt then a.wasActive else a.active
/-- The shape in counted cycle c (R58). -/
def wideAt (a : Arr) (c : Nat) : Bool := if c < a.shapeAt then a.wasWide else a.wide

/-- Loads whose rows have all landed before any product still to be formed join the base (R48). -/
def mergeLoads (pl : Plane) (c : Nat) : Plane :=
  let old := pl.loads.filter (fun l => decide (l.issue + 600 < c))
  { pl with
    loads := pl.loads.filter (fun l => !decide (l.issue + 600 < c))
    base := old.foldr (fun l b =>
      l.rows.foldl (fun b e => if lastWrite e.1 old = some l then tset b {} e.1 e.2 else b) b) pl.base }

/-! ### The load path (R43 to R46, R60) -/

/-- A 16-bit weight format takes two stored tiles per row group (R43). -/
def twoHalves (f : Nat) : Bool := decide (f = 2 ∨ f = 3)

/-- Offset of a stored tile within the block. -/
def partOffset (f part half : Nat) (isScale : Bool) : Nat :=
  if isScale then 4 * 16384 else if twoHalves f then (2 * part + half) * 16384 else part * 16384

/-- Cell row r of the block at store offset base of stope st (R39, R43, R44; DEDUCED, log 10). -/
def blockRow (s : State) (st base f r : Nat) : WRow :=
  let at' := fun o => storeAddr st (base + o)
  let bits' :=
    if twoHalves f then
      packElems 16 256 (fun j => readNat s (at' (partOffset f (r / 64) (j / 128) false + r % 64 * 256 + j % 128 * 2)) 2)
    else packElems 16 256 (fun j => (byteAt s (at' (partOffset f (r / 64) 0 false + r % 64 * 256 + j))).toNat)
  let block := if f = 8 then r / 16 else r / 32
  let scale := if isMx f then packElems 8 256 (fun j => (byteAt s (at' (partOffset f 0 0 true + 256 * block + j))).toNat) else 0
  { bits := BitVec.ofNat 4096 bits', scale := BitVec.ofNat 2048 scale, fmt := f }

/-- The cell rows that cycle k of a load reads: one, or row k of each quarter (R44, R60; DEDUCED, log 10). -/
def cycleRows (pace : Pace) (k : Nat) : List Nat := match pace with | .slow => [k] | _ => [k, 64 + k, 128 + k, 192 + k]

/-- Cycles that a load reads for. -/
def readCycles (pace : Pace) : Nat := match pace with | .slow => 256 | _ => 64

/-- A load gains rows. -/
def growLoad (pl : Plane) (issue : Nat) (rows : List (Nat × WRow)) : Plane :=
  { pl with loads := pl.loads.map (fun l =>
      if l.issue = issue ∧ l.pace ≠ .atOnce then { l with rows := rows.foldl (fun t e => tset t {} e.1 e.2) l.rows } else l) }

/-- Cycle `next` of the load in progress: its rows are read from the store (R46). -/
def loadCycleOf (s : State) (st : Nat) (w : WldRun) : State :=
  let rows := (cycleRows w.pace w.next).map (fun r => (r, blockRow s st w.base w.fmt r))
  modStope s st (fun x =>
    let x := modArr x 0 (fun r => putPlane r w.plane0 (growLoad (planeOf r w.plane0) w.issue rows))
    let x := modArr x 1 (fun r => putPlane r w.plane1 (growLoad (planeOf r w.plane1) w.issue rows))
    { x with wld := if w.next + 1 < readCycles w.pace then some { w with next := w.next + 1 } else none })

/-! ### Products and sums -/

/-- The number in cell (row, n), nibble nib for MXFP4 (R39, R59); a row that no WLD wrote holds 0 (R66). -/
def wVal (row : WRow) (n nib : Nat) : FpVal :=
  match fmtLayout row.fmt with
  | none => .fin false 0 0
  | some f =>
    let raw := bits row.bits.toNat (16 * n) 16
    let v := fpDecode f (if row.fmt = 8 then bits raw (4 * nib) 4 else bits raw 0 (fmtBits row.fmt))
    if isMx row.fmt then
      let e := bits row.scale.toNat (8 * n) 8
      if e = 0xFF then .nan else fpScale v ((e : Int) - 127)
    else v

/-- Element k of an activation row (R51, R76). -/
def xVal (fmt x sc k : Nat) : FpVal :=
  let v := fpDecode ((fmtLayout fmt).getD fE2m1) (bits x (k * fmtBits fmt) (fmtBits fmt))
  if isMx fmt then
    let e := bits sc (8 * (k / 32)) 8
    if e = 0xFF then .nan else fpScale v ((e : Int) - 127)
  else v

/-- 32-bit words side by side, word 0 lowest. -/
def packWords (xs : List Word32) : Nat := xs.foldr (fun x n => n * 2 ^ 32 + x.toNat) 0

/-- The column sums of a forward row over cell rows base to base + count - 1, none when a bit of a non-pairing
format enters a product (R40, R48, R52, R59). -/
def forwardSums (pl : Plane) (f : Flight) (base count : Nat) : Option (List Word32) :=
  let rows := (List.range count).map (fun i => planeRow pl (base + i) (f.entry + 2))
  if rows.all (fun r => decide (r.fmt = 0) || pairFmt r.fmt f.fmt) then
    let x := f.x.toNat
    let sc := f.scale.toNat
    let irows := (List.range count).zip rows
    some ((List.range 256).map (fun n =>
      to32 (fpSum (irows.flatMap (fun e =>
        if f.fmt = 8 then [fpMul (xVal 8 x sc (2 * e.1)) (wVal e.2 n 0), fpMul (xVal 8 x sc (2 * e.1 + 1)) (wVal e.2 n 1)]
        else [fpMul (xVal f.fmt x sc e.1) (wVal e.2 n 0)])))))
  else none

/-- The row sums of a column-read row: column n's products are formed at entry + 2 + n (R54). -/
def columnSums (pl : Plane) (f : Flight) : Option (List Word32) :=
  let x := f.x.toNat
  let sc := f.scale.toNat
  let cells := fun i => (List.range 256).map (fun n => (n, planeRow pl i (f.entry + 2 + n)))
  if (List.range 256).all (fun i => (cells i).all (fun c => decide (c.2.fmt = 0) || pairFmt c.2.fmt f.fmt)) then
    some ((List.range 256).map (fun i =>
      to32 (fpSum ((cells i).map (fun c => fpMul (xVal f.fmt x sc c.1) (wVal c.2 c.1 0))))))
  else none

/-- An accumulator row after a row of sums (R40). -/
def accumulate (accum : Bool) (old : BitVec 8192) (ys : List Word32) : BitVec 8192 :=
  let o := old.toNat
  BitVec.ofNat 8192 (packWords (((List.range 256).zip ys).map (fun e =>
    if accum then add32 (BitVec.ofNat 32 (bits o (32 * e.1) 32)) e.2 else e.2)))

/-- 256 free values: the entries of a row that R48 leaves unspecified (DEDUCED, log 16). -/
def freeRow (s : State) : BitVec 8192 :=
  BitVec.ofNat 8192 (packWords ((List.range 256).map (fun j => BitVec.ofNat 32 (freeAt s j))))

/-- A row of an accumulator memory takes a value in counted cycle c; what stood there before the cycle is kept (R65). -/
def setAccRow (r : Arr) (row c : Nat) (v : BitVec 8192) : Arr :=
  let was := if r.accAt = c + 1 then r.accWas else []
  { r with
    acc := tset r.acc 0 row v, accAt := c + 1
    accWas := if (tget was none row).isSome then was else tset was none row (some (accRow r row)) }

/-- An accumulator row as a read of counted cycle c through a port finds it: before any write of the same cycle (R65). -/
def accBefore (r : Arr) (row c : Nat) : BitVec 8192 :=
  if r.accAt = c + 1 then (tget r.accWas none row).getD (accRow r row) else accRow r row

/-- Write an accumulator row. -/
def putAcc (s : State) (st a row c : Nat) (v : BitVec 8192) : State :=
  modStope s st (fun x => modArr x a (fun r => setAccRow r row c v))

/-- One accumulator row of a flight lands: its sums, or free values where they are unspecified (DEDUCED, log 16). -/
def landSums (s : State) (st a row c : Nat) (accum : Bool) (ys : Option (List Word32)) : State :=
  match ys with
  | some ys => putAcc s st a row c (accumulate accum (accRow (arrOf (stopeOf s st) a) row) ys)
  | none => putAcc (useFree s 256) st a row c (freeRow s)

/-- A stream row writes its accumulator row or rows (R52, R54, R61). -/
def landFlight (s : State) (st a : Nat) (f : Flight) : State :=
  let pl := planeOf (arrOf (stopeOf s st) a) f.plane
  if f.column then landSums s st a f.row f.ready f.accum (columnSums pl f)
  else if f.wide then
    (List.range 4).foldl (fun s q => landSums s st a (f.row + q) f.ready f.accum (forwardSums pl f (64 * q) 64)) s
  else landSums s st a f.row f.ready f.accum (forwardSums pl f 0 256)

/-! ### Feeds -/

/-- Pitch of a stream (R52). -/
def pitchOf (fmt : Nat) : Nat := if fmt = 2 ∨ fmt = 3 then 2 else 1

/-- Latency from entry to the accumulator row (R52, R54, R61). -/
def rowLatency (column wide : Bool) : Nat := if column then 262 else if wide then 5 else 6

/-- A tile register whose rows are about to be written in counted cycle c: what the cycle has kept so far (R52). -/
def openRow (t : Tile) (c : Nat) : Tile :=
  if t.wasAt = c + 1 then t else { t with wasAt := c + 1, was := [], wasScale := [], crewBits := [], crewScale := [] }

/-- Row r of a tile register takes a payload, or scale bytes, in counted cycle c; what stood there before the cycle is kept. -/
def setRow (t : Tile) (r c : Nat) (v : BitVec 2048) : Tile :=
  let t := openRow t c
  { t with
    data := tset t.data 0 r v
    was := if (tget t.was none r).isSome then t.was else tset t.was none r (some (tget t.data 0 r)) }
def setScale (t : Tile) (r c : Nat) (v : BitVec 128) : Tile :=
  let t := openRow t c
  { t with
    scale := tset t.scale 0 r v
    wasScale := if (tget t.wasScale none r).isSome then t.wasScale else tset t.wasScale none r (some (tget t.scale 0 r)) }

/-- Row r of a tile register as a feed takes it in counted cycle c: before any write of the same cycle (R52). -/
def feedRow (x : Stope) (cr t r c : Nat) (zero : Bool) : Nat × Nat :=
  let tl := tileOf (agentOf x cr) t
  if zero then (0, 0)
  else if tl.wasAt = c + 1 then
    (((tget tl.was none r).getD (tget tl.data 0 r)).toNat, ((tget tl.wasScale none r).getD (tget tl.scale 0 r)).toNat)
  else ((tget tl.data 0 r).toNat, (tget tl.scale 0 r).toNat)

/-- Row `next` of a stream enters the feed (R52). -/
def enterRow (x : Stope) (a : Nat) (g : Stream) (monitored : Bool) : Stope :=
  let r := arrOf x a
  let e := g.issue + g.next * g.pitch
  let two : Bool := decide (g.pitch = 2) && !g.wide
  let lo := feedRow x g.crew g.tile g.next e g.zeroA
  let hi := if two then feedRow x g.crew ((g.tile + 1) % 8) g.next e g.zeroB else (0, 0)
  let f : Flight :=
    { column := g.column, wide := g.wide, accum := g.accum, row := g.base + (if g.wide then 4 * g.next else g.next),
      entry := e, ready := e + rowLatency g.column g.wide, fmt := g.fmt, plane := activeAt r e, crew := g.crew
      x := BitVec.ofNat 4096 (lo.1 + hi.1 * 2 ^ 2048), scale := BitVec.ofNat 128 lo.2 }
  putArr x a { r with
    streams := (r.streams.filter (fun h => decide (h ≠ g))) ++ (if g.next + 1 < g.rows then [{ g with next := g.next + 1 }] else [])
    flights := r.flights ++ [f]
    rowsIn := if monitored then r.rowsIn + 1 else r.rowsIn, rowAt := e + 1 }

/-! ### Registers of a crew -/

def sReg (c : Crew) (i : Nat) : Word64 := tget c.s 0 i
def vReg (c : Crew) (i : Nat) : BitVec 4096 := tget c.v 0 i
def pReg (c : Crew) (i : Nat) : BitVec 256 := tget c.p 0 i
def lcReg (c : Crew) (i : Nat) : Word32 := tget c.lc 0 i
def genOf (c : Crew) (l : Nat) : BitVec 16 := tget c.gens 1 l

/-- Bits of val under mask go to a destination in counted cycle n. -/
def putReg (c : Crew) (n : Nat) (d : Dest) (val mask : Nat) : Crew :=
  match d with
  | .s i => { c with s := tset c.s 0 i (BitVec.ofNat 64 (blend (sReg c i).toNat val mask)) }
  | .v i => { c with v := tset c.v 0 i (BitVec.ofNat 4096 (blend (vReg c i).toNat val mask)) }
  | .p i => { c with p := tset c.p 0 i (BitVec.ofNat 256 (blend (pReg c i).toNat val mask)) }
  | .lc i => { c with lc := tset c.lc 0 i (BitVec.ofNat 32 (blend (lcReg c i).toNat val mask)) }
  | .tile t r => modTile c t (fun x =>
      let y := setRow x r n (BitVec.ofNat 2048 (blend (tget x.data 0 r).toNat val mask))
      { y with inUse := true, crewBits := tset y.crewBits 0 r (tget y.crewBits 0 r ||| BitVec.ofNat 2048 mask) })
  | .scale t r => modTile c t (fun x =>
      let y := setScale x r n (BitVec.ofNat 128 (blend (tget x.scale 0 r).toNat val mask))
      { y with inUse := true, crewScale := tset y.crewScale 0 r (tget y.crewScale 0 r ||| BitVec.ofNat 128 mask) })

/-- The generators of crew cr of logical stope st seeded with key K (R82). -/
def seedGens (st cr key : Nat) : Tab (BitVec 16) :=
  (List.range 32).foldl (fun t l => tset t 1 l (srSeed key st cr l)) []

/-! ### Crew elements that CRRD and CRWR name (R129) -/

/-- A 64-bit element of a crew. -/
inductive Elem where
  | s (i : Nat) | v (i dw : Nat) | p (i dw : Nat) | lc (i : Nat) | pc
  | loop (i : Nat) (remaining : Bool)
  deriving DecidableEq, Repr

/-- The element that a SYS value names, none for a reserved value (R129). -/
def elemOf (sys : Nat) : Option Elem :=
  let n := sys % 4096
  match sys / 4096 with
  | 0 => if n < 32 then some (.s n) else none
  | 1 => if n < 2048 then some (.v (n % 32) (n / 32)) else none
  | 2 => if n < 32 then some (.p (n % 8) (n / 8)) else none
  | 3 => if n < 4 then some (.lc n) else none
  | 4 => if n = 0 then some .pc else none
  | 5 => if n < 8 then some (.loop (n % 4) (bit n 2)) else none
  | _ => none

/-- Numeric state codes (R124). -/
def stateCode (k : CrewState) : Nat :=
  match k with
  | .idle => 0 | .running => 1 | .waiting => 2 | .fenced => 3 | .stopped => 4 | .faulted => 5

/-- The state as it reads at device cycle t: a CRSTOP shows from its issue + 4 on (R128). -/
def shownState (c : Crew) (t : Nat) : CrewState := if c.state = .stopped ∧ t < c.stopAt then c.wasState else c.state

/-- The i-th active loop from the outermost (R118). -/
def loopAt (c : Crew) (i : Nat) : Option Loop := c.loops.reverse[i]?

/-- An element's value; a loop-stack entry that is not active reads 0 (R129; DESIGN CHOICE, log 12). -/
def readElem (c : Crew) (t : Nat) (e : Elem) : Nat :=
  match e with
  | .s i => (sReg c i).toNat
  | .v i dw => bits (vReg c i).toNat (64 * dw) 64
  | .p i dw => bits (pReg c i).toNat (64 * dw) 64
  | .lc i => (lcReg c i).toNat
  | .pc => c.pc + stateCode (shownState c t) * 2 ^ 16
  | .loop i rem =>
    match loopAt c i with
    | none => 0
    | some l => if rem then l.remaining else l.start + l.stop * 2 ^ 16 + l.index * 2 ^ 32

/-- The register that holds an element, the element's first bit and its mask; none for the PC and the loop stack. -/
def elemDest (e : Elem) : Option (Dest × Nat × Nat) :=
  match e with
  | .s i => some (.s i, 0, ones 64)
  | .v i dw => some (.v i, 64 * dw, ones 64 <<< (64 * dw))
  | .p i dw => some (.p i, 64 * dw, ones 64 <<< (64 * dw))
  | .lc i => some (.lc i, 0, ones 32)
  | _ => none

/-- An element takes a value: the state code is read-only, a loop entry must be active (R129; DEDUCED, log 12). -/
def writeElem (c : Crew) (e : Elem) (v : Nat) : Crew :=
  match elemDest e with
  | some (d, lo, mask) => putReg c 0 d (v <<< lo) mask
  | none =>
  match e with
  | .pc => { c with pc := v % 2 ^ 15, ranOff := false, wasState := .stopped }
  | .loop i rem =>
    { c with loops := (c.loops.reverse.mapIdx (fun k l =>
        if k = i then
          (if rem then { l with remaining := v % 2 ^ 32 }
           else { l with start := bits v 0 15, stop := bits v 16 15, index := bits v 32 32 })
        else l)).reverse }
  | _ => c

/-- A write in flight lands in counted cycle n. -/
def landEff (s : State) (st ag n : Nat) (e : Eff) : State :=
  match e with
  | .reg d val mask => modCrew s st ag (fun c => putReg c n d val mask)
  | .stats t amax sat und nan =>
    modStope s st (fun x =>
      let x := { x with cvtSat := satAdd 32 x.cvtSat sat, cvtUnder := satAdd 32 x.cvtUnder und, cvtNan := satAdd 32 x.cvtNan nan }
      modAgent x ag (fun c => modTile c t (fun y =>
        { y with pending := true, amax := max y.amax amax, sat := satAdd 32 y.sat sat, und := satAdd 32 y.und und,
                 nan := satAdd 32 y.nan nan })))
  | .counts sat und nan =>
    modStope s st (fun x =>
      { x with cvtSat := satAdd 32 x.cvtSat sat, cvtUnder := satAdd 32 x.cvtUnder und, cvtNan := satAdd 32 x.cvtNan nan })
  | .store cells => writeCells s cells
  | .acc a row val => putAcc s st a row n (BitVec.ofNat 8192 val)
  | .clear a row k => (List.range k).foldl (fun s i => putAcc s st a (row + i) n 0) s
  | .seed key => modCrew s st ag (fun c => { c with gens := seedGens st ag key })
  | .elem cr sys val =>
    match elemOf sys with
    | some e => modCrew s st cr (fun c => writeElem c e val)
    | none => s
  | .claim win c => modStope s st (fun x => { x with claims := tset x.claims {} win c })

/-! ### Settling -/

/-- What can land next in a stope. -/
inductive Due where
  | entry (a : Nat) (g : Stream)
  | flight (a : Nat) (f : Flight)
  | write (ag : Nat) (p : Pend)
  | load (w : WldRun)
  deriving DecidableEq, Repr

/-- Order of what falls in one counted cycle: a feed takes its row before the cycle's writes (R52), the array write lands
before the crew writes (R65), a WLD reads the store after them (R100). What a cycle's writes replace is kept for the readers of
the same cycle that must not see them. The overman's writes are due by the device clock (DEDUCED, log 10; DESIGN CHOICE,
log 39). -/
def dueList (x : Stope) (now : Nat) : List (Nat × Due) :=
  (List.range 2).flatMap (fun a =>
    (arrOf x a).streams.map (fun g => (3 * (g.issue + g.next * g.pitch), Due.entry a g)) ++
    (arrOf x a).flights.map (fun f => (3 * f.ready + 1, Due.flight a f))) ++
  x.agents.flatMap (fun e =>
    if e.1 = 16 then
      (e.2.pend.filter (fun p => decide (p.ready ≤ now))).map (fun p => (3 * cnt x.clk p.ready + 2, Due.write 16 p))
    else e.2.pend.map (fun p => (3 * p.ready + 2, Due.write e.1 p))) ++
  (match x.wld with | some w => [(3 * (w.issue + w.next) + 2, Due.load w)] | none => [])

/-- The earliest item; the first listed among equals. -/
def firstDue : List (Nat × Due) → Option (Nat × Due)
  | [] => none
  | e :: es =>
    match firstDue es with
    | none => some e
    | some f => if f.1 < e.1 then some f else some e

/-- The first element equal to p removed. -/
def dropPend (p : Pend) : List Pend → List Pend
  | [] => []
  | q :: qs => if q = p then qs else q :: dropPend p qs

/-- One item lands. -/
def landOne (s : State) (st : Nat) (d : Due) : State :=
  match d with
  | .entry a g => putStope s st (enterRow (stopeOf s st) a g (!monitorOff s (stopeLevel st)))
  | .flight a f =>
    landFlight (modStope s st (fun x => modArr x a (fun r => { r with flights := r.flights.filter (fun h => decide (h ≠ f)) }))) st a f
  | .load w => loadCycleOf s st w
  | .write ag p => landEff (modCrew s st ag (fun c => { c with pend := dropPend p c.pend })) st ag p.ready p.eff

/-- Everything of stope st whose key is at most `bound` lands, in order. -/
def settleTo (s : State) (st bound : Nat) : Nat → State
  | 0 => s
  | n + 1 =>
    match firstDue (dueList (stopeOf s st) s.now) with
    | none => s
    | some (k, d) => if k ≤ bound then settleTo (landOne s st d) st bound n else s

/-- How many items can still land. -/
def dueCount (x : Stope) : Nat :=
  (List.range 2).foldl (fun n a =>
    n + (arrOf x a).flights.length + (arrOf x a).streams.foldl (fun m g => m + 2 * (g.rows - g.next)) 0)
    (x.agents.foldl (fun n e => n + e.2.pend.length) (match x.wld with | some w => readCycles w.pace - w.next | none => 0))

/-- Cycles of [a, b) in which the active plane of an array is valid (R47, R70). -/
def validCycles (r : Arr) (a b : Nat) : Nat :=
  let m := max a (min b r.swapAt)
  (if (planeOf r r.wasActive).valid then m - a else 0) + (if (planeOf r r.active).valid then b - m else 0)

/-- Activation-wait cycles of an array before counted cycle c: those in which no row entered (R70; DESIGN CHOICE, log 39). -/
def countAct (old new : Arr) (c : Nat) (monitored : Bool) : Arr :=
  if c ≤ old.mark then new
  else
    let rows := new.rowsIn + b2n (decide (old.rowAt = old.mark + 1)) - old.rowsIn - b2n (decide (new.rowAt = c + 1))
    { new with stallAct := new.stallAct + (if monitored then validCycles new old.mark c - rows else 0), mark := c }

/-- The stope as it stands at counted cycle c, before the instructions of that cycle (DEDUCED, log 10; DESIGN CHOICE, log 39).
-/
def settleAt (s : State) (st c : Nat) : State :=
  let x := stopeOf s st
  let t := settleTo s st (3 * c + 2) (dueCount x)
  let m := !monitorOff s (stopeLevel st)
  modStope t st (fun y => { y with arr0 := countAct x.arr0 y.arr0 c m, arr1 := countAct x.arr1 y.arr1 c m })

/-- The stope at the present device cycle (DESIGN CHOICE, log 39). -/
def settle (s : State) (st : Nat) : State := settleAt s st (cnt (stopeOf s st).clk s.now)

/-- The stope at the present cycle but for the crew writes of this very cycle, which land on top of a TLD row of the same
cycle; in a cycle that the stope does not count there are none (R67, R140; DEDUCED, log 10). -/
def settleBefore (s : State) (st : Nat) : State :=
  let k := (stopeOf s st).clk
  if counts k s.now then settleTo s st (3 * cnt k s.now + 1) (dueCount (stopeOf s st)) else settle s st

/-- Every stope at the present cycle. -/
def settleAll (s : State) : State := s.stopes.foldl (fun t e => settle t e.1) s

end Sys2Proof.Machine
end

