-- ==== Sys2Proof/Machine/Operands.lean ====
section
/-! DEFINITION. The fields of a Crill word (R106, R429), which fields an instruction may set, predicated elements
(R104, R111), and the operand values read at issue. -/

namespace Sys2Proof.Machine

/-! ### Fields -/

def fOp (w : Word64) : Nat := bits w.toNat 0 7
def fPg (w : Word64) : Nat := bits w.toNat 7 4
def fPneg (w : Word64) : Bool := bit w.toNat 11
def fSub (w : Word64) : Nat := bits w.toNat 12 4
-- forms R, I, X
def fD (w : Word64) : Nat := bits w.toNat 16 5
def fA (w : Word64) : Nat := bits w.toNat 21 5
def fB (w : Word64) : Nat := bits w.toNat 26 5
def fC (w : Word64) : Nat := bits w.toNat 31 5
def fFmt (w : Word64) : Nat := bits w.toNat 36 5
def fRm (w : Word64) : Nat := bits w.toNat 41 2
def fImm (w : Word64) : Nat := bits w.toNat 26 32
def fSys (w : Word64) : Nat := bits w.toNat 31 16
-- form T
def tT (w : Word64) : Nat := bits w.toNat 16 3
def tA (w : Word64) : Nat := bits w.toNat 19 5
def tB (w : Word64) : Nat := bits w.toNat 24 5
def tC (w : Word64) : Nat := bits w.toNat 29 5
def tQ (w : Word64) : Nat := bits w.toNat 34 6
def tRow (w : Word64) : Nat := bits w.toNat 40 6
def tRm (w : Word64) : Nat := bits w.toNat 46 2
def tRec (w : Word64) : Bool := bit w.toNat 48
def tRs (w : Word64) : Bool := bit w.toNat 49
-- form M
def mTgt (w : Word64) : Nat := bits w.toNat 16 2
def mTa (w : Word64) : Nat := bits w.toNat 18 3
def mTb (w : Word64) : Nat := bits w.toNat 21 3
def mAcc (w : Word64) : Nat := bits w.toNat 24 11
def mMode (w : Word64) : Bool := bit w.toNat 35
def mSa (w : Word64) : Nat := bits w.toNat 36 5
def mFmt (w : Word64) : Nat := bits w.toNat 41 5
def mShp (w : Word64) : Bool := bit w.toNat 46
def mVr (w : Word64) : Nat := bits w.toNat 47 5
def mRs (w : Word64) : Bool := bit w.toNat 52
def mN (w : Word64) : Nat := bits w.toNat 53 11
-- form B
def bLvl (w : Word64) : Nat := bits w.toNat 16 2
def bCond (w : Word64) : Nat := bits w.toNat 31 3
def bTgt (w : Word64) : Nat := bits w.toNat 34 15
-- form Y
def ySc (w : Word64) : Nat := bits w.toNat 16 2
def yNum (w : Word64) : Nat := bits w.toNat 18 10
def yA (w : Word64) : Nat := bits w.toNat 28 5
def yNi (w : Word64) : Nat := bits w.toNat 33 16
def yNs (w : Word64) : Bool := bit w.toNat 49

/-- Places of the fields in [63:16], as (lowest bit, length). -/
def pD : Nat × Nat := (16, 5)
def pA : Nat × Nat := (21, 5)
def pB : Nat × Nat := (26, 5)
def pC : Nat × Nat := (31, 5)
def pFmt : Nat × Nat := (36, 5)
def pRm : Nat × Nat := (41, 2)
def pImm : Nat × Nat := (26, 32)
def pSys : Nat × Nat := (31, 16)
def pSub : Nat × Nat := (12, 4)
def pPred : Nat × Nat := (7, 5)
def pT : Nat × Nat := (16, 3)
def pTA : Nat × Nat := (19, 5)
def pTB : Nat × Nat := (24, 5)
def pTC : Nat × Nat := (29, 5)
def pQ : Nat × Nat := (34, 6)
def pRow : Nat × Nat := (40, 6)
def pTRm : Nat × Nat := (46, 2)
def pRec : Nat × Nat := (48, 1)
def pRs : Nat × Nat := (49, 1)
def pTgt2 : Nat × Nat := (16, 2)
def pTaTb : Nat × Nat := (18, 6)
def pAcc : Nat × Nat := (24, 11)
def pMode : Nat × Nat := (35, 1)
def pSa : Nat × Nat := (36, 5)
def pMFmt : Nat × Nat := (41, 5)
def pShp : Nat × Nat := (46, 1)
def pVr : Nat × Nat := (47, 5)
def pMRs : Nat × Nat := (52, 1)
def pN : Nat × Nat := (53, 11)
def pLvl : Nat × Nat := (16, 2)
def pCond : Nat × Nat := (31, 3)
def pTgt : Nat × Nat := (34, 15)
def pSc : Nat × Nat := (16, 2)
def pNum : Nat × Nat := (18, 10)
def pYA : Nat × Nat := (28, 5)
def pNi : Nat × Nat := (33, 16)
def pNs : Nat × Nat := (49, 1)

/-- Only the opcode and the listed fields may be non-zero: every other bit is reserved (R106; DEDUCED, log 11). -/
def onlyFields (w : Word64) (fs : List (Nat × Nat)) : Bool :=
  let mask := fs.foldl (fun m f => m ||| (ones f.2 <<< f.1)) 0x7F
  decide (w.toNat &&& mask = w.toNat)

/-- The predicate field names no reserved value (R106, R107; DEDUCED, log 11). -/
def predOk (w : Word64) : Bool := (decide (fPg w = 0) && !fPneg w) || decide (8 ≤ fPg w)

/-! ### Predicated elements -/

/-- Bit k of the instruction's governing predicate, complemented by PNEG; every bit when unpredicated (R106, R111). -/
def enabled (c : Crew) (w : Word64) (k : Nat) : Bool :=
  if fPg w = 0 then true else bit (pReg c (fPg w % 8)).toNat k != fPneg w

/-- 32-bit element e is enabled: its bit is 8l + 2j with lane l = e div 4 and j = e mod 4 (R104). -/
def en32 (c : Crew) (w : Word64) (e : Nat) : Bool := enabled c w (8 * (e / 4) + 2 * (e % 4))
/-- 16-bit element e is enabled: its bit is 8l + j with lane l = e div 8 and j = e mod 8 (R104). -/
def en16 (c : Crew) (w : Word64) (e : Nat) : Bool := enabled c w (8 * (e / 8) + e % 8)

/-- Element e of a vector register. -/
def elem32 (v : BitVec 4096) (e : Nat) : Word32 := BitVec.ofNat 32 (elem 32 v.toNat e)

/-- A vector write of 32-bit elements under the predicate. -/
def writeV32 (c : Crew) (w : Word64) (d : Nat) (f : Nat → Nat) : Eff :=
  .reg (.v d) (packElems 32 128 f) (maskElems 32 128 (en32 c w))
/-- A vector write of 16-bit elements under the predicate. -/
def writeV16 (c : Crew) (w : Word64) (d : Nat) (f : Nat → Nat) : Eff :=
  .reg (.v d) (packElems 16 256 f) (maskElems 16 256 (en16 c w))
/-- A scalar write. -/
def writeS (d : Nat) (v : Word64) : Eff := .reg (.s d) v.toNat (ones 64)

/-! ### Addresses and rows -/

/-- Store offset Sa + IMM (R107, R113). -/
def storeOff (c : Crew) (w : Word64) : Nat := (sReg c (fA w) + sext32 (fImm w)).toNat

/-- Tile row ROW + Sc[5:0] with RS (R106). -/
def tileRow (c : Crew) (w : Word64) : Nat := tRow w + (if tRs w then bits (sReg c (tC w)).toNat 0 6 else 0)

/-- Accumulator row ACC + Sa[10:0] with RS (R106). -/
def accRowOf (c : Crew) (w : Word64) : Nat := mAcc w + (if mRs w then bits (sReg c (mSa w)).toNat 0 11 else 0)

/-- Count n of a tally instruction (R106, R170). -/
def tallyN (c : Crew) (w : Word64) : Nat := if yNs w then bits (sReg c (yA w)).toNat 0 32 else yNi w

/-- The scope that SC names. -/
def scopeOf (sc : Nat) : Scope := if sc = 0 then .stope else if sc = 1 then .level else .device

/-- The unit of a scope that an agent of logical stope st names (R168). -/
def scopeUnit (sc : Scope) (st : Nat) : Nat :=
  match sc with | .stope => st | .level => stopeLevel st | .device => 0

/-- A legal tally name: SC 0 to 2 and NUM within the scope (R107). -/
def tallyOk (w : Word64) : Bool :=
  (decide (ySc w = 0) && decide (yNum w < 64)) || (decide (ySc w = 1) && decide (yNum w < 256)) || decide (ySc w = 2)

/-- Store banks [lo, lo + n) interleaved at 64 B (R113), as a bit set. -/
def bankSet (off n : Nat) : Nat := (List.range ((n + 63) / 64)).foldl (fun m i => m ||| 2 ^ ((off / 64 + i) % 32)) 0

end Sys2Proof.Machine
end

