-- ==== Sys2Proof/Machine/Flags.lean ====
section
/-! DEFINITION. Conditions and predicate results: branch conditions (R107), vector compares (R107, R111), predicate
logic (R107), conversion classes (R79). -/

namespace Sys2Proof.Machine

/-- COND of BR for Sa and Sb (R107). -/
def condHolds (cond : Nat) (a b : Word64) : Bool :=
  match cond with
  | 0 => true
  | 1 => decide (a = 0)
  | 2 => decide (a ≠ 0)
  | 3 => decide (a.toInt < b.toInt)
  | 4 => decide (b.toInt ≤ a.toInt)
  | 5 => decide (a.toNat < b.toNat)
  | _ => decide (b.toNat ≤ a.toNat)

/-- Floating compares of VCMP (R107). -/
def fpCompare (sub : Nat) (a b : FpVal) : Bool :=
  let unord := fpIsNan a || fpIsNan b
  match sub with
  | 0 => fpEq a b
  | 1 => !fpEq a b
  | 2 => fpLt a b
  | 3 => fpLt a b || fpEq a b
  | 4 => fpLt b a
  | 5 => fpLt b a || fpEq a b
  | _ => unord

/-- Integer compares of VCMP: signed two's complement, UNORD false (R107). -/
def intCompare (sub : Nat) (a b : Word32) : Bool :=
  match sub with
  | 0 => decide (a = b)
  | 1 => decide (a ≠ b)
  | 2 => decide (a.toInt < b.toInt)
  | 3 => decide (a.toInt ≤ b.toInt)
  | 4 => decide (b.toInt < a.toInt)
  | 5 => decide (b.toInt ≤ a.toInt)
  | _ => false

/-- PLOGIC's function of two bits (R107). -/
def predLogic (sub : Nat) (a b : Bool) : Bool :=
  match sub with
  | 0 => a && b
  | 1 => a || b
  | 2 => a != b
  | 3 => a && !b
  | 4 => !a
  | 5 => true
  | _ => false

/-- How many of a conversion's elements fall in a class (R79). -/
def countClass (k : CvtClass) (ks : List CvtClass) : Nat := (ks.filter (fun c => decide (c = k))).length

end Sys2Proof.Machine
end

