-- ==== Sys2Proof/Machine/Issue.lean ====
section
/-! DEFINITION. Issue of a Crill word by a crew or an overman: when it issues (R99, R125, R126, R45, R46, R56, R64,
R114), taking a synchronous fault (R130 to R132) and going on to the next word (R117 to R120). -/

namespace Sys2Proof.Machine

/-! ### Fault codes (R348) -/

def fcIllegalOp : Nat := 0x0101
def fcPrivOp : Nat := 0x0102
def fcLoopNest : Nat := 0x0103
def fcPcRange : Nat := 0x0104
def fcAddrHole : Nat := 0x0105
def fcMisaligned : Nat := 0x0106
def fcShapeFault : Nat := 0x0107
def fcArrayFormat : Nat := 0x0108
def fcArrayMode : Nat := 0x0109
def fcArrayRange : Nat := 0x010A
def fcStoreUncorr : Nat := 0x020C
def fcMemUncorr : Nat := 0x0302

/-- Opcodes that the opcode map lists (R107; DESIGN CHOICE, log 8). -/
def opListed (op : Nat) : Bool :=
  decide (op ≤ 0x0E) || decide (0x10 ≤ op ∧ op ≤ 0x1B) || decide (0x20 ≤ op ∧ op ≤ 0x29) ||
  decide (0x30 ≤ op ∧ op ≤ 0x38) || decide (0x40 ≤ op ∧ op ≤ 0x47) || decide (0x50 ≤ op ∧ op ≤ 0x53) ||
  decide (0x60 ≤ op ∧ op ≤ 0x6C)

/-! ### Stall figures, holds and sleep (R67, R70, R180, R342) -/

/-- n cycles of a stall counter: none while the level's monitor block is off (R342; DEDUCED, log 48). -/
def stallOf (s : State) (st n : Nat) : Nat := if monitorOff s (stopeLevel st) then 0 else n

/-- A crew leaves state waiting: its cycles of tally-wait are counted (R190). -/
def countWait (off : Bool) (now : Nat) (c : Crew) : Crew :=
  match c.state, c.wait with
  | .waiting, some w => { c with stallTally := c.stallTally + (if off then 0 else now - max w.issued w.since) }
  | _, _ => c

/-- A crew's hold at issue ends in counted cycle n: its cycles of tram-wait are counted (R100). -/
def countHeld (off : Bool) (n : Nat) (c : Crew) : Crew :=
  match c.tramSince with
  | some t => { c with stallTram := c.stallTram + (if off then 0 else n - max t c.tramCounted), tramSince := none }
  | none => c

/-- Hold cycles up to now: device cycles that the counted clock let pass, but for those of sleep (R67, R70; DESIGN CHOICE, log
39). -/
def holdCycles (s : State) (st : Nat) : Nat :=
  let x := stopeOf s st
  x.holdCyc + (if x.gated then 0 else stallOf s st ((s.now - x.holdSince) - (cnt x.clk s.now - x.holdCount)))

/-- The hold cycles up to now are put down. -/
def markHold (s : State) (st : Nat) : State :=
  modStope s st (fun x => { x with holdCyc := holdCycles s st, holdSince := s.now, holdCount := cnt x.clk s.now })

/-- The counted clock sets out again, or stands still while a check hold, sleep or a lasting hold stops it (R67, R127;
DEDUCED, log 50). -/
def restartClk (x : Stope) (now : Nat) : Stope :=
  { x with clk := { base := cnt x.clk now, start := now, div := x.clk.div
                    stopped := decide (x.hold ≠ []) || x.gated || x.halted } }

/-- A trace record whose AGENT byte the spec does not fix: a free value (R337; DESIGN CHOICE, log 13; DEDUCED, log 48). -/
def traceOpen (s : State) (st code tag epoch arg : Nat) : State :=
  traceRec (useFree s 1) st code tag epoch (freeAt s 0 % 128) arg

/-- The stope leaves sleep; `bell` is the scope of the bell line that ended it, if one did (R180, R181, R189; DESIGN CHOICE,
log 39; DEDUCED, log 50). -/
def ungate (s : State) (st : Nat) (bell : Option Scope) : State :=
  let x := stopeOf s st
  if x.gated then
    let x := restartClk { x with
      gated := false, awakeAt := s.now, lvlBell := decide (bell = some .level), devBell := decide (bell = some .device)
      bellWakes := satAdd 32 x.bellWakes (b2n bell.isSome), sleepCyc := x.sleepCyc + stallOf s st (s.now - x.gatedAt) } s.now
    let s := putStope s st { x with holdSince := s.now, holdCount := cnt x.clk s.now }
    traceOpen s st 0x0041 0 0 (match bell with | some .level => 1 | some .device => 2 | _ => 4)
  else s

/-- A crew of the stope is in state waiting. -/
def someWaits (x : Stope) : Bool := (List.range 16).any (fun ag => decide ((agentOf x ag).state = .waiting))

/-! ### Faults -/

/-- Store re-reads that met a cure count in FLT_MEM_RETRY (R346, R347, R370). -/
def storeRead (s : State) (e : Ecc) : State :=
  if e = .cured then { s with flt := { s.flt with storeCured := satAdd 16 s.flt.storeCured 1 } } else s

/-- A crew that a double fault stops (R132); a wait or a hold at issue that ends is counted (R190). -/
def haltCrew (off : Bool) (now n : Nat) (c : Crew) : Crew :=
  match c.state with
  | .running => { countHeld off n c with state := .stopped, wasState := .running }
  | .waiting => { countWait off now c with state := .stopped, wasState := .waiting }
  | .fenced => { c with state := .stopped, wasState := .fenced }
  | _ => c

/-- A fault of the overman's own instruction: event class 1, or a double fault while events are disabled (R131,
R132). -/
def ovmFault (s : State) (st code arg : Nat) : State :=
  let x := stopeOf s st
  let o := agentOf x 16
  if x.evOn then
    putStope s st (raiseIn x s.now { cls := 1, code := code, pc := o.pc, arg := arg, tag := o.tag, epoch := o.epoch })
  else
    let s := if someWaits x then ungate s st none else s
    let x := (List.range 16).foldl (fun x ag =>
      modAgent x ag (haltCrew (monitorOff s (stopeLevel st)) s.now (cnt x.clk s.now))) (stopeOf s st)
    putStope s st { putAgent (stirred x s.now) 16 { o with state := .stopped } with double := true }

/-- A synchronous fault of a crew (R130): the crew is faulted at its instruction and the overman gets a class 2
event. -/
def crewFault (s : State) (st ag code arg : Nat) : State :=
  let x := stopeOf s st
  let c := agentOf x ag
  let x := putAgent (stirred x s.now) ag
    { countHeld (monitorOff s (stopeLevel st)) (cnt x.clk s.now) c with
      state := .faulted, faultCode := code, faultPc := c.pc, ranOff := false }
  let s := putStope s st (raiseIn x s.now
    { cls := 2, crew := ag, code := code, pc := c.pc, arg := arg, tag := c.tag, epoch := c.epoch })
  traceRec s st 0x0010 c.tag c.epoch ag (code + c.pc * 2 ^ 16)

/-- Taking a synchronous fault of agent ag. -/
def takeFault (s : State) (st ag code arg : Nat) : State :=
  if ag = 16 then ovmFault s st code arg else crewFault s st ag code arg

/-- A fault for whose argument the spec names no value (R134): OVM_EARG takes a free value (DESIGN CHOICE, log 13). -/
def takeOpen (s : State) (st ag code : Nat) : State := takeFault (useFree s 1) st ag code (freeAt s 0)

/-! ### The next word -/

/-- Word index after pc, and whether it ran off the bank's end (R117). -/
def nextWord (c : Crew) : Crew := if c.pc = 32767 then { c with ranOff := true } else { c with pc := c.pc + 1 }

/-- The loops of `ls` whose end is the word `stop` that has just issued, innermost first (R119): the crew goes on at
a back edge or after the last loop that ends there. -/
def loopEnd (stop : Nat) : List Loop → (Option Nat) × List Loop
  | [] => (none, [])
  | l :: ls =>
    if l.stop = stop then
      if 1 < l.remaining then (some l.start, { l with remaining := l.remaining - 1, index := l.index + 1 } :: ls)
      else loopEnd stop ls
    else (none, l :: ls)

/-- The crew after the word `stop` has issued without a branch (R119; DESIGN CHOICE, log 8). -/
def passWord (c : Crew) (stop : Nat) : Crew :=
  match loopEnd stop c.loops with
  | (some start, ls) => { c with loops := ls, pc := start }
  | (none, ls) => nextWord { c with loops := ls, pc := stop }

/-- The loops that a taken branch to `target` leaves active (R120). -/
def popLoops (target : Nat) : List Loop → List Loop
  | [] => []
  | l :: ls => if l.start ≤ target ∧ target ≤ l.stop then l :: ls else popLoops target ls

/-- Where the agent goes after an instruction. -/
inductive Flow where
  /-- the next word under R119, issuing no earlier than n cycles later -/
  | seq (n : Nat)
  /-- a taken branch (R117, R120) -/
  | jump (target : Nat)
  /-- a LOOP of count zero, as though the body had run to `stop` (R118) -/
  | skip (stop : Nat)
  /-- the agent stays at the word: FENCE, TTAKE, TWATCH, EVWAIT's next word is seq -/
  | stay
  deriving DecidableEq, Repr

/-- What an issue does. -/
inductive IssueRes where
  /-- a synchronous fault with its argument -/
  | trap (code arg : Nat)
  /-- a synchronous fault whose argument the spec leaves open -/
  | trapOpen (code : Nat)
  /-- a fault after an effect of its own, as a wait that is counted, its argument left open (R56, R64, R128) -/
  | trapAfter (s : State) (code : Nat)
  /-- the same with the argument that the spec gives -/
  | trapWith (s : State) (code arg : Nat)
  /-- it issues: the state with its effects, and where the agent goes -/
  | done (s : State) (f : Flow)
  /-- the agent waits at issue for a queue or a tile register (R141, R152, R214) -/
  | held
  deriving DecidableEq, Repr

/-- The agent's control after an issue in cycle c (DESIGN CHOICE, log 8). -/
def flowCrew (x : Crew) (c : Nat) (f : Flow) : Crew :=
  match f with
  | .seq n => { passWord x x.pc with nextIssue := c + n }
  | .jump t => { x with pc := t, loops := popLoops t x.loops, nextIssue := c + 3 }
  | .skip stop => { passWord x stop with nextIssue := c + 3 }
  | .stay => { x with nextIssue := c + 1 }

/-! ### Writes in flight -/

/-- A later write to the same destination cancels the earlier one where it is enabled (R102). -/
def cancelUnder (d : Dest) (mask : Nat) (p : Pend) : Pend :=
  match p.eff with
  | .reg d' val m => if d' = d then { p with eff := .reg d val (m ^^^ (m &&& mask)) } else p
  | _ => p

/-- A later write to bytes of the store cancels an earlier one there (R102, R115). -/
def cancelBytes (cells : List Host.Cell) (p : Pend) : Pend :=
  match p.eff with
  | .store cs => { p with eff := .store (cs.filter (fun c => !cells.any (fun d => decide (d.1 = c.1)))) }
  | _ => p

/-- The other agents of the stope lose, of their writes in flight, the bytes that agent ag now writes (R115). -/
def overtake (x : Stope) (ag : Nat) (e : Eff) : Stope :=
  match e with
  | .store cells => { x with agents := x.agents.map (fun a =>
      if a.1 = ag then a else (a.1, { a.2 with pend := a.2.pend.map (cancelBytes cells) })) }
  | _ => x

/-- Release point contributions: writes to the store and to accumulator memory, not to an overman's data memory (R171). -/
def effReleases (e : Eff) : Bool :=
  match e with
  | .store cs => !cs.any (fun c => decide (ovmAddr 0 0 ≤ c.1))
  | .acc .. => true
  | .clear .. => true
  | _ => false

/-- One more write in flight of an agent. -/
def addWrite (c : Crew) (p : Pend) : Crew :=
  let c := match p.eff with
    | .reg d _ mask => { c with pend := c.pend.map (cancelUnder d mask) }
    | .store cells => { c with pend := c.pend.map (cancelBytes cells) }
    | _ => c
  { c with pend := c.pend ++ [p], relPoint := if effReleases p.eff then max c.relPoint p.ready else c.relPoint }

/-- The writes that an instruction issued in cycle c starts, each with its latency. -/
def startWrites (s : State) (st ag c : Nat) (es : List (Nat × Eff)) : State :=
  modCrew (modStope s st (fun x => es.foldl (fun x e => overtake x ag e.2) x)) st ag
    (fun k => es.foldl (fun k e => addWrite k { ready := c + e.1, eff := e.2 }) k)

/-! ### When it issues -/

/-- What an instruction needs of a cycle (R114, R115). -/
structure Need where
  sfu : Bool := false
  red : Bool := false
  cvt : Bool := false
  xfer : Bool := false
  banks : Nat := 0
  deriving DecidableEq, Repr

/-- Banks that a WLD occupies in counted cycle c (R46). -/
def wldBanksAt (x : Stope) (c : Nat) : Nat :=
  if x.wldStart ≤ c ∧ c < x.wldFree then
    (List.range x.wldBanks).foldl (fun m j => m ||| 2 ^ ((4 * (c - x.wldStart) + j) % 32)) 0
  else 0

/-- The place of a crew in a scan that began at crew `start` (R125). -/
def scanPlace (start ag : Nat) : Nat := (ag + 16 - start) % 16

/-- Counted cycle c has a slot, a unit and the banks left for a crew, and the cycle's scan has not passed the crew (R114, R115,
R125, R126; DESIGN CHOICE, log 6). -/
def slotFree (x : Stope) (ag : Nat) (n : Need) (c : Nat) : Bool :=
  decide (n.banks &&& wldBanksAt x c = 0) &&
  (decide (x.slotCycle ≠ c ∨ x.slotUsed = 0) ||
    (decide (x.slotUsed < 4) && decide (x.scanPast ≤ scanPlace x.scanFrom ag) && (!n.sfu || decide (x.slotSfu < 1)) && (!n.red || decide (x.slotRed < 1)) &&
      (!n.cvt || decide (x.slotCvt < 2)) && (!n.xfer || decide (x.slotXfer < 1)) &&
      decide (n.banks &&& x.slotBanks = 0)))

/-- The first cycle from c on, within `fuel`, that ok admits. -/
def firstFrom (ok : Nat → Bool) : Nat → Nat → Nat
  | 0, c => c
  | n + 1, c => if ok c then c else firstFrom ok n (c + 1)

/-- A running crew has been able to issue since counted cycle c or before. -/
def stillWaits (x : Stope) (c : Nat) : Bool :=
  x.agents.any (fun e => decide (e.1 < 16) && decide (e.2.state = .running) && decide (e.2.nextIssue ≤ c))

/-- The slots after a crew issue in cycle c: a new cycle's scan begins after the crew that issued first in the latest issuing
cycle, and its own first issuer turns the rotation; the fourth issuer ends the scan (R125; DESIGN CHOICE, log 6). -/
def takeSlot (x : Stope) (n : Need) (ag c : Nat) : Stope :=
  let x := if x.slotCycle = c ∧ 0 < x.slotUsed then x
    else { x with slotCycle := c, slotUsed := 0, slotSfu := 0, slotRed := 0, slotCvt := 0, slotXfer := 0, slotBanks := 0
                  scanFrom := (x.rotor + 1) % 16, rotor := ag }
  let place := scanPlace x.scanFrom ag
  { x with slotUsed := x.slotUsed + 1, slotSfu := x.slotSfu + b2n n.sfu, slotRed := x.slotRed + b2n n.red,
           slotCvt := x.slotCvt + b2n n.cvt, slotXfer := x.slotXfer + b2n n.xfer, slotBanks := x.slotBanks ||| n.banks
           scanPast := place + 1
           fullScans := if x.slotUsed = 3 then ((c, x.scanFrom, place) :: x.fullScans).filter (fun f => stillWaits x f.1) else x.fullScans }

/-- Issue-conflict cycles of a crew that could issue from cycle `first` on and issues in cycle c: every cycle in which the scan
came to it (R125; DESIGN CHOICE, log 6). -/
def conflicts (x : Stope) (ag first c : Nat) : Nat :=
  (c - first) - (x.fullScans.filter (fun f => decide (first ≤ f.1 ∧ f.1 < c) && decide (f.2.2 < scanPlace f.2.1 ag))).length

/-- Cycles of check holds that a crew able to issue from `first` on waits out before cycle c (R70). -/
def holdWait (x : Stope) (first c : Nat) : Nat :=
  (x.holdsPast.filter (fun h => decide (first ≤ h.1 + 1 ∧ h.1 < c))).foldl (fun n h => n + h.2) 0

/-- Agent ag of stope st is running and nothing of the machine keeps it from issuing at a later cycle of its own: no check
hold for a crew (R67), no event to be entered for an overman (R131; DESIGN CHOICE, log 1). -/
def mayIssue (x : Stope) (ag : Nat) : Bool :=
  decide ((agentOf x ag).state = .running) &&
  (if ag = 16 then !(x.evOn && eventPending x) else decide (ag < 16) && !x.clk.stopped)

/-- The first cycle in which the agent could issue if nothing conflicted. -/
def readyCycle (x : Stope) (ag now : Nat) : Nat := max (agentCycle x ag (max now (agentOf x ag).wakeAt)) (agentOf x ag).nextIssue

/-- The cycle of issue: the agent's own first cycle, then the issue conflicts. -/
def issueCycle (x : Stope) (ag now : Nat) (n : Nat → Need) (floor : Nat) (adm : Nat → Bool) : Nat :=
  let c := readyCycle x ag now
  if ag = 16 then c else firstFrom (fun k => slotFree x ag (n k) k && adm k) 600 (max c floor)

/-- The device cycle of the agent's cycle c. -/
def issueTime (x : Stope) (ag now c : Nat) : Nat := if ag = 16 then max now c else max now (dueAt x.clk c)

/-- The issue conflicts of a crew's instruction that faults in cycle c are counted; it takes no slot, does not turn the rotation and is
not counted as issued (R56, R125, R130; DESIGN CHOICE, log 11). -/
def countBlocked (s : State) (st ag c first : Nat) : State :=
  modCrew s st ag (fun k =>
    { k with stallIssue := k.stallIssue + stallOf s st (conflicts (stopeOf s st) ag first (k.tramSince.getD c)) })

/-- Stope and agent after a successful issue in cycle c: slots, counters, control. -/
def retire (s : State) (st ag c first : Nat) (n : Need) (f : Flow) : State :=
  modStope s st (fun x =>
    let y := if ag = 16 then x else
      stirred (takeSlot { x with issued := x.issued + stallOf s st 1 } n ag c) s.now
    modAgent y ag (fun k =>
      flowCrew (countHeld (monitorOff s (stopeLevel st)) c
        { k with stallIssue := k.stallIssue + stallOf s st (conflicts x ag first (k.tramSince.getD c)) }) c f))

/-- Issue of word w of opcode op by agent ag. A word of another listed opcode is the business of that opcode's row: no effect.
A word of a reserved opcode raises ILLEGAL_OP, of 0x60 or above PRIV_OP on a crew (R106, R107; DESIGN CHOICE, log 1; DESIGN
CHOICE, log 8). -/
def issue (s : State) (st ag : Nat) (w : Word64) (op : Nat) (n : Nat → Need) (floor : Nat) (adm : Nat → Bool)
    (body : State → Nat → IssueRes) : State :=
  let x := stopeOf s st
  if mayIssue x ag ∧ (fOp w = op ∨ opListed (fOp w) = false) then
    let c := issueCycle x ag s.now n floor adm
    let t := advance s (issueTime x ag s.now c)
    let t := if ag = 16 then settle t st else settleAt t st c
    let blocked := fun (t : State) => countBlocked t st ag c (agentOf x ag).nextIssue
    if (agentOf x ag).ranOff then takeOpen (blocked t) st ag fcPcRange
    else if fOp w ≠ op then
      takeOpen (blocked t) st ag (if ag ≠ 16 ∧ 0x60 ≤ fOp w then fcPrivOp else fcIllegalOp)
    else
      match body t c with
      | .trap code arg => takeFault (blocked t) st ag code arg
      | .trapOpen code => takeOpen (blocked t) st ag code
      | .trapAfter u code => takeOpen (blocked u) st ag code
      | .trapWith u code arg => takeFault (blocked u) st ag code arg
      | .done u f => retire u st ag c (agentOf x ag).nextIssue (n c) f
      | .held => modCrew s st ag (fun k => { k with tramSince := some (k.tramSince.getD (readyCycle x ag s.now)) })
  else s

/-- No units beyond a slot. -/
def plain (_ : Nat) : Need := {}

/-- No admission rule beyond the slots. -/
def always (_ : Nat) : Bool := true

/-- An instruction that crews and overmen both run: legal words start writes in flight and go on to the next word. -/
def issueWrites (s : State) (st ag : Nat) (w : Word64) (op : Nat) (n : Nat → Need) (legal : Bool)
    (ws : Crew → List (Nat × Eff)) : State :=
  issue s st ag w op n 0 always (fun t c =>
    if legal then .done (startWrites t st ag c (ws (crewOf t st ag))) (.seq 1) else .trapOpen fcIllegalOp)

/-- An instruction that only crews run: on an overman it raises ILLEGAL_OP (R127, "The overman"). -/
def crewOnly (ag : Nat) (r : IssueRes) : IssueRes := if ag = 16 then .trapOpen fcIllegalOp else r

end Sys2Proof.Machine
end

