-- ==== Sys2Proof/Machine/Scalar.lean ====
section
/-! DEFINITION. The scalar instructions and the scalar store accesses (R107, R113, R115). -/

namespace Sys2Proof.Machine

/-- Form R scalar arithmetic: Sd ← f Sa Sb, ready n cycles after issue. -/
def scalarOp (st ag : Nat) (w : Word64) (op n : Nat) (f : Word64 → Word64 → Word64) (s : State) : State :=
  issueWrites s st ag w op plain (onlyFields w [pD, pA, pB])
    (fun c => [(n, writeS (fD w) (f (sReg c (fA w)) (sReg c (fB w))))])

/-- WAIT: the next issue is no earlier than issue + max(1, IMM) (R107, R115; DEDUCED, log 50). -/
def execWait (st ag : Nat) (w : Word64) (s : State) : Answer :=
  .next (issue s st ag w 0x00 plain 0 always (fun t _ =>
    if onlyFields w [pImm] then .done t (.seq (max 1 (fImm w))) else .trapOpen fcIllegalOp))

/-- SADD (R107). -/
def execSadd (st ag : Nat) (w : Word64) (s : State) : Answer := .next (scalarOp st ag w 0x01 1 (· + ·) s)
/-- SSUB (R107). -/
def execSsub (st ag : Nat) (w : Word64) (s : State) : Answer := .next (scalarOp st ag w 0x02 1 (· - ·) s)
/-- SMUL: the low 64 bits, ready at issue + 3 (R107, R115). -/
def execSmul (st ag : Nat) (w : Word64) (s : State) : Answer := .next (scalarOp st ag w 0x03 3 (· * ·) s)
/-- SAND (R107). -/
def execSand (st ag : Nat) (w : Word64) (s : State) : Answer := .next (scalarOp st ag w 0x04 1 (· &&& ·) s)
/-- SOR (R107). -/
def execSor (st ag : Nat) (w : Word64) (s : State) : Answer := .next (scalarOp st ag w 0x05 1 (· ||| ·) s)
/-- SXOR (R107). -/
def execSxor (st ag : Nat) (w : Word64) (s : State) : Answer := .next (scalarOp st ag w 0x06 1 (· ^^^ ·) s)
/-- SSHL by Sb[5:0] (R107). -/
def execSshl (st ag : Nat) (w : Word64) (s : State) : Answer :=
  .next (scalarOp st ag w 0x07 1 (fun a b => a <<< (b.toNat % 64)) s)
/-- SSHR by Sb[5:0] (R107). -/
def execSshr (st ag : Nat) (w : Word64) (s : State) : Answer :=
  .next (scalarOp st ag w 0x08 1 (fun a b => a >>> (b.toNat % 64)) s)
/-- SSRA by Sb[5:0] (R107). -/
def execSsra (st ag : Nat) (w : Word64) (s : State) : Answer :=
  .next (scalarOp st ag w 0x09 1 (fun a b => a.sshiftRight (b.toNat % 64)) s)

/-- SLI: IMM sign-extended (R107). -/
def execSli (st ag : Nat) (w : Word64) (s : State) : Answer :=
  .next (issueWrites s st ag w 0x0A plain (onlyFields w [pD, pImm]) (fun _ => [(1, writeS (fD w) (sext32 (fImm w)))]))

/-- SLIH: IMM in [63:32], Sd[31:0] as read at issue (R107). -/
def execSlih (st ag : Nat) (w : Word64) (s : State) : Answer :=
  .next (issueWrites s st ag w 0x0B plain (onlyFields w [pD, pImm]) (fun c =>
    [(1, writeS (fD w) (BitVec.ofNat 64 (fImm w * 2 ^ 32 + bits (sReg c (fD w)).toNat 0 32)))]))

/-- SADDI: Sa plus IMM sign-extended (R107). -/
def execSaddi (st ag : Nat) (w : Word64) (s : State) : Answer :=
  .next (issueWrites s st ag w 0x0C plain (onlyFields w [pD, pA, pImm]) (fun c =>
    [(1, writeS (fD w) (sReg c (fA w) + sext32 (fImm w)))]))

/-! ### The store (R113, R114) -/

/-- An access of n bytes at offset o of a memory of `size` bytes: the fault it takes, if any (R113; DEDUCED, log 11). An offset at or past
the end goes before its alignment (DESIGN CHOICE, log 11). -/
def offsetFault (o n size : Nat) : Option Nat :=
  if size ≤ o then some fcAddrHole else if o % n ≠ 0 then some fcMisaligned else none

/-- The memory that SLD and SST of an agent address: a crew's stope store; the overman's data memory, or with
SUB = 1 the stope store ("The overman"). Base address and size. -/
def scalarMem (st ag : Nat) (w : Word64) : Nat × Nat :=
  if ag = 16 ∧ fSub w = 0 then (ovmAddr st 0, 2 ^ 18) else (storeAddr st 0, 2 ^ 24)

/-- Legal SLD and SST words: SUB = 1 is the overman's. -/
def scalarMemOk (ag : Nat) (w : Word64) : Bool :=
  if ag = 16 then onlyFields w [pD, pA, pImm, pSub] && decide (fSub w ≤ 1) else onlyFields w [pD, pA, pImm]

/-- The banks of a store access issued in cycle c; the overman's accesses take none. -/
def storeNeed (s : State) (st ag : Nat) (w : Word64) (n c : Nat) : Need :=
  if ag = 16 then {} else { banks := bankSet (storeOff (crewOf (settleAt s st c) st ag) w % 2 ^ 24) n }

/-- An uncorrectable store word met by a crew's access: nothing is written to a register, the overman gets
STORE_UNCORR and ends the crew's command (R347). -/
def storeUncorr (s : State) (st ag addr : Nat) : State :=
  let c := crewOf s st ag
  faultEvent s st (ag % 16) fcStoreUncorr addr 0 c.tag c.epoch

/-- SLD (R107, R113, R347): 8 bytes into Sd at issue + 8. An overman's offset beyond its data memory takes ADDR_HOLE, a misaligned
one MISALIGNED, which the spec does not say (R128; DESIGN CHOICE, log 12). -/
def execSld (st ag : Nat) (w : Word64) (e : Ecc) (s : State) : Answer :=
  .next (issue s st ag w 0x0D (storeNeed s st ag w 8) 0 always (fun t c =>
    if scalarMemOk ag w then
      let o := storeOff (crewOf t st ag) w
      let m := scalarMem st ag w
      match offsetFault o 8 m.2 with
      | some code => .trap code o
      | none =>
        if e = .bad ∧ m.2 = 2 ^ 24 then .done (storeUncorr t st ag (m.1 + o)) (.seq 1)
        else .done (storeRead (startWrites t st ag c [(8, writeS (fD w) (BitVec.ofNat 64 (readNat t (m.1 + o) 8)))]) e) (.seq 1)
    else .trapOpen fcIllegalOp))

/-- SST (R107, R113): 8 bytes of Sd into the store at issue + 8; an overman's offset as in SLD (R128; DESIGN CHOICE, log 12). -/
def execSst (st ag : Nat) (w : Word64) (s : State) : Answer :=
  .next (issue s st ag w 0x0E (storeNeed s st ag w 8) 0 always (fun t c =>
    if scalarMemOk ag w then
      let k := crewOf t st ag
      let o := storeOff k w
      let m := scalarMem st ag w
      match offsetFault o 8 m.2 with
      | some code => .trap code o
      | none => .done (startWrites t st ag c [(8, .store (cellsAt (m.1 + o) (toBytes 8 (sReg k (fD w)).toNat)))]) (.seq 1)
    else .trapOpen fcIllegalOp))

end Sys2Proof.Machine
end

