-- ==== Sys2Proof/Machine/Vector.lean ====
section
/-! DEFINITION. The vector instructions, vector store accesses, predicate logic and CVT (R107 to R115, R430). -/

namespace Sys2Proof.Machine

/-- A vector instruction: legal and predicated words start writes in flight. -/
def vectorOp (st ag : Nat) (w : Word64) (op : Nat) (n : Need) (fs : List (Nat × Nat)) (ok : Bool)
    (ws : Crew → List (Nat × Eff)) (s : State) : State :=
  issue s st ag w op (fun _ => n) 0 always (fun t c => crewOnly ag (
    if onlyFields w (pPred :: fs) && predOk w && ok then .done (startWrites t st ag c (ws (crewOf t st ag))) (.seq 1)
    else .trapOpen fcIllegalOp))

/-- |v|. -/
def fpAbs (v : FpVal) : FpVal := if fpIsNeg v then fpNeg v else v

/-- VARITH's exact function (R107, R108). -/
def arith (sub : Nat) (a b c : FpVal) : FpVal :=
  match sub with
  | 0 => fpSum [a, b]
  | 1 => fpSum [a, fpNeg b]
  | 2 => fpMul a b
  | 3 => fpSum [fpMul a b, c]
  | 4 => fpMax a b
  | 5 => fpMin a b
  | 6 => fpAbs a
  | _ => fpNeg a

/-- One element of VARITH in format f, rounded once (R108). -/
def arithElem (f : FpFmt) (sub a b c : Nat) : Nat := fpRound f (arith sub (fpDecode f a) (fpDecode f b) (fpDecode f c))

/-- VARITH (R107, R108). -/
def execVarith (st ag : Nat) (w : Word64) (s : State) : Answer :=
  let sub := fSub w
  let fs := [pSub, pD, pA, pFmt] ++ (if sub = 3 then [pC] else []) ++ (if sub < 6 then [pB] else [])
  .next (vectorOp st ag w 0x10 {} fs (decide (sub ≤ 7) && decide (fFmt w = 1 ∨ fFmt w = 2)) (fun c =>
    let a := (vReg c (fA w)).toNat
    let b := (vReg c (fB w)).toNat
    let k := (vReg c (fC w)).toNat
    [(4, if fFmt w = 1 then writeV32 c w (fD w) (fun e => arithElem fFp32 sub (elem 32 a e) (elem 32 b e) (elem 32 k e))
         else writeV16 c w (fD w) (fun e => arithElem fBf16 sub (elem 16 a e) (elem 16 b e) (elem 16 k e)))]) s)

/-- VINT's function of two 32-bit elements (R107). -/
def intOp (sub : Nat) (a b : Word32) : Word32 :=
  match sub with
  | 0 => a + b
  | 1 => a - b
  | 2 => a &&& b
  | 3 => a ||| b
  | 4 => a ^^^ b
  | 5 => a <<< (b.toNat % 32)
  | 6 => a >>> (b.toNat % 32)
  | _ => a.sshiftRight (b.toNat % 32)

/-- VINT (R107). -/
def execVint (st ag : Nat) (w : Word64) (s : State) : Answer :=
  .next (vectorOp st ag w 0x11 {} [pSub, pD, pA, pB] (decide (fSub w ≤ 7)) (fun c =>
    [(2, writeV32 c w (fD w) (fun e => (intOp (fSub w) (elem32 (vReg c (fA w)) e) (elem32 (vReg c (fB w)) e)).toNat))]) s)

/-- VCMP: 32-bit compares write both predicate bits of an element, BF16 compares its one bit (R107, R111). -/
def execVcmp (st ag : Nat) (w : Word64) (s : State) : Answer :=
  let fmt := fFmt w
  .next (vectorOp st ag w 0x12 {} [pSub, pD, pA, pB, pFmt]
    (decide (fSub w ≤ 6) && decide (fD w ≤ 7) && decide (fmt = 1 ∨ fmt = 2 ∨ fmt = 10)) (fun c =>
    let a := vReg c (fA w)
    let b := vReg c (fB w)
    let r32 := fun e => if fmt = 10 then intCompare (fSub w) (elem32 a e) (elem32 b e)
      else fpCompare (fSub w) (of32 (elem32 a e)) (of32 (elem32 b e))
    let r16 := fun e => fpCompare (fSub w) (fpDecode fBf16 (elem 16 a.toNat e)) (fpDecode fBf16 (elem 16 b.toNat e))
    [(2, if fmt = 2 then .reg (.p (fD w)) (maskElems 1 256 r16) (maskElems 1 256 (en16 c w))
         else .reg (.p (fD w)) (maskElems 2 128 r32) (maskElems 2 128 (en32 c w)))]) s)

/-- VSFU's functions (R107, R110). -/
def sfu (sub : Nat) (x : Word32) : Word32 :=
  match sub with
  | 0 => rcp32 x
  | 1 => rsq32 x
  | 2 => sqrt32 x
  | 3 => exp2At x
  | _ => log2At x

/-- VSFU (R107, R110). -/
def execVsfu (st ag : Nat) (w : Word64) (s : State) : Answer :=
  .next (vectorOp st ag w 0x13 { sfu := true } [pSub, pD, pA] (decide (fSub w ≤ 4)) (fun c =>
    [(12, writeV32 c w (fD w) (fun e => (sfu (fSub w) (elem32 (vReg c (fA w)) e)).toNat))]) s)

/-- VRED's reduction of the enabled elements (R107, R109). -/
def reduce (sub : Nat) (xs : List Word32) : Word32 :=
  match sub with
  | 0 => xsum32 xs
  | 1 => to32 ((xs.map of32).foldl fpMax (.inf true))
  | _ => to32 ((xs.map of32).foldl fpMin (.inf false))

/-- VRED (R107, R109, R111). -/
def execVred (st ag : Nat) (w : Word64) (s : State) : Answer :=
  .next (vectorOp st ag w 0x14 { red := true } [pSub, pD, pA] (decide (fSub w ≤ 2)) (fun c =>
    let xs := ((List.range 128).filter (en32 c w)).map (elem32 (vReg c (fA w)))
    [(8, writeS (fD w) ((reduce (fSub w) xs).setWidth 64))]) s)

/-- VPERM (R107). -/
def execVperm (st ag : Nat) (w : Word64) (s : State) : Answer :=
  .next (vectorOp st ag w 0x15 {} [pD, pA, pB] true (fun c =>
    [(3, writeV32 c w (fD w) (fun e => (elem32 (vReg c (fA w)) ((elem32 (vReg c (fB w)) e).toNat % 128)).toNat))]) s)

/-- VBCST (R107). -/
def execVbcst (st ag : Nat) (w : Word64) (s : State) : Answer :=
  .next (vectorOp st ag w 0x16 {} [pD, pA, pFmt] (decide (fFmt w = 1 ∨ fFmt w = 2)) (fun c =>
    let a := (sReg c (fA w)).toNat
    [(2, if fFmt w = 1 then writeV32 c w (fD w) (fun _ => a) else writeV16 c w (fD w) (fun _ => a))]) s)

/-- VMOVS: Sd is written only when the element is enabled (R107, R111). -/
def execVmovs (st ag : Nat) (w : Word64) (s : State) : Answer :=
  .next (vectorOp st ag w 0x17 {} [pD, pA, pB] true (fun c =>
    let e := (sReg c (fB w)).toNat % 128
    [(3, .reg (.s (fD w)) (elem32 (vReg c (fA w)) e).toNat (if en32 c w e then ones 64 else 0))]) s)

/-- Bytes of the enabled 16-bit elements of a 512 B register or of a row of n bytes. -/
def byteMask (c : Crew) (w : Word64) (n : Nat) : Nat := maskElems 8 n (fun b => en16 c w (b / 2))

/-- VLD (R107, R111, R113, R347; DEDUCED, log 11). -/
def execVld (st ag : Nat) (w : Word64) (e : Ecc) (s : State) : Answer :=
  .next (issue s st ag w 0x18 (storeNeed s st ag w 512) 0 always (fun t c => crewOnly ag (
    if onlyFields w [pPred, pD, pA, pImm] && predOk w then
      let k := crewOf t st ag
      let o := storeOff k w
      match (if 2 ^ 24 ≤ o then some fcAddrHole else if o % 64 ≠ 0 then some fcMisaligned
             else if 2 ^ 24 < o + 512 then some fcAddrHole else none) with
      | some code => .trap code o
      | none =>
        if e = .bad then .done (storeUncorr t st ag (storeAddr st o)) (.seq 1)
        else
          .done (storeRead (startWrites t st ag c
            [(10, .reg (.v (fD w)) (readNat t (storeAddr st o) 512) (byteMask k w 512))]) e) (.seq 1)
    else .trapOpen fcIllegalOp)))

/-- VST: only enabled bytes reach the store (R107, R111, R113; DEDUCED, log 11). -/
def execVst (st ag : Nat) (w : Word64) (s : State) : Answer :=
  .next (issue s st ag w 0x19 (storeNeed s st ag w 512) 0 always (fun t c => crewOnly ag (
    if onlyFields w [pPred, pD, pA, pImm] && predOk w then
      let k := crewOf t st ag
      let o := storeOff k w
      match (if 2 ^ 24 ≤ o then some fcAddrHole else if o % 64 ≠ 0 then some fcMisaligned
             else if 2 ^ 24 < o + 512 then some fcAddrHole else none) with
      | some code => .trap code o
      | none =>
        let cells := (cellsAt (storeAddr st o) (toBytes 512 (vReg k (fD w)).toNat)).filter
          (fun x => en16 k w ((x.1 - storeAddr st o) / 2))
        .done (startWrites t st ag c [(10, .store cells)]) (.seq 1)
    else .trapOpen fcIllegalOp)))

/-- PLOGIC, bit by bit (R107, R111). -/
def execPlogic (st ag : Nat) (w : Word64) (s : State) : Answer :=
  let sub := fSub w
  let fs := [pSub, pD] ++ (if sub < 5 then [pA] else []) ++ (if sub < 4 then [pB] else [])
  .next (vectorOp st ag w 0x1A {} fs
    (decide (sub ≤ 6) && decide (fD w ≤ 7) && decide (fA w ≤ 7) && decide (fB w ≤ 7)) (fun c =>
    [(1, .reg (.p (fD w))
      (maskElems 1 256 (fun k => predLogic sub (bit (pReg c (fA w)).toNat k) (bit (pReg c (fB w)).toNat k)))
      (maskElems 1 256 (enabled c w)))]) s)

/-! ### Conversion draws (R82, R83) -/

/-- Lane of element j of a conversion, and how many earlier elements of the row lie in it (R83, R112; DEDUCED, log 10). -/
def drawLane (j : Nat) : Nat := j % 128 / 4
def drawIndex (j : Nat) : Nat := j / 128 * 4 + j % 4

/-- The draw of element j, under SR (R81, R83). -/
def drawOf (c : Crew) (j : Nat) : Nat := (srSteps (drawIndex j) (genOf c (drawLane j))).toNat

/-- The generators after one draw for each of n elements. -/
def advanceGens (c : Crew) (n : Nat) : Crew :=
  { c with gens := (List.range 32).foldl (fun t l =>
      tset t 1 l (srSteps ((List.range n).filter (fun j => decide (drawLane j = l))).length (tget t 1 l))) c.gens }

/-- Take the draws of an SR conversion of n elements. -/
def takeDraws (s : State) (st ag n : Nat) (sr : Bool) : State :=
  if sr then modCrew s st ag (fun c => advanceGens c n) else s

/-- CVT (R78, R79, R107, R430). A widening one with RM = 1 is legal and draws, which the spec leaves open (DESIGN CHOICE, log 11). -/
def execCvt (st ag : Nat) (w : Word64) (s : State) : Answer :=
  let src := fSub w
  let dst := fFmt w
  let sr := fRm w = 1
  .next (issue s st ag w 0x1B plain 0 always (fun t c => crewOnly ag (
    if onlyFields w [pPred, pSub, pD, pA, pFmt, pRm] && predOk w && decide (fRm w ≤ 1) &&
       (decide (src = 1 ∧ (dst = 2 ∨ dst = 3)) || decide (dst = 1 ∧ (src = 2 ∨ src = 3))) then
      let k := crewOf t st ag
      let a := vReg k (fA w)
      let u := takeDraws t st ag 128 sr
      if src = 1 then
        let f := if dst = 2 then fBf16 else fFp16
        let r := fun e => narrow f true 0 (if sr then some (drawOf k e) else none) (elem32 a e)
        let cs := ((List.range 128).filter (en16 k w)).map (fun e => (r e).2)
        .done (startWrites u st ag c
          [(4, .reg (.v (fD w)) (packElems 16 128 (fun e => (r e).1)) (maskElems 16 128 (en16 k w))),
           (4, .counts (countClass .sat cs) (countClass .under cs) (countClass .nan cs))]) (.seq 1)
      else
        let f := if src = 2 then fBf16 else fFp16
        .done (startWrites u st ag c
          [(4, writeV32 k w (fD w) (fun e => (to32 (fpDecode f (elem 16 a.toNat e))).toNat))]) (.seq 1)
    else .trapOpen fcIllegalOp)))

end Sys2Proof.Machine
end

