-- ==== Sys2Proof/Machine/Tiles.lean ====
section
/-! DEFINITION. The tile register instructions: shape, conversion, byte moves, and the issue of tile and tram
transfers (R82, R112, R136 to R141, R150, R152, R154). -/

namespace Sys2Proof.Machine

/-! ### Shape (R137, R138, R140) -/

/-- A shape that TCFG refuses: rows, row length in 16 B units, format (R137). -/
def shapeBad (rows len16 fmt : Nat) : Bool :=
  decide (rows = 0 ∨ 64 < rows ∨ len16 = 0 ∨ 16 < len16 ∨ fmt = 0 ∨ 0x0B ≤ fmt) ||
  (decide (fmt = 6 ∨ fmt = 7) && decide (len16 % 2 = 1))

/-- A write in flight to tile register t (R140). -/
def pendOnTile (t : Nat) (p : Pend) : Bool :=
  match p.eff with
  | .reg (.tile u _) _ _ => decide (u = t)
  | .reg (.scale u _) _ _ => decide (u = t)
  | .stats u .. => decide (u = t)
  | _ => false

/-- A stream of crew cr loses its source register t: rows still to enter read 0 (R140). -/
def streamLose (cr t : Nat) (g : Stream) : Stream :=
  if g.crew = cr then
    { g with zeroA := g.zeroA || decide (g.tile = t),
             zeroB := g.zeroB || (decide (g.pitch = 2) && !g.wide && decide ((g.tile + 1) % 8 = t)) }
  else g

/-- A queued or active tile transfer of crew cr on register t. -/
def xferOn (cr t : Nat) (f : Xfer) : Bool :=
  decide (f.crew = cr ∧ f.tile = t) && (match f.kind with | .tram _ => false | _ => true)

/-- Work in flight on register t of crew cr ends as R140 lays down, and the register's contents read as 0. -/
def loseTile (x : Stope) (cr t : Nat) : Stope :=
  let x := modAgent x cr (fun c => { c with pend := c.pend.filter (fun p => !pendOnTile t p) })
  { x with
    arr0 := { x.arr0 with streams := x.arr0.streams.map (streamLose cr t) }
    arr1 := { x.arr1 with streams := x.arr1.streams.map (streamLose cr t) }
    queue := x.queue.map (fun f => if xferOn cr t f then { f with discard := true } else f) }

/-! ### The claim-fault stall counter (R341) -/

def fcClaimFault : Nat := 0x0201

/-- A transfer of the stope is held with CLAIM_FAULT. -/
def claimHeld (x : Stope) : Bool :=
  x.agents.any (fun e => e.2.tiles.any (fun t => match t.2.held with | some h => decide (h.code = fcClaimFault) | none => false)) ||
  x.heldSlots.any (fun e => match e.2 with
    | some f => (match f.fault with | some (c, _) => decide (c = fcClaimFault) | none => false)
    | none => false)

/-- The claim-fault stall counter starts or stops (R341; DEDUCED, log 48). -/
def recountClaim (s : State) (st : Nat) : State :=
  modStope s st (fun x =>
    let t := x.trace
    match t.claimAt with
    | none => if claimHeld x then { x with trace := { t with claimAt := some s.now } } else x
    | some a =>
      if claimHeld x then x
      else { x with trace := { t with claimAt := none, stallClaim := t.stallClaim + stallOf s st (s.now - a) } })

/-- The same after the register `held` of a crew has lost its transfer state (R140, R150). -/
def recountHeld (s : State) (st : Nat) (held : Option Held) : State := if held.isSome then recountClaim s st else s

/-- TCFG (R137, R140). -/
def execTcfg (st ag : Nat) (w : Word64) (s : State) : Answer :=
  .next (issue s st ag w 0x20 plain 0 always (fun t _ => crewOnly ag (
    if onlyFields w [pT, pTA] then
      let a := (sReg (crewOf t st ag) (tA w)).toNat
      let rows := bits a 0 7
      let len16 := bits a 8 5
      let fmt := bits a 16 5
      if shapeBad rows len16 fmt ∨ bit a 7 ∨ bits a 13 3 ≠ 0 ∨ bits a 21 3 ≠ 0 ∨ bits a 29 35 ≠ 0 then .trapOpen fcShapeFault
      else .done (recountHeld (modStope t st (fun x => modAgent (loseTile x ag (tT w)) ag (fun c =>
        putTile c (tT w) { rows := rows, len := 16 * len16, fmt := fmt }))) st (tileOf (crewOf t st ag) (tT w)).held) (.seq 1)
    else .trapOpen fcIllegalOp)))

/-- TREL keeps the shape (R138, R140). -/
def execTrel (st ag : Nat) (w : Word64) (s : State) : Answer :=
  .next (issue s st ag w 0x21 plain 0 always (fun t _ => crewOnly ag (
    if onlyFields w [pT] then
      .done (recountHeld (modStope t st (fun x => modAgent (loseTile x ag (tT w)) ag (fun c =>
        modTile c (tT w) (fun y => { rows := y.rows, len := y.len, fmt := y.fmt })))) st
          (tileOf (crewOf t st ag) (tT w)).held) (.seq 1)
    else .trapOpen fcIllegalOp)))

/-! ### Queueing transfers (R141, R150, R152) -/

/-- The CRC-32C state after a shape word (R144). -/
def shapeCrc (shape : Nat) : Word32 := crcRun crcInit (toBytes 8 shape)

/-- A transfer joins the tail of the tram's queue. -/
def enqueue (x : Stope) (f : Xfer) : Stope := { x with queue := x.queue ++ [{ f with id := x.nextId }], nextId := x.nextId + 1 }

/-- A held transfer that a TLD or TST with these operands resumes (R150). -/
def resumes (h : Held) (store : Bool) (va : Nat) (recVa : Option Nat) (tag : Nat) : Bool :=
  decide (h.store = store ∧ h.va = va ∧ h.recVa = recVa ∧ h.tag = tag) && !h.check

/-- Queue a tile transfer of crew cr on register t, resuming a matching held one (R150). -/
def queueTile (s : State) (st cr t : Nat) (kind : XKind) (store : Bool) (va : Nat) (recVa : Option Nat) (q : Nat) : State :=
  let x := stopeOf s st
  let c := agentOf x cr
  let y := tileOf c t
  let f : Xfer := { id := 0, kind := kind, crew := cr, tile := t, va := va, q := q, tag := c.tag, epoch := c.epoch,
                    round := c.round, rows := y.rows, len := y.len, fmt := y.fmt, crc := shapeCrc (tileShape y.rows y.len y.fmt) }
  let drop := fun (x : Stope) => modAgent x cr (fun c => modTile c t (fun y => { y with held := none }))
  match y.held with
  | some h =>
    if resumes h store (va % 2 ^ 57) recVa c.tag then
      let s := recountClaim (putStope s st (enqueue (drop { x with resumed := satAdd 16 x.resumed 1 })
        { f with next := h.prog, prog := h.prog, crc := h.crc })) st
      traceRec s st 0x0012 c.tag c.epoch (0x20 + cr) (t + h.prog * 2 ^ 32)
    else recountClaim (putStope s st (enqueue (drop x) f)) st
  | none => putStope s st (enqueue x f)

/-- The crew waits at issue: the queue is full, or the register is named by a queued or active transfer (R141). -/
def tileBusy (x : Stope) (cr t : Nat) : Bool := decide (64 ≤ x.queue.length) || x.queue.any (xferOn cr t)

/-- TLD (R138, R141, R150). -/
def execTld (st ag : Nat) (w : Word64) (s : State) : Answer :=
  .next (issue s st ag w 0x22 (fun _ => { xfer := true }) 0 always (fun t _ => crewOnly ag (
    if onlyFields w [pT, pTA, pQ] then
      let c := crewOf t st ag
      let va := (sReg c (tA w)).toNat
      if (tileOf c (tT w)).rows = 0 then .trapOpen fcShapeFault
      else if va % 64 ≠ 0 then .trap fcMisaligned va
      else if tileBusy (stopeOf t st) ag (tT w) then .held
      else .done (queueTile t st ag (tT w) .tld false va none (tQ w)) (.seq 1)
    else .trapOpen fcIllegalOp)))

/-- TST (R138, R141, R150). -/
def execTst (st ag : Nat) (w : Word64) (s : State) : Answer :=
  .next (issue s st ag w 0x23 (fun _ => { xfer := true }) 0 always (fun t _ => crewOnly ag (
    if onlyFields w ([pT, pTA, pQ, pRec] ++ (if tRec w then [pTB] else [])) then
      let c := crewOf t st ag
      let va := (sReg c (tA w)).toNat
      let rv := (sReg c (tB w)).toNat
      let recVa := if tRec w then some rv else none
      if (tileOf c (tT w)).rows = 0 then .trapOpen fcShapeFault
      else if va % 64 ≠ 0 then .trap fcMisaligned va
      else if tRec w ∧ rv % 128 ≠ 0 then .trap fcMisaligned rv
      else if tileBusy (stopeOf t st) ag (tT w) then .held
      else .done (queueTile t st ag (tT w) (.tst recVa) true va recVa (tQ w)) (.seq 1)
    else .trapOpen fcIllegalOp)))

/-! ### Rows (R112, R138) -/

/-- The row that a tile instruction names, or the fault it takes (R138). -/
def rowFault (c : Crew) (w : Word64) : Option Nat :=
  let y := tileOf c (tT w)
  if y.rows = 0 ∨ y.rows ≤ tileRow c w then some fcShapeFault else none

/-- Fields of the row instructions: Sc only with RS (R106). -/
def rowFields (w : Word64) : List (Nat × Nat) := [pT, pTA, pRow, pRs] ++ (if tRs w then [pTC] else [])

/-- Elements of a tile row (R74). -/
def rowElems (y : Tile) : Nat := y.len * 8 / fmtBits y.fmt

/-- Formats that CVTT and CVTW accept: not RAW, not E8M0 (R112). -/
def convertible (fmt : Nat) : Bool := decide (1 ≤ fmt ∧ fmt ≤ 8)

/-- FP32 element j of the registers from Va on (R112). -/
def spanElem (c : Crew) (a j : Nat) : Word32 := elem32 (vReg c ((a + j / 128) % 32)) (j % 128)

/-- Element j's predicate bit is that of its FP32 element (R112). -/
def spanEn (c : Crew) (w : Word64) (j : Nat) : Bool := en32 c w (j % 128)

/-- Magnitude bits of a finite FP32 value, 0 for the others (R86). -/
def finiteMag (x : Word32) : Nat := if 0x7F800000 ≤ x.toNat % 2 ^ 31 then 0 else x.toNat % 2 ^ 31

/-- What CVTT writes: element codes with their classes, and the scale byte of each MX block (R75, R78, R112). -/
structure Narrowed where
  codes : List (Nat × CvtClass)
  /-- per MX block: the scale, none for a block with no enabled element -/
  scales : List (Option Nat)
  deriving DecidableEq, Repr

/-- CVTT's conversion of the row (R75, R78, R79, R112). -/
def narrowRow (c : Crew) (w : Word64) (y : Tile) (sr : Bool) : Narrowed :=
  let n := rowElems y
  let x := spanElem c (tA w)
  let e := (sReg c (tB w)).toNat % 256
  let g := fun j => if sr then some (drawOf c j) else none
  if isMx y.fmt then
    let scales := (List.range (n / 32)).map (fun b =>
      let js := ((List.range 32).map (32 * b + ·)).filter (spanEn c w)
      if js = [] then none else some (mxScale y.fmt (js.map x)))
    { scales := scales
      codes := (List.range n).map (fun j =>
        match (scales[j / 32]?).getD none with
        | some k => mxNarrow y.fmt k (g j) (x j)
        | none => (0, .none)) }
  else
    { scales := []
      codes := (List.range n).map (fun j =>
        match y.fmt with
        | 1 => ((to32 (of32 (x j))).toNat, .none)
        | 2 => narrow fBf16 true 0 (g j) (x j)
        | 3 => narrow fFp16 true 0 (g j) (x j)
        | f => if e = 255 then (0x7F, .nan) else narrow ((fmtLayout f).getD fE4m3) false (127 - (e : Int)) (g j) (x j)) }

/-- CVTT (R75, R78, R79, R83, R86, R112). -/
def execCvtt (st ag : Nat) (w : Word64) (s : State) : Answer :=
  .next (issue s st ag w 0x24 (fun _ => { cvt := true }) 0 always (fun t c => crewOnly ag (
    if onlyFields w ([pPred, pTB, pTRm] ++ rowFields w) && predOk w && decide (tRm w ≤ 1) then
      let k := crewOf t st ag
      let y := tileOf k (tT w)
      match rowFault k w with
      | some code => .trap code (tileRow k w)
      | none =>
        if !convertible y.fmt then .trapOpen fcIllegalOp
        else
          let n := rowElems y
          let b := fmtBits y.fmt
          let sr := decide (tRm w = 1)
          let r := narrowRow k w y sr
          let code := fun j => ((r.codes[j]?).getD (0, .none)).1
          let on := (List.range n).filter (spanEn k w)
          let cs := on.map (fun j => ((r.codes[j]?).getD (0, .none)).2)
          let amax := on.foldl (fun m j => max m (finiteMag (spanElem k (tA w) j))) 0
          let sc := fun i => ((r.scales[i]?).getD none)
          let row := tileRow k w
          .done (startWrites (takeDraws t st ag n sr) st ag c
            ([(6, Eff.reg (.tile (tT w) row) (packElems b n code) (maskElems b n (spanEn k w)))] ++
             (if isMx y.fmt then
               [(6, Eff.reg (.scale (tT w) row) (packElems 8 (n / 32) (fun i => (sc i).getD 0))
                 (maskElems 8 (n / 32) (fun i => (sc i).isSome)))] else []) ++
             [(6, Eff.stats (tT w) amax (countClass .sat cs) (countClass .under cs) (countClass .nan cs))])) (.seq 1)
    else .trapOpen fcIllegalOp)))

/-- Element j of a tile row widened to FP32; beyond the row +0 (R80, R112). -/
def widenElem (y : Tile) (row e j : Nat) : Word32 :=
  let b := fmtBits y.fmt
  let raw := elem b (tget y.data 0 row).toNat j
  let f := (fmtLayout y.fmt).getD fFp32
  if rowElems y ≤ j then 0
  else if isMx y.fmt then widen f (bits (tget y.scale 0 row).toNat (8 * (j / 32)) 8) raw
  else if y.fmt = 4 ∨ y.fmt = 5 then widen f e raw
  else to32 (fpDecode f raw)

/-- CVTW (R80, R112). -/
def execCvtw (st ag : Nat) (w : Word64) (s : State) : Answer :=
  .next (issue s st ag w 0x25 (fun _ => { cvt := true }) 0 always (fun t c => crewOnly ag (
    if onlyFields w (pTB :: rowFields w) then
      let k := crewOf t st ag
      let y := tileOf k (tT w)
      match rowFault k w with
      | some code => .trap code (tileRow k w)
      | none =>
        if !convertible y.fmt then .trapOpen fcIllegalOp
        else
          let e := (sReg k (tB w)).toNat % 256
          let n := rowElems y
          .done (startWrites t st ag c ((List.range ((n + 127) / 128)).map (fun i =>
            (5, Eff.reg (.v ((tA w + i) % 32))
              (packElems 32 128 (fun j => (widenElem y (tileRow k w) e (128 * i + j)).toNat)) (ones 4096))))) (.seq 1)
    else .trapOpen fcIllegalOp)))

/-- TRD (R107, R136). -/
def execTrd (st ag : Nat) (w : Word64) (s : State) : Answer :=
  .next (issue s st ag w 0x26 plain 0 always (fun t c => crewOnly ag (
    if onlyFields w (rowFields w) then
      let k := crewOf t st ag
      match rowFault k w with
      | some code => .trap code (tileRow k w)
      | none => .done (startWrites t st ag c
          [(3, .reg (.v (tA w)) (tget (tileOf k (tT w)).data 0 (tileRow k w)).toNat (ones 4096))]) (.seq 1)
    else .trapOpen fcIllegalOp)))

/-- TWR (R107, R111). -/
def execTwr (st ag : Nat) (w : Word64) (s : State) : Answer :=
  .next (issue s st ag w 0x27 plain 0 always (fun t c => crewOnly ag (
    if onlyFields w (pPred :: rowFields w) && predOk w then
      let k := crewOf t st ag
      let y := tileOf k (tT w)
      match rowFault k w with
      | some code => .trap code (tileRow k w)
      | none => .done (startWrites t st ag c
          [(2, .reg (.tile (tT w) (tileRow k w)) ((vReg k (tA w)).toNat % 2 ^ (8 * y.len)) (byteMask k w y.len))]) (.seq 1)
    else .trapOpen fcIllegalOp)))

/-- SRSEED (R82, R115). -/
def execSrseed (st ag : Nat) (w : Word64) (s : State) : Answer :=
  .next (issue s st ag w 0x28 plain 0 always (fun t c => crewOnly ag (
    if onlyFields w [pA] then
      .done (startWrites t st ag c [(1, .seed ((sReg (crewOf t st ag) (fA w)).toNat % 2 ^ 32))]) (.seq 1)
    else .trapOpen fcIllegalOp)))

/-! ### TRAM (R154) -/

/-- The descriptor's fields (R154). -/
def readDesc (bs : List Byte) : TramDesc :=
  let k := field bs 0 1
  { kind := bits k 0 4, srcTiled := bit k 4, dstTiled := bit k 5, esize := bits k 6 2
    srcTPitch := field bs 6 1, dstTPitch := field bs 7 1
    srcVa := field bs 8 8, dstVa := field bs 16 8
    rowBytes := field bs 24 4, rows := field bs 28 4, srcPitch := field bs 32 8, dstPitch := field bs 40 8
    srcShape := BitVec.ofNat 64 (field bs 48 8), dstShape := BitVec.ofNat 64 (field bs 56 8)
    reservedSet := decide (field bs 1 5 ≠ 0) }

/-- Queue entries that hold TRAM descriptors (R152). -/
def tramShare (x : Stope) : Nat :=
  (x.queue.filter (fun f => match f.kind with | .tram _ => true | _ => false)).length

/-- The bank of the descriptor read in cycle c (R154). -/
def tramNeed (s : State) (st ag : Nat) (w : Word64) (c : Nat) : Need :=
  { xfer := true, banks := bankSet ((sReg (crewOf (settleAt s st c) st ag) (tA w)).toNat % 2 ^ 24) 64 }

/-- TRAM: the descriptor is read as a store access of the issue cycle; an address both misaligned and beyond the store takes
ADDR_HOLE (R152, R154, R347; DESIGN CHOICE, log 11). -/
def execTram (st ag : Nat) (w : Word64) (e : Ecc) (s : State) : Answer :=
  .next (issue s st ag w 0x29 (tramNeed s st ag w) 0 always (fun t _ => crewOnly ag (
    if onlyFields w [pTA, pQ] then
      let x := stopeOf t st
      let c := agentOf x ag
      let o := (sReg c (tA w)).toNat
      if 2 ^ 24 ≤ o then .trap fcAddrHole o
      else if o % 64 ≠ 0 then .trap fcMisaligned o
      else if 64 ≤ x.queue.length ∨ 16 ≤ tramShare x then .held
      else if e = .bad then .done (storeUncorr t st ag (storeAddr st o)) (.seq 1)
      else
        .done (storeRead (putStope t st (enqueue x
          { id := 0, kind := .tram (readDesc (readBytes t (storeAddr st o) 64)), crew := ag, tile := 0, va := 0, q := tQ w,
            tag := c.tag, epoch := c.epoch, round := c.round, rows := 0, len := 0, fmt := 0 })) e) (.seq 1)
    else .trapOpen fcIllegalOp)))

end Sys2Proof.Machine
end

