-- ==== Sys2Proof/Machine/Arrays.lean ====
section
/-! DEFINITION. The array instructions (R39 to R66) and HOIST (R210 to R214). -/

namespace Sys2Proof.Machine

/-- The arrays that TGT names (R106). -/
def targets (w : Word64) : List Nat := (if bit (mTgt w) 0 then [0] else []) ++ (if bit (mTgt w) 1 then [1] else [])

/-- TGT is not 0, and SA is 0 unless RS is set (R429). -/
def tgtOk (w : Word64) : Bool := decide (mTgt w ≠ 0)
def saOk (w : Word64) : Bool := mRs w || decide (mSa w = 0)

/-! ### WLD (R43 to R46, R49, R60) -/

/-- Formats that a weight block may have (R39). -/
def weightFmt (f : Nat) : Bool := decide (2 ≤ f ∧ f ≤ 8)

/-- Bytes of a weight block with its scale tile (R43). -/
def blockBytes (f : Nat) : Nat :=
  (if twoHalves f then 8 else 4) * 16384 + (if f = 8 then 4096 else if isMx f then 2048 else 0)

/-- Counted cycle of a tile's check: 2 cycles after its last row is written (R49). -/
def checkDue (issue part : Nat) (quick isScale : Bool) : Nat :=
  issue + (if quick then 64 else if isScale then 256 else 64 * part + 64) + 2

/-- The checks of a WLD's stored tiles (R49). -/
def blockChecks (c base f : Nat) (quick : Bool) (p0 p1 crew tag epoch : Nat) (bad : List Nat) : List WCheck :=
  let mk := fun part half isScale => (
    { due := checkDue c part quick isScale, issue := c, base := base, fmt := f, part := part,
      half := half, isScale := isScale, plane0 := p0, plane1 := p1, crew := crew, tag := tag, epoch := epoch,
      uncorr := bad.any (fun r => if isScale then decide (2 ≤ r / 256) else decide (r / 256 = half ∧ r % 256 / 64 = part)) } : WCheck)
  (List.range 4).flatMap (fun g => if twoHalves f then [mk g 0 false, mk g 1 false] else [mk g 0 false]) ++
  (if isMx f then [mk 0 0 true] else [])

/-- A plane takes a new load; it is valid with the load's format from the issue on (R44). -/
def loadPlane (pl : Plane) (c f : Nat) (pace : Pace) (skip : List Nat) : Plane :=
  let pl := mergeLoads pl c
  { pl with loads := { issue := c, pace := pace, rows := [], skip := skip } :: pl.loads, valid := true, fmt := f }

/-- Banks per cycle of a WLD (R46). -/
def wldBankCount (f : Nat) (quick : Bool) : Nat := (if twoHalves f then 8 else 4) * (if quick then 4 else 1)

/-- WLD (R43 to R46, R49, R345, R347). Of several faults the format goes
first, then the alignment, then the end of the store; a crew access that the scan admitted earlier in the same cycle issues
besides (DESIGN CHOICE, log 11). -/
def execWld (st ag : Nat) (w : Word64) (m : WldReads) (s : State) : Answer :=
  let legal := onlyFields w [pTgt2, pSa, pMFmt] && decide (mTgt w = 3)
  .next (issue s st ag w 0x30 plain (if legal then (stopeOf s st).wldFree else 0) always (fun t c => crewOnly ag (
    if legal then
      let x := stopeOf t st
      let k := agentOf x ag
      let base := (sReg k (mSa w)).toNat
      let f := mFmt w
      let first := (agentOf (stopeOf s st) ag).nextIssue
      let wait := stallOf s st ((x.wldFree - max first x.wldSince) + holdWait x first c)
      let waited := putStope t st { x with
        arr0 := { x.arr0 with stallWeight := x.arr0.stallWeight + wait }
        arr1 := { x.arr1 with stallWeight := x.arr1.stallWeight + wait } }
      if !weightFmt f then .trapAfter waited fcArrayFormat
      else if base % 16384 ≠ 0 then .trapWith waited fcMisaligned base
      else if 2 ^ 24 < base + blockBytes f then .trapWith waited fcAddrHole base
      else
        let quick := wideAt x.arr0 c && wideAt x.arr1 c
        let p0 := 1 - activeAt x.arr0 c
        let p1 := 1 - activeAt x.arr1 c
        let pace := if quick then Pace.quick else Pace.slow
        let rows := m.bad.map (· % 256)
        let put := fun (a : Arr) p => putPlane a p (loadPlane (planeOf a p) c f pace rows)
        .done (putStope (m.cured.foldl (fun t _ => storeRead t .cured) t) st { x with
          arr0 := { put x.arr0 p0 with stallWeight := x.arr0.stallWeight + wait }
          arr1 := { put x.arr1 p1 with stallWeight := x.arr1.stallWeight + wait }
          wld := some { issue := c, pace := pace, base := base, fmt := f, plane0 := p0, plane1 := p1, bad := rows, next := 0 }
          wldCrew := ag
          wldSince := if x.wldFree = c then x.wldSince else c
          wldStart := c, wldFree := c + (if quick then 64 else 256), wldBanks := wldBankCount f quick
          wchecks := x.wchecks ++ blockChecks c base f quick p0 p1 ag k.tag k.epoch m.bad }) (.seq 1)
    else .trapOpen fcIllegalOp)))

/-! ### WSW and MCFG (R47, R58) -/

/-- One WSW, or one MCFG, per array and cycle (R115). -/
def swapFree (x : Stope) (w : Word64) (k : Nat) : Bool := (targets w).all (fun a => decide ((arrOf x a).swapAt ≠ k + 1))
def shapeFree (x : Stope) (w : Word64) (k : Nat) : Bool := (targets w).all (fun a => decide ((arrOf x a).shapeAt ≠ k + 1))

/-- WSW: from issue + 1 the shadow plane is active (R47). -/
def execWsw (st ag : Nat) (w : Word64) (s : State) : Answer :=
  .next (issue s st ag w 0x31 plain 0 (swapFree (stopeOf s st) w) (fun t c => crewOnly ag (
    if onlyFields w [pTgt2] && tgtOk w then
      .done (modStope t st (fun x => (targets w).foldl (fun x a => modArr x a (fun r =>
        { r with active := 1 - activeAt r c, wasActive := activeAt r c, swapAt := c + 1 })) x)) (.seq 1)
    else .trapOpen fcIllegalOp)))

/-- MCFG: from issue + 1 the named arrays have the shape SHP (R58). -/
def execMcfg (st ag : Nat) (w : Word64) (s : State) : Answer :=
  .next (issue s st ag w 0x32 plain 0 (shapeFree (stopeOf s st) w) (fun t c => crewOnly ag (
    if onlyFields w [pTgt2, pShp] && tgtOk w then
      .done (modStope t st (fun x => (targets w).foldl (fun x a => modArr x a (fun r =>
        { r with wide := mShp w, wasWide := wideAt r c, shapeAt := c + 1 })) x)) (.seq 1)
    else .trapOpen fcIllegalOp)))

/-! ### Streams (R42, R51 to R57, R61, R63) -/

/-- Row length in bytes that a stream's source tile must have, none for a format that does not stream (R51). -/
def streamLen (fmt : Nat) (wide : Bool) : Option Nat :=
  if 4 ≤ fmt ∧ fmt ≤ 8 then some (if wide then 64 else 256)
  else if fmt = 2 ∨ fmt = 3 then some (if wide then 128 else 256)
  else none

/-- The source tile register of array a: TA for array 0, TB for array 1 (R51). -/
def sourceTile (w : Word64) (a : Nat) : Nat := if a = 0 then mTa w else mTb w

/-- The fault a stream takes on array a in its issue cycle c, if any: of several, SHAPE_FAULT goes first, then ARRAY_MODE,
ARRAY_FORMAT and ARRAY_RANGE, array 0 before array 1; a BF16 or FP16 pair of two formats takes ARRAY_FORMAT (R42, R50, R51, R55,
R61, R63, R138; DESIGN CHOICE, log 11). -/
def streamFault (x : Stope) (k : Crew) (w : Word64) (column : Bool) (c a : Nat) : Option Nat :=
  let r := arrOf x a
  let wide := wideAt r c
  let pl := planeOf r (activeAt r c)
  let t := tileOf k (sourceTile w a)
  let u := tileOf k ((sourceTile w a + 1) % 8)
  let two := twoHalves t.fmt && !wide
  let base := accRowOf k w
  if t.rows = 0 ∨ (two ∧ u.rows = 0) then some fcShapeFault
  else if column ∧ wide then some fcArrayMode
  else if streamLen t.fmt wide ≠ some t.len then some fcArrayFormat
  else if two ∧ (u.rows ≠ t.rows ∨ u.fmt ≠ t.fmt ∨ u.len ≠ t.len) then some fcArrayFormat
  else if !pl.valid ∨ !pairFmt pl.fmt t.fmt then some fcArrayFormat
  else if column ∧ pl.fmt = 8 then some fcArrayFormat
  else if wide ∧ base % 4 ≠ 0 then some fcArrayRange
  else if 2048 < base + (if wide then 4 * t.rows else t.rows) then some fcArrayRange
  else none

/-- The feeds named take row 0 of a stream in cycle k (R56, R57). -/
def feedAdmits (x : Stope) (w : Word64) (column : Bool) (k : Nat) : Bool :=
  (targets w).all (fun a =>
    let r := arrOf x a
    decide (r.feedFree ≤ k) &&
    (column ||
      (if wideAt r k then (decide (r.lastCol = 0) || decide (r.lastCol + 257 ≤ k)) && (decide (r.lastFwd = 0) || decide (r.lastFwd ≠ k))
       else decide (r.lastCol = 0) || decide (r.lastCol + 256 ≤ k))))

/-- The feeds' first free cycle. -/
def feedFloor (x : Stope) (w : Word64) : Nat := (targets w).foldl (fun m a => max m (arrOf x a).feedFree) 0

/-- Cycles that a stream of a crew able to issue from `first` on waits for the turnaround of array a, its feed being free (R57,
R70). -/
def turnWait (r : Arr) (column : Bool) (first c : Nat) : Nat :=
  let stop := if column then 0
    else if wideAt r c then max (if r.lastCol = 0 then 0 else r.lastCol + 257) (if r.lastFwd = 0 then 0 else r.lastFwd + 1)
    else if r.lastCol = 0 then 0 else r.lastCol + 256
  min stop c - max first r.feedFree

/-- The weight-wait of a stream of a crew able to issue from `first` on is counted on each array that it names (R57, R70). -/
def countTurn (x : Stope) (w : Word64) (column : Bool) (first c : Nat) (counted : Nat → Nat) : Stope :=
  let held := holdWait x first c
  (targets w).foldl (fun x a => modArr x a (fun r =>
    { r with stallWeight := r.stallWeight + counted (turnWait r column first c + held) })) x

/-- Array a takes the stream (R52, R54, R56, R57). -/
def startStream (x : Stope) (k : Crew) (w : Word64) (column : Bool) (ag c a : Nat) : Stope :=
  modArr x a (fun r =>
    let t := tileOf k (sourceTile w a)
    let p := pitchOf t.fmt
    let wide := wideAt r c
    let last := c + (t.rows - 1) * p
    { r with
      streams := r.streams ++ [
        { column := column, wide := wide, accum := mMode w, base := accRowOf k w, crew := ag,
          tile := sourceTile w a, rows := t.rows, pitch := p, issue := c, fmt := t.fmt, next := 0 }]
      feedFree := c + t.rows * p
      lastCol := if column then last + 1 else r.lastCol
      lastFwd := if column ∨ wide then r.lastFwd else last + 1 })

/-- Ready cycle of the stream's last row on array a (R115, R171). -/
def streamReady (x : Stope) (k : Crew) (w : Word64) (column : Bool) (c a : Nat) : Nat :=
  let t := tileOf k (sourceTile w a)
  c + (t.rows - 1) * pitchOf t.fmt + rowLatency column (wideAt (arrOf x a) c)

/-- MFWD and MSTRT (R51 to R57, R61). -/
def streamOp (st ag : Nat) (w : Word64) (op : Nat) (column : Bool) (s : State) : State :=
  let x0 := stopeOf s st
  let legal := onlyFields w [pTgt2, pTaTb, pAcc, pMRs, pSa, pMode] && tgtOk w && saOk w &&
    (bit (mTgt w) 0 || decide (mTa w = 0)) && (bit (mTgt w) 1 || decide (mTb w = 0))
  issue s st ag w op plain (if legal then feedFloor x0 w else 0)
    (if legal then feedAdmits x0 w column else always) (fun t c => crewOnly ag (
    if legal then
      let x := stopeOf t st
      let k := agentOf x ag
      match (targets w).findSome? (streamFault x k w column c) with
      | some code => .trapAfter (putStope t st (countTurn x w column k.nextIssue c (stallOf s st))) code
      | none =>
        let y := (targets w).foldl (fun y a => startStream y k w column ag c a) (countTurn x w column k.nextIssue c (stallOf s st))
        let rel := (targets w).foldl (fun m a => max m (streamReady x k w column c a)) k.relPoint
        .done (putStope t st (modAgent y ag (fun k => { k with relPoint := rel }))) (.seq 1)
    else .trapOpen fcIllegalOp))

/-- MFWD (R51 to R53, R61). -/
def execMfwd (st ag : Nat) (w : Word64) (s : State) : Answer := .next (streamOp st ag w 0x33 false s)

/-- MSTRT (R54, R55). -/
def execMstrt (st ag : Nat) (w : Word64) (s : State) : Answer := .next (streamOp st ag w 0x34 true s)

/-! ### Accumulator instructions (R63 to R65) -/

/-- The crew ports of the named arrays are free from this cycle. -/
def portFloor (x : Stope) (w : Word64) : Nat := (targets w).foldl (fun m a => max m (arrOf x a).portFree) 0

/-- The cycles that a crew able to issue from `first` on waited for a crew port count as accumulator-port stall (R64). -/
def countPort (x : Stope) (w : Word64) (first : Nat) (counted : Nat → Nat) : Stope :=
  (targets w).foldl (fun x a => modArr x a (fun r =>
    { r with stallPort := r.stallPort + counted (r.portFree - max first r.portSince) })) x

/-- The crew ports are taken for n cycles from c (R64). -/
def takePort (x : Stope) (w : Word64) (c n : Nat) : Stope :=
  (targets w).foldl (fun x a => modArr x a (fun r => { r with
    portFree := c + n, portSince := if r.portFree = c then r.portSince else c })) x

/-- An accumulator instruction over rows [row, row + n) of the named arrays, its port busy for `busy` cycles. -/
def accOp (st ag : Nat) (w : Word64) (op : Nat) (legal : Bool) (n busy : Nat)
    (eff : State → Crew → Nat → Nat → State) (s : State) : State :=
  let x0 := stopeOf s st
  issue s st ag w op plain (if legal then portFloor x0 w else 0) always (fun t c => crewOnly ag (
    if legal then
      let k := crewOf t st ag
      let row := accRowOf k w
      let waited := fun (x : Stope) => countPort x w k.nextIssue (stallOf s st)
      if 2048 < row + n then .trapAfter (modStope t st waited) fcArrayRange
      else .done (eff (modStope t st (fun x => takePort (waited x) w c busy)) k row c) (.seq 1)
    else .trapOpen fcIllegalOp))

/-- The one array that TGT 0b01 or 0b10 names. -/
def oneTarget (w : Word64) : Nat := if mTgt w = 1 then 0 else 1

/-- Legal ARD and AWR words: one array (R64, R429). -/
def rowWordOk (w : Word64) : Bool :=
  onlyFields w [pTgt2, pAcc, pMRs, pSa, pVr] && saOk w && decide (mTgt w = 1 ∨ mTgt w = 2)

/-- ARD: the row as it stood before any write of the same cycle (R64, R65, R347; DEDUCED, log 10). -/
def execArd (st ag : Nat) (w : Word64) (e : Ecc) (s : State) : Answer :=
  .next (accOp st ag w 0x35 (rowWordOk w) 1 1 (fun t k row c =>
    if e = .bad then
      faultEvent t st ag fcStoreUncorr (accAddr st (oneTarget w) row) 0 k.tag k.epoch
    else
      let v := (accBefore (arrOf (stopeOf t st) (oneTarget w)) row c).toNat
      storeRead (startWrites t st ag c [(4, .reg (.v (mVr w)) (v % 2 ^ 4096) (ones 4096)),
        (4, .reg (.v ((mVr w + 1) % 32)) (v / 2 ^ 4096) (ones 4096))]) e) s)

/-- AWR (R64, R65). -/
def execAwr (st ag : Nat) (w : Word64) (s : State) : Answer :=
  .next (accOp st ag w 0x36 (rowWordOk w) 1 1 (fun t k row c =>
    startWrites t st ag c [(2, .acc (oneTarget w) row
      ((vReg k (mVr w)).toNat + (vReg k ((mVr w + 1) % 32)).toNat * 2 ^ 4096))]) s)

/-- The writes of an ACLR: four rows a cycle (R64). -/
def clearWrites (a row n : Nat) : List (Nat × Eff) :=
  (List.range ((n + 3) / 4)).map (fun j => (j + 2, Eff.clear a (row + 4 * j) (min 4 (n - 4 * j))))

/-- ACLR (R64). -/
def execAclr (st ag : Nat) (w : Word64) (s : State) : Answer :=
  let n := mN w + 1
  let busy := (n + 3) / 4
  .next (accOp st ag w 0x37 (onlyFields w [pTgt2, pAcc, pMRs, pSa, pN] && saOk w && tgtOk w) n busy (fun t _ row c =>
    startWrites t st ag c ((targets w).flatMap (fun a => clearWrites a row n))) s)

/-! ### HOIST (R210 to R214) -/

/-- HOIST hands over its rows; it waits at issue while 16 are queued or in progress (R210, R211, R214). -/
def execHoist (st ag : Nat) (w : Word64) (s : State) : Answer :=
  .next (issue s st ag w 0x38 (fun _ => { xfer := true }) 0 always (fun t c => crewOnly ag (
    if onlyFields w [pTgt2, pAcc, pMRs, pSa, pVr, pN] && saOk w && tgtOk w then
      let x := stopeOf t st
      let k := agentOf x ag
      let row := accRowOf k w
      let h := (sReg k (mVr w)).toNat
      if 2048 < row + mN w + 1 then .trapOpen fcArrayRange
      else if 16 ≤ x.hoists.length then .held
      else .done (putStope t st { x with
        hoists := x.hoists ++ [
          { crew := ag, slot := bits h 0 8, q := bits h 8 6, offset := bits h 16 32,
            rel := max (c + 1) k.relPoint, arrays := targets w, row := row, rows := mN w + 1, tag := k.tag, seq := x.hoistSeq }]
        hoistSeq := x.hoistSeq + 1 }) (.seq 1)
    else .trapOpen fcIllegalOp)))

end Sys2Proof.Machine
end

