-- ==== Sys2Proof/Machine/Control.lean ====
section
/-! DEFINITION. Branches, hardware loops, FENCE and HALT (R107, R117 to R120, R123). -/

namespace Sys2Proof.Machine

/-- BR (R107, R117; DEDUCED, log 11). -/
def execBr (st ag : Nat) (w : Word64) (s : State) : Answer :=
  .next (issue s st ag w 0x40 plain 0 always (fun t _ =>
    if onlyFields w [pA, pB, pCond, pTgt] && decide (bCond w ≠ 7) then
      let k := crewOf t st ag
      .done t (if condHolds (bCond w) (sReg k (fA w)) (sReg k (fB w)) then .jump (bTgt w) else .seq 1)
    else .trapOpen fcIllegalOp))

/-- CALL: Sa gets PC + 1 at issue + 1; at word 32,767 that is 32,768 (R107, R117; DESIGN CHOICE, log 8). -/
def execCall (st ag : Nat) (w : Word64) (s : State) : Answer :=
  .next (issue s st ag w 0x41 plain 0 always (fun t c =>
    if onlyFields w [pA, pTgt] then
      .done (startWrites t st ag c [(1, writeS (fA w) (BitVec.ofNat 64 ((crewOf t st ag).pc + 1)))]) (.jump (bTgt w))
    else .trapOpen fcIllegalOp))

/-- RET (R107, R117). -/
def execRet (st ag : Nat) (w : Word64) (s : State) : Answer :=
  .next (issue s st ag w 0x42 plain 0 always (fun t _ =>
    if onlyFields w [pA] then .done t (.jump ((sReg (crewOf t st ag) (fA w)).toNat % 2 ^ 15))
    else .trapOpen fcIllegalOp))

/-- LOOP (R118). -/
def execLoop (st ag : Nat) (w : Word64) (s : State) : Answer :=
  .next (issue s st ag w 0x43 plain 0 always (fun t _ => crewOnly ag (
    if onlyFields w [pLvl, pTgt] then
      let k := crewOf t st ag
      let n := (lcReg k (bLvl w)).toNat
      if bLvl w ≠ k.loops.length ∨ bTgt w ≤ k.pc ∨ 4 ≤ k.loops.length then .trapOpen fcLoopNest
      else if n = 0 then .done t (.skip (bTgt w))
      else .done (modCrew t st ag (fun k => { k with
        loops := { start := k.pc + 1, stop := bTgt w, remaining := n, index := 0 } :: k.loops })) (.seq 1)
    else .trapOpen fcIllegalOp)))

/-- SLC (R107). -/
def execSlc (st ag : Nat) (w : Word64) (s : State) : Answer :=
  .next (issue s st ag w 0x44 plain 0 always (fun t c => crewOnly ag (
    if onlyFields w [pLvl, pA] then
      .done (startWrites t st ag c
        [(1, .reg (.lc (bLvl w)) ((sReg (crewOf t st ag) (fA w)).toNat % 2 ^ 32) (ones 32))]) (.seq 1)
    else .trapOpen fcIllegalOp)))

/-- LIX: 0 on a level with no active loop (R119). -/
def execLix (st ag : Nat) (w : Word64) (s : State) : Answer :=
  .next (issue s st ag w 0x45 plain 0 always (fun t c => crewOnly ag (
    if onlyFields w [pLvl, pA] then
      let i := match loopAt (crewOf t st ag) (bLvl w) with | some l => l.index | none => 0
      .done (startWrites t st ag c [(1, writeS (fA w) (BitVec.ofNat 64 i))]) (.seq 1)
    else .trapOpen fcIllegalOp)))

/-- FENCE: one issue cycle with no swap pending, otherwise the crew is held at it (R122, R123). -/
def execFence (st ag : Nat) (w : Word64) (s : State) : Answer :=
  .next (issue s st ag w 0x46 plain 0 always (fun t _ => crewOnly ag (
    if onlyFields w [pTgt] then
      if (stopeOf t st).swapPending then
        .done (modCrew t st ag (fun k => { k with state := .fenced, fenceTgt := bTgt w })) .stay
      else .done t (.seq 1)
    else .trapOpen fcIllegalOp)))

/-- HALT: a crew becomes idle; an overman is halted (R107, R135). -/
def execHalt (st ag : Nat) (w : Word64) (s : State) : Answer :=
  .next (issue s st ag w 0x47 plain 0 always (fun t _ =>
    if onlyFields w [] then
      .done (modCrew t st ag (fun k => { k with state := if ag = 16 then .stopped else .idle })) (.seq 1)
    else .trapOpen fcIllegalOp))

end Sys2Proof.Machine
end

