-- ==== Sys2Proof/Machine/TallyOps.lean ====
section
/-! DEFINITION. Tallies: the tally instructions (R170, R171), signals, waits and their withdrawal (R171 to R176, R183),
clock-gated sleep (R180, R181). -/

namespace Sys2Proof.Machine

/-! ### TSIG (R170, R171) -/

/-- Legal fields of TSIG, TTAKE, TWATCH: the count comes from NI or from Sa (R106). -/
def countFields (w : Word64) : List (Nat × Nat) := [pSc, pNum, pNs] ++ (if yNs w then [pYA] else [pNi])

/-- TSIG: the signal waits for its release point; the agent goes on at issue + 1 (R170, R171). -/
def execTsig (st ag : Nat) (w : Word64) (s : State) : Answer :=
  .next (issue s st ag w 0x50 plain 0 always (fun t c =>
    if onlyFields w (pSub :: countFields w) && decide (fSub w ≤ 1) && tallyOk w then
      let k := crewOf t st ag
      let sc := scopeOf (ySc w)
      .done { t with signals := t.signals ++ [
        { st := st, ag := ag, rel := max (c + 1) k.relPoint, sc := sc, unit := scopeUnit sc st, num := yNum w,
          sub := decide (fSub w = 1), n := tallyN k w, tag := k.tag, epoch := k.epoch }] } (.seq 1)
    else .trapOpen fcIllegalOp))

/-- A signal's release point is fixed by the clock: no stope's stopped clock keeps it from coming (R67; DESIGN CHOICE, log 1).
-/
def signalDue (s : State) (g : Signal) : Bool :=
  decide (g.ag = 16) || !(stopeOf s g.st).clk.stopped || decide (g.rel ≤ (stopeOf s g.st).clk.base)

/-- The device cycle of a signal's release point. -/
def signalTime (s : State) (g : Signal) : Nat := if g.ag = 16 then g.rel else dueAt (stopeOf s g.st).clk g.rel

/-- The oldest pending signal of each listed agent, and the signals left. -/
def takeSignals : List (Nat × Nat) → List Signal → List Signal × List Signal
  | [], ps => ([], ps)
  | a :: as, ps =>
    match ps.find? (fun g => decide (g.st = a.1 ∧ g.ag = a.2)) with
    | none => takeSignals as ps
    | some g =>
      let r := takeSignals as (ps.erase g)
      (g :: r.1, r.2)

/-- What a signal brings to its tally. -/
def sigIn (g : Signal) : SigIn :=
  { sub := g.sub, n := g.n,
    by' := { source := if g.ag = 16 then 1 else 0, unit := g.st, crew := if g.ag = 16 then 0 else g.ag, tag := g.tag, epoch := g.epoch } }

/-- The tallies that signals name, each once. -/
def tallyNames (gs : List Signal) : List (Scope × Nat × Nat) := (gs.map (fun g => (g.sc, g.unit, g.num))).eraseDups

/-- TSIG_EFFECT: the oldest pending signal of each listed agent reaches its tally in one cycle, every write of its release point
having landed (R171 to R173; DESIGN CHOICE, log 43; DEDUCED, log 47). -/
def execTsigEffect (agents : List (Nat × Nat)) (s : State) : Answer :=
  let r := takeSignals agents s.signals
  if r.1 = [] ∨ r.1.any (fun g => !signalDue s g) then .next s
  else
    let t := advance s (r.1.foldl (fun m g => max m (signalTime s g)) 0)
    let t := (r.1.map (·.st)).eraseDups.foldl settle { t with signals := r.2 }
    .next ((tallyNames r.1).foldl (fun t k =>
      signalTally t k.1 k.2.1 k.2.2 ((r.1.filter (fun g => decide ((g.sc, g.unit, g.num) = k))).map sigIn)) t)

/-! ### Waits (R170, R173 to R176) -/

/-- TTAKE and TWATCH: the wait sets out and the crew is descheduled at its word (R124, R173). -/
def waitOp (st ag : Nat) (w : Word64) (op : Nat) (take : Bool) (s : State) : State :=
  issue s st ag w op plain 0 always (fun t _ => crewOnly ag (
    if onlyFields w (countFields w) && tallyOk w then
      let sc := scopeOf (ySc w)
      .done (modCrew t st ag (fun k => { k with
        state := .waiting
        wait := some { sc := sc, unit := scopeUnit sc st, num := yNum w, n := tallyN k w, take := take,
                       issued := t.now, phase := .travelling } })) .stay
    else .trapOpen fcIllegalOp))

/-- TTAKE (R170). -/
def execTtake (st ag : Nat) (w : Word64) (s : State) : Answer := .next (waitOp st ag w 0x51 true s)
/-- TWATCH (R170). -/
def execTwatch (st ag : Nat) (w : Word64) (s : State) : Answer := .next (waitOp st ag w 0x52 false s)

/-- Ready cycle of a TREAD by scope (R170, R183). -/
def treadLatency (sc : Scope) : Nat := match sc with | .stope => 2 | .level => 48 | .device => 200

/-- TREAD: the count into Sa; the value is the one held at issue, before what reaches the tally in that cycle (R170, R173;
DEDUCED, log 10). -/
def execTread (st ag : Nat) (w : Word64) (s : State) : Answer :=
  .next (issue s st ag w 0x53 plain 0 always (fun t c =>
    if onlyFields w [pSc, pNum, pYA] && tallyOk w then
      let sc := scopeOf (ySc w)
      .done (startWrites t st ag c [(treadLatency sc, writeS (yA w)
        (BitVec.ofNat 64 (treadCount t (tallyOf t sc (scopeUnit sc st) (yNum w)))))]) (.seq 1)
    else .trapOpen fcIllegalOp))

/-- A block of tallies: a stope's, a level's, a headframe's (R168, R175). -/
def sameBlock (sc sc' : Scope) (unit unit' num num' : Nat) : Bool :=
  decide (sc = sc' ∧ unit = unit') && (decide (sc ≠ .device) || decide (num / 512 = num' / 512))

/-- A signal that the same crew sent to the same block before its wait has not arrived (R17). -/
def signalAhead (s : State) (st cr : Nat) (w : Wait) : Bool :=
  s.signals.any (fun g => decide (g.st = st ∧ g.ag = cr) && sameBlock g.sc w.sc g.unit w.unit g.num w.num &&
    signalDue s g && decide (signalTime s g ≤ w.issued))

/-- TALLY_WAIT_ARRIVAL: the wait joins the list, at the earliest the cycle after its issue, and the block scans once for the
cycle; a wait for 0 is released at once (R17, R170, R173, R174, R183). -/
def execTallyWaitArrival (st cr : Nat) (s : State) : Answer :=
  match (crewOf s st cr).wait with
  | none => .next s
  | some w =>
    if w.phase ≠ .travelling ∨ signalAhead s st cr w then .next s
    else
      let t := advance s (w.issued + 1)
      if w.n = 0 then
        .next (modWait t st cr (fun w => { w with phase := .released, due := max (t.now + 1) (w.issued + satisfiedLatency w.sc) }))
      else .next (joinTally t w.sc w.unit w.num { st := st, cr := cr, n := w.n, take := w.take, arrived := t.now })

/-! ### Sleep and bell lines (R127, R180 to R182) -/

/-- A crew that lets its stope sleep (R127): a waiting one waits on a level or device tally. -/
def restful (c : Crew) : Bool :=
  match c.state with
  | .running => false
  | .waiting => (match c.wait with | some w => decide (w.sc ≠ .stope) | none => false)
  | _ => true

/-- R127's condition. -/
def mayGate (x : Stope) : Bool := (List.range 16).all (fun ag => restful (agentOf x ag))

/-- STOPE_SLEEP: R127's condition has held for 16 consecutive cycles. The counted clock stops, and what is in flight stands still
with it; the cycle stamp, the tally block, the tram and the overman go on (R127, R180; DESIGN CHOICE, log 39; DEDUCED, log 50). -/
def execStopeSleep (st : Nat) (s : State) : Answer :=
  let x := stopeOf s st
  if mayGate x ∧ x.gated = false ∧ stopeAbsent s st = false then
    let t := markHold (settle (advance s (x.awakeAt + 16)) st) st
    let t := modStope t st (fun x => restartClk { x with gated := true, gatedAt := t.now } t.now)
    .next (traceOpen t st 0x0040 0 0 0)
  else .next s

/-! ### Release (R177, R183) -/

/-- The crew's wait ends and the crew goes on past its TTAKE or TWATCH; its cycles of tally-wait are counted. -/
def endWait (x : Stope) (cr : Nat) (now : Nat) (off : Bool) : Stope :=
  modAgent x cr (fun c =>
    let c := countWait off now c
    let c := passWord c c.pc
    { c with wait := none, nextIssue := max c.nextIssue (cnt x.clk now + 1) })

/-- WAITER_RELEASE: the released crew becomes eligible to issue when its release has come back, its stope awake (R174, R177,
R181, R183; DESIGN CHOICE, log 43). -/
def execWaiterRelease (st cr : Nat) (s : State) : Answer :=
  let c := crewOf s st cr
  match c.wait with
  | none => .next s
  | some w =>
    if w.phase ≠ .released ∨ c.stopping ∨ c.state ≠ .waiting then .next s
    else
      let t := advance s w.due
      let t := ungate (settle t st) st (if w.sc = .stope then none else some w.sc)
      .next (modStope t st (fun x => modAgent (endWait x cr t.now (monitorOff s (stopeLevel st))) cr
        (fun c => { c with state := .running })))

/-! ### Withdrawal (R176) -/

/-- WAIT_WITHDRAWAL: a withdrawal reaches the block, the cycle after its CRSTOP at the earliest, and acts before that cycle's
scan; if the block had released the crew in an earlier cycle, the take stands. A wait still on its way is met by its withdrawal
(R176; DEDUCED, log 47). -/
def execWaitWithdrawal (st cr : Nat) (s : State) : Answer :=
  let c := crewOf s st cr
  match c.wait with
  | none => .next s
  | some w =>
    if c.stopping = false then .next s
    else
      let t := advance s (c.stopAt - 3)
      let thisCycle : Bool := match (tallyOf t w.sc w.unit w.num).visit with
        | some v => decide (v.cycle = t.now) && (v.waiters ++ v.joined).any (fun x => decide (x.st = st ∧ x.cr = cr))
        | none => false
      match w.phase with
      | .travelling => .next (setPhase t st cr .withdrawn)
      | .listed => .next (leaveTally t w.sc w.unit w.num st cr)
      | .released =>
        if thisCycle then .next (leaveTally t w.sc w.unit w.num st cr) else .next (setPhase t st cr .stands)
      | _ => .next s

/-- WITHDRAWAL_ANSWER: the answer returns within the bounds of a satisfied wait, at the least; the crew reads as stopped, its PC
at the wait or past it, not before the CRSTOP's issue + 4 (R128, R176, R183). -/
def execWithdrawalAnswer (st cr : Nat) (s : State) : Answer :=
  let c := crewOf s st cr
  match c.wait with
  | none => .next s
  | some w =>
    if c.stopping = false then .next s
    else
      let t := advance s (max c.stopAt (c.stopAt - 4 + satisfiedLatency w.sc))
      let t := ungate (settle t st) st none
      let off := monitorOff s (stopeLevel st)
      let halt := fun (c : Crew) => { c with state := .stopped, wasState := .waiting, stopping := false, wait := none }
      match w.phase with
      | .withdrawn => .next (modStope t st (fun x => stirred (modAgent x cr (fun c => halt (countWait off t.now c))) t.now))
      | .stands => .next (modStope t st (fun x => stirred (modAgent (endWait x cr t.now off) cr halt) t.now))
      | _ => .next s

/-! ### Register writes (R173) -/

/-- The tally block is out of reset: a level's while its core is, the device tallies' while the headframes are powered (R37, R403, R411).
-/
def tallyLive (s : State) (sc : Scope) (unit : Nat) : Bool :=
  match sc with | .stope => !levelHeld s (stopeLevel unit) | .level => !levelHeld s unit | .device => headsUp s

/-- TALLY_COUNT_WRITE: the count is set, no flag, before the signals of the cycle, and the block scans (R173, R178). -/
def execTallyCountWrite (sc : Scope) (unit num : Nat) (v : Word32) (s : State) : Answer :=
  if unit < tallyUnits sc ∧ num < tallyCount sc ∧ tallyLive s sc unit then .next (writeCount s sc unit num v.toNat) else .next s

end Sys2Proof.Machine
end

