-- ==== Sys2Proof/Machine/Stacks.lean ====
section
/-! DEFINITION. The stack controllers: commit granules and the gob (R278 to R281), the stage copy of a snapshot
(R379), poisoned words (R355), and the one way by which a write reaches a physical address. -/

namespace Sys2Proof.Machine

/-! ### Commit regions and gobs (R278, R279) -/

/-- Striped-view address of HBM data offset o of stack k (R27). -/
def stripedAddr (k o : Nat) : Nat := 2 ^ 40 + (o / 4096 * 16 + k) * 4096 + o % 4096

/-- A range of either view holds data offset o of stack k. -/
def rangeHas (base size k o : Nat) : Bool :=
  decide (base ≤ hbmAddr k o ∧ hbmAddr k o < base + size) || decide (base ≤ stripedAddr k o ∧ stripedAddr k o < base + size)

/-- Region r of a pair of register tables: base and size when VALID. -/
def regionIn (bases sizes : Tab Word64) (r : Nat) : Option (Nat × Nat) :=
  let b := (tget bases 0 r).toNat
  if bit b 63 then some (bits b 0 48, bits (tget sizes 0 r).toNat 0 40) else none

/-- Data offset o of stack k lies in a commit granule of the regions in effect (R278). -/
def commitGranule (s : State) (k o : Nat) : Bool :=
  (List.range 16).any (fun r =>
    match regionIn s.rnd.liveBase s.rnd.liveSize r with
    | some (b, n) => rangeHas b n k (o / 4096 * 4096)
    | none => false)

/-- Bytes that a gob of capacity c spans (R279). -/
def gobSpan (c : Nat) : Nat := 4112 * c

/-- Data offset o of stack k lies in the gob in effect (R279). -/
def inGob (s : State) (k o : Nat) : Bool :=
  let x := stackOf s k
  decide (x.gobBase ≤ o ∧ o < x.gobBase + gobSpan x.gobCap)

/-- Address pa lies in a gob. -/
def gobAt (s : State) (pa : Nat) : Bool := match locate s pa with | .hbm k o => inGob s k o | _ => false

/-- The n bytes from pa meet a gob, granule by granule (R279). A gob is longer than a granule, so each part's ends show it. -/
def gobIn (s : State) (pa n : Nat) : Bool :=
  (List.range ((pa % 4096 + n + 4095) / 4096)).any (fun i =>
    let a := max pa ((pa / 4096 + i) * 4096)
    let b := min (pa + n) ((pa / 4096 + i + 1) * 4096)
    gobAt s a || gobAt s (b - 1))

/-- Writers whose writes pass through the gob (R258, R280; DEDUCED, log 45). -/
def passesGob (s : State) (who : Writer) : Bool :=
  match who with
  | .tram st => !isReserved s st
  | .hoist => true
  | .sieve => true
  | _ => false

/-- The lowest place of a gob that no saved granule holds. -/
def freePlace (x : Stack) : Nat :=
  ((List.range (x.saved.length + 1)).find? (fun i => x.saved.all (fun v => decide (v.slot ≠ i)))).getD 0

/-- A write of round rnd comes after the round's commit notice: it is not saved (R280; DEDUCED, log 45). -/
def afterCommit (x : Stack) (rnd : Nat) : Bool :=
  (match x.committed with | some r => decide (rnd ≤ r) | none => false) && !x.drops.contains rnd

/-- The granule at offset o is saved before the round's first write to it; none when the gob is full (R280, R281; DEDUCED, log
45). -/
def saveGranule (s : State) (k o rnd : Nat) : Option State :=
  let x := stackOf s k
  let g := o / 4096 * 4096
  if commitGranule s k g = false ∨ afterCommit x rnd ∨ x.saved.any (fun v => decide (v.offset = g ∧ v.round = rnd)) then some s
  else if x.gobCap ≤ x.saved.length then none
  else
    let i := freePlace x
    let entry := sideEntry s (hbmAddr k g)
    let s := modStack s k (fun x => { x with saved := x.saved ++ [{ slot := i, offset := g, round := rnd }] })
    some (writeCells s
      (cellsAt (hbmAddr k (x.gobBase + 4096 * i)) ((List.range 4096).map (fun j => cellAt s.mem (hbmAddr k (g + j)))) ++
       cellsAt (hbmAddr k (x.gobBase + 4096 * x.gobCap + 16 * i)) (toBytes 8 g ++ toBytes 8 entry.toNat)))

/-! ### Staging (R378, R379, R387) -/

/-- Segments of a region list (R376). -/
def segCount (rs : List (Nat × Nat)) : Nat := rs.foldl (fun n r => n + (r.2 + 2 ^ 26 - 1) / 2 ^ 26) 0

/-- SNP_LAST (R397). -/
def snapLast (result : Nat) (isRestore : Bool) (slot seg : Nat) : Word64 :=
  BitVec.ofNat 64 (result + b2n isRestore * 2 ^ 8 + slot * 2 ^ 9 + seg % 2 ^ 24 * 2 ^ 16)

/-- A snapshot operation ends with a result, in SNP_LAST and in SNAP_NOTE; NVMe commands of it that are still outstanding are aborted (R373,
R387, R396; DEDUCED, log 49). -/
def snapEnd (s : State) (result seg : Nat) : State :=
  let n := s.snap
  let s := { s with snap := { n with
    op := 0, last := snapLast result n.isRestore n.slot seg, todo := [], staged := [], segs := [], old := {}, phase := 1, waits := [], restarted := false
    segTodo := [], mismatched := [] } }
  postNotes s 0x61 (toBytes 2 (result + b2n n.isRestore * 2 ^ 8 + n.slot * 2 ^ 9) ++ toBytes 6 n.round ++
    toBytes 4 (segCount n.regions) ++ toBytes 4 n.skipped ++ toBytes 8 n.written ++ toBytes 4 seg ++ [0, 0, 0, 0])

/-- A quench, a link loss or safe halt ends an unfinished drain; only after a failover restart is a note posted (R383, R387; DEDUCED, log
49). -/
def snapAbort (s : State) : State :=
  if s.snap.op ≠ 3 then s
  else
    let t := snapEnd s 1 0
    if s.snap.restarted then t else { s with snap := t.snap }

/-- A failover restarts the drain from step 2 into the same slot, the stage intact (R383). -/
def restartDrain (s : State) : State :=
  if s.snap.op = 3 then { s with snap := { s.snap with segs := [], digested := 0, written := 0, skipped := 0, phase := 2, waits := [], restarted := true } }
  else s

/-- Round r has been decided and no backfill runs (R378). -/
def decidedBy (s : State) (r : Nat) : Bool :=
  (decide (r < s.rnd.round) || (decide (r = s.rnd.round) && s.rnd.decided)) && !s.rnd.backfill

/-- The stacks start copying at the decision of the snapshot's round, after any backfill; its ROUND is the last committed one of that moment
(R378). -/
def beginStaging (s : State) : State :=
  if s.snap.op = 1 ∧ decidedBy s s.snap.atRound then
    { s with snap := { s.snap with op := 2, round := s.rnd.lastCommit, committed := decide (s.rnd.lastCommit = s.snap.atRound) } }
  else s

/-! ### Reads (R346, R347, R351) -/

/-- A fault record whose ARG0 and ARG1 the spec does not lay down: free values (R349; DESIGN CHOICE, log 13). -/
def logOpen (s : State) (r : FaultRec) : State :=
  logFault (useFree s 2) { r with arg0 := freeAt s 0, arg1 := freeAt s 1 }

/-- Pseudo-channel of a data offset (R29). -/
def pcOf (o : Nat) : Nat := o / 1024 % 32

/-- The hour of the device's stamp (R351; DEDUCED, log 36). -/
def hourOf (s : State) : Nat := s.now / 3600000000000

/-- The count of pseudo-channel pc over the last 24 hours, in one-hour steps (R351; DEDUCED, log 36). -/
def dayCount (s : State) (t : Tab Nat) (pc : Nat) : Nat :=
  (List.range (min 24 (hourOf s + 1))).foldl (fun n j => n + tget t 0 (32 * (hourOf s - j) + pc)) 0

/-- One more in the current hour. -/
def dayAdd (s : State) (t : Tab Nat) (pc : Nat) : Tab Nat :=
  tset t 0 (32 * hourOf s + pc) (tget t 0 (32 * hourOf s + pc) + 1)

/-- The times of a list that lie within the last 24 hours, in one-hour steps (R351; DEDUCED, log 36). -/
def dayTimes (s : State) (ts : List Nat) : List Nat := ts.filter (fun t => decide (hourOf s < t / 3600000000000 + 24))

/-- One corrected error counted against a pseudo-channel; the 65th in the window is recorded (R346, R348, R351). -/
def countCorrected (s : State) (k pc : Nat) : State :=
  let s := modStack s k (fun x => { x with corrected := satAdd 32 x.corrected 1, pcCorr := dayAdd s x.pcCorr pc })
  if dayCount s (stackOf s k).pcCorr pc = 65 then logOpen s { code := 0x0301, source := 9, unit := k, phys := k + pc * 16 } else s

/-- What a read of a word of HBM pseudo-channel pc of stack k met (R346). -/
def hbmEcc (s : State) (k pc : Nat) (e : Ecc) : State :=
  match e with
  | .clean => s
  | .corrected => countCorrected s k pc
  | .cured => { s with flt := { s.flt with memCured := satAdd 16 s.flt.memCured 1 } }
  | .bad => modStack s k (fun x => { x with pcBad := dayAdd s x.pcBad pc })

/-- The counts of a read at address pa (R346, R347). -/
def readEcc (s : State) (pa : Nat) (e : Ecc) : State :=
  match locate s pa with
  | .hbm k o => hbmEcc s k (pcOf o) e
  | .store .. => storeRead s e
  | .acc .. => storeRead s e
  | _ => s

/-- The code with which a read of n bytes from pa fails, if it does: MEM_UNCORR for HBM, STORE_UNCORR for a stope store
or accumulator memory (R148, R355). -/
def readFault (s : State) (pa n : Nat) (e : Ecc) : Option Nat :=
  match locate s pa with
  | .hbm .. => if e = .bad ∨ poisoned s pa n then some 0x0302 else none
  | .store .. => if e = .bad then some fcStoreUncorr else none
  | .acc .. => if e = .bad then some fcStoreUncorr else none
  | _ => none

/-! ### Staging of granules (R378, R379) -/

/-- The stack controller copies granule (k, o) with its sidecar entry into the stage; an uncorrectable granule ends the snapshot. The read
meets `ecc` in the granule's pseudo-channel number i (R29, R346, R378, R379). -/
def stageGranule (s : State) (k o i : Nat) (ecc : Ecc) : State :=
  let g := o / 4096 * 4096
  let pc := pcOf (g + 1024 * i)
  let s := hbmEcc s k pc ecc
  if ecc = .bad ∨ poisoned s (hbmAddr k g) 4096 then
    snapEnd (logOpen s { code := fcMemUncorr, source := 9, unit := k, phys := k + pc * 16, action := 1 }) 4 0
  else
    let cells := cellsAt (hbmAddr k g) ((List.range 4096).map (fun j => cellAt s.mem (hbmAddr k (g + j))))
    { s with snap := { s.snap with
      todo := s.snap.todo.filter (fun t => decide (t ≠ (k, g)))
      staged := s.snap.staged ++ [(hbmAddr k g, cells, sideEntry s (hbmAddr k g))]
      stagedBytes := s.snap.stagedBytes + 4096 } }

/-- What a read that no command names meets: a free value (R346, R379; DESIGN CHOICE, log 31). -/
def freeEcc (v : Nat) : Ecc :=
  match v % 4 with
  | 0 => .clean
  | 1 => .corrected
  | 2 => .cured
  | _ => .bad

/-- A write that meets a granule still to stage waits for its stage copy (R379). -/
def stageAhead (s : State) (who : Writer) (k o : Nat) : State :=
  if who ≠ .migration ∧ s.snap.op = 2 ∧ s.snap.todo.contains (k, o / 4096 * 4096) then
    let t := stageGranule (useFree s 2) k o (freeAt s 0 % 4) (freeEcc (freeAt s 1))
    { t with snap := { t.snap with delayed := satAdd 32 t.snap.delayed 1 } }
  else s

/-! ### Writes -/

/-- The granules (stack, offset) of HBM data that a range of addresses touches. -/
def granulesOf (s : State) (pa n : Nat) : List (Nat × Nat) :=
  ((List.range ((pa % 4096 + n + 4095) / 4096)).filterMap (fun i =>
    match locate s (pa / 4096 * 4096 + 4096 * i) with
    | .hbm k o => some (k, o)
    | _ => none))

/-- A poisoned word that a write of n bytes from pa replaces whole loses its poison, but in the granules that were not written (R281,
R355). -/
def cleanse (s : State) (pa n : Nat) (left : List (Nat × Nat)) : State :=
  ((granulesOf s pa n).filter (fun g => !left.contains g)).foldl (fun s g =>
    modStack s g.1 (fun x => { x with poison := x.poison.filter (fun w =>
      !((List.range 32).all (fun i => rangeHas pa n g.1 (32 * w + i)))) })) s

/-- A stack's gob was full for a write of round rnd: that round will drop; RND_STAT shows it in the round in progress (R281, R282;
DEDUCED, log 45). -/
def noteFull (s : State) (rnd : Nat) : State :=
  { s with rnd := { s.rnd with
      gobFull := s.rnd.gobFull || decide (rnd = s.rnd.round), fullRounds := if s.rnd.fullRounds.contains rnd then s.rnd.fullRounds else rnd :: s.rnd.fullRounds } }

/-- One granule of HBM data is made ready for a write: staged, then saved; true when its gob was full (R281; DEDUCED, log 45).
-/
def readyGranule (who : Writer) (rnd : Nat) (r : State × List (Nat × Nat)) (g : Nat × Nat) : State × List (Nat × Nat) :=
  let s := stageAhead r.1 who g.1 g.2
  if passesGob s who then
    match saveGranule s g.1 g.2 rnd with
    | some t => (t, r.2)
    | none => (noteFull s rnd, r.2 ++ [g])
  else (s, r.2)

/-- The bytes bs reach physical addresses from pa: HBM through its stack controllers, the rest as it stands. Answers the
granules that met a full gob; their part of the bytes is not written (R280, R281; DEDUCED, log 45). -/
def physWrite (s : State) (who : Writer) (rnd pa : Nat) (bs : List Byte) : State × List (Nat × Nat) :=
  let s := match locate s pa with | .store st _ => settle s st | _ => s
  let r := (granulesOf s pa bs.length).foldl (readyGranule who rnd) (s, [])
  let s := cleanse r.1 pa bs.length r.2
  let cells := (cellsAt pa bs).filter (fun c =>
    match locate s c.1 with
    | .hbm k o => !r.2.contains (k, o / 4096 * 4096)
    | _ => true)
  (writeCells s (cells.map (fun c => (homeAddr s c.1, c.2))), r.2)

/-- A sidecar entry is written; in HBM it is part of its granule's state and is saved with it (R280). -/
def physEntry (s : State) (who : Writer) (rnd pa : Nat) (e : Word64) : State × List (Nat × Nat) :=
  let r := (granulesOf s pa 1).foldl (readyGranule who rnd) (s, [])
  (if r.2 = [] then putSideEntry r.1 pa e else r.1, r.2)

/-- The entry with PRESENT = 0 is written (DEDUCED, log 46). -/
def physAbsent (s : State) (who : Writer) (rnd pa : Nat) : State × List (Nat × Nat) :=
  physEntry s who rnd pa (sideEntry s pa &&& ~~~ (BitVec.ofNat 64 (2 ^ 55)))

/-- Writers that do command work: a write of theirs into a gob is refused (R279). -/
def commandWork (who : Writer) : Bool :=
  match who with
  | .tram _ => true
  | .hoist => true
  | .sieve => true
  | _ => false

/-- The foreman reaches sieve side memory too; no other writer named here does (R195, R428; DEDUCED, log 46). -/
def takesBytes (s : State) (who : Writer) (pa : Nat) : Bool :=
  mayWrite s pa || (decide (who = .foreman) && (match locate s pa with | .sieve _ _ => true | _ => false))

/-- A foreman access of n bytes of a level's side memory takes its port first, one row a cycle: a busy sieve's row is due that much
later (R195; DESIGN CHOICE, log 48). -/
def sidePort (s : State) (who : Writer) (pa n : Nat) : State :=
  match who, locate s pa with
  | .foreman, .sieve l _ =>
    let k := (pa % 16 + n + 15) / 16
    modLevel s l (fun x => if x.sieve.busy then
      { x with sieve := { x.sieve with rowAt := x.sieve.rowAt + k, stallSide := x.sieve.stallSide + (if monitorOff s l then 0 else k) } } else x)
  | _, _ => s

/-- The granules that a write of n bytes from pa meets take PRESENT = 0, each at its first byte's address (R247, R309; DEDUCED, log 46). -/
def absentUnder (s : State) (who : Writer) (pa n : Nat) : State :=
  (List.range ((pa % 4096 + n + 4095) / 4096)).foldl (fun s i => (physAbsent s who 0 (pa / 4096 * 4096 + 4096 * i)).1) s

/-- A valid, writable command-buffer window maps n bytes from pa (R309). -/
def windowMaps (s : State) (pa n : Nat) : Bool :=
  (List.range 15).any (fun w =>
    let v := (tget s.ep.cbw 0 w).toNat
    let base := bits v 20 28 * 2 ^ 20
    bit v 0 && bit v 1 && decide (base ≤ pa ∧ pa + n ≤ base + 2 ^ 20) && (match locate s base with | .hbm .. => true | _ => false))

/-- Every part of n bytes from pa, granule by granule, meets p; holes and regions begin and end at granules. -/
def wholly (p : Nat → Bool) (pa n : Nat) : Bool :=
  (List.range ((pa % 4096 + n + 4095) / 4096)).all (fun i => p (max pa ((pa / 4096 + i) * 4096)))

/-- A write completes with ADDR_HOLE and transfers no data: a part of it meets a hole or a region that its writer does not reach, or,
for command work, a gob (R30, R279, R428). -/
def refusedWrite (s : State) (who : Writer) (pa n : Nat) : Bool :=
  !wholly (takesBytes s who) pa n || (commandWork who && gobIn s pa n)

/-- A write arrives with its round, whole or not at all; also the granules whose gob was full (R30, R280, R281, R428). -/
def stackArrive (s : State) (who : Writer) (rnd pa : Nat) (bs : List Byte) : State × List (Nat × Nat) :=
  if refusedWrite s who pa bs.length then (s, []) else physWrite (sidePort s who pa bs.length) who rnd pa bs

end Sys2Proof.Machine
end

