-- ==== Sys2Proof/Machine/Tram.lean ====
section
/-! DEFINITION. The trams: translation through claims (R160), tile transfers row by row (R142 to R151), TRAM
descriptors (R154 to R158), holds, resumption, quiesce (R162 to R164), the assay record update (R87, R88). -/

namespace Sys2Proof.Machine

/-! ### Fault codes (R348) -/

def fcBankBusy : Nat := 0x0203
def fcTramDesc : Nat := 0x0204
def fcTileMismatch : Nat := 0x0205
def fcTileCheck : Nat := 0x0206
def fcAssayCheck : Nat := 0x0207
def fcAssayFormat : Nat := 0x0208
def fcGobFull : Nat := 0x0303

/-! ### Claims (R160) -/

/-- The lowest-numbered valid window that covers va. -/
def claimFor (x : Stope) (va : Nat) : Option Claim :=
  (x.claims.find? (fun e => e.2.valid && decide (e.2.vbase ≤ va ∧ va < e.2.vbase + 2 ^ e.2.log2))).map (·.2)

/-- Physical address of n bytes at va, all in one window with the rights named. -/
def translate (x : Stope) (va n : Nat) (rd wr : Bool) : Option Nat :=
  match claimFor x va with
  | none => none
  | some c =>
    if (rd = true → c.rd = true) ∧ (wr = true → c.wr = true) ∧ va + n ≤ c.vbase + 2 ^ c.log2 then some (c.pbase + (va - c.vbase))
    else none

/-! ### Transfers in the tram -/

def xferOf (x : Stope) (id : Nat) : Option Xfer := x.queue.find? (fun f => decide (f.id = id))
def putXfer (x : Stope) (f : Xfer) : Stope := { x with queue := x.queue.map (fun g => if g.id = f.id then f else g) }
def dropXfer (x : Stope) (id : Nat) : Stope := { x with queue := x.queue.filter (fun g => decide (g.id ≠ id)) }
def setXfer (s : State) (st : Nat) (f : Xfer) : State := modStope s st (fun x => putXfer x f)

/-- The transfer sends entries or a record, after every row its tram has issued so far (R17). -/
def sendXfer (s : State) (st : Nat) (f : Xfer) : State :=
  modStope s st (fun x => putXfer { x with rowSeq := x.rowSeq + 1 } { f with sentSeq := x.rowSeq })

/-- A transfer is active from its start on (R152). -/
def isActive (f : Xfer) : Bool := decide (f.stage ≠ .queued)
def activeCount (x : Stope) : Nat := (x.queue.filter isActive).length

/-- A TST or TLD, or a TRAM. -/
def isTram (f : Xfer) : Bool := match f.kind with | .tram _ => true | _ => false
def isStore (f : Xfer) : Bool := match f.kind with | .tst _ => true | _ => false

/-- Source rows of a transfer. -/
def rowsOf (f : Xfer) : Nat := match f.kind with | .tram d => d.rows | _ => f.rows

/-- A TURN (R155). -/
def isTurn (f : Xfer) : Bool := match f.kind with | .tram d => decide (d.kind = 1) | _ => false

/-- Source rows whose bytes have arrived: those retired, and those of a TURN that wait for their squares (R155). -/
def gotRows (f : Xfer) : Nat := f.prog + (match f.kind with | .tram d => f.band.length / d.rowBytes | _ => 0)

/-- Scale bytes per row. -/
def bprOf (f : Xfer) : Nat := scaleBpr f.fmt f.len

/-- Fields of a shape word of a descriptor. -/
def shRows (w : Word64) : Nat := bits w.toNat 0 7
def shLen (w : Word64) : Nat := bits w.toNat 8 5 * 16
def shFmt (w : Word64) : Nat := bits w.toNat 16 5

/-- Source row r starts a tile of a tiled source; destination row r starts a tile of a tiled destination of a COPY or
FILL (R156). -/
def srcStart (f : Xfer) (r : Nat) : Bool :=
  match f.kind with | .tram d => d.srcTiled && decide (r % shRows d.srcShape = 0) | _ => false
def dstStart (f : Xfer) (r : Nat) : Bool :=
  match f.kind with
  | .tram d => d.dstTiled && (if d.kind = 1 then decide (r = 0) else decide (r % shRows d.dstShape = 0))
  | _ => false

/-- Source row r begins at this virtual address (R155, R156). -/
def srcRowVa (d : TramDesc) (r : Nat) : Nat :=
  if d.srcTiled then
    let n := shRows d.srcShape
    (d.srcVa + r / n * d.srcTPitch * 4096 + r % n * d.rowBytes) % 2 ^ 64
  else (d.srcVa + r * d.srcPitch) % 2 ^ 64

/-- Bytes of a destination row and the number of destination rows (R155). -/
def dstLen (d : TramDesc) : Nat := if d.kind = 1 then d.rows * 2 ^ d.esize else d.rowBytes
def dstRows (d : TramDesc) : Nat := if d.kind = 1 then d.rowBytes / 2 ^ d.esize else d.rows

/-- Destination row j begins at this virtual address (R155, R156). -/
def dstRowVa (d : TramDesc) (j : Nat) : Nat :=
  if d.dstTiled then
    let n := shRows d.dstShape
    (d.dstVa + j / n * d.dstTPitch * 4096 + j % n * dstLen d) % 2 ^ 64
  else (d.dstVa + j * d.dstPitch) % 2 ^ 64

/-- The parts (virtual address, bytes) that source row r reads and those it writes (R142, R155). -/
def srcParts (f : Xfer) (r : Nat) : List (Nat × Nat) :=
  match f.kind with
  | .tld => [(f.va + r * f.len, f.len)] ++ (if bprOf f = 0 then [] else [(f.va + f.rows * f.len + r * bprOf f, bprOf f)])
  | .tst _ => []
  | .tram d => if d.kind = 2 then [] else [(srcRowVa d r, d.rowBytes)]

/-- Rows of a square of a TURN: 64 / E (R155). -/
def squareRows (d : TramDesc) : Nat := 64 / 2 ^ d.esize

/-- A TURN's row r is the last of its squares, which are then written, granule by granule: their first row that is still to be
written (R155). -/
def squareFrom (f : Xfer) (d : TramDesc) (r : Nat) : Option Nat :=
  let n := squareRows d
  if (r + 1) % n = 0 then some (max (r + 1 - n) f.prog) else none

def dstParts (f : Xfer) (r : Nat) : List (Nat × Nat) :=
  match f.kind with
  | .tld => []
  | .tst _ => [(f.va + r * f.len, f.len)] ++ (if bprOf f = 0 then [] else [(f.va + f.rows * f.len + r * bprOf f, bprOf f)])
  | .tram d =>
    if d.kind = 1 then
      (match squareFrom f d r with
        | some lo => (List.range (dstRows d)).map (fun j => ((dstRowVa d j + lo * 2 ^ d.esize) % 2 ^ 64, (r + 1 - lo) * 2 ^ d.esize))
        | none => [])
    else [(dstRowVa d r, d.rowBytes)]

/-! ### Events, holds and ends -/

/-- Bits [53:48] of OVM_ECAUSE for a tile transfer (R149). -/
def tileExtra (f : Xfer) (wr : Bool) : Nat := f.tile + b2n wr * 32

/-- A report joins the command of a tag (R332). -/
def addReport (s : State) (tag kind arg : Nat) : State :=
  { s with cmds := s.cmds.map (fun c =>
      if c.tag = tag ∧ c.state ≠ .finished then
        { c with reports := if c.reports.length < 7 then c.reports ++ [(kind, arg)] else c.reports, nrep := c.nrep + 1 }
      else c) }

/-- The lowest free held slot (R158). -/
def freeSlot (x : Stope) : Option Nat := (List.range 16).find? (fun i => (tget x.heldSlots none i).isNone)

/-- A held slot is free for the transfer, if it needs one: without one it stays in the tram until a slot is freed (R158; DESIGN
CHOICE, log 14). -/
def canHold (x : Stope) (f : Xfer) : Bool := !isTram f || (freeSlot x).isSome

/-- Rows of unfinished squares are given up: they are read again (R155). -/
def dropBand (f : Xfer) : Xfer := if f.band = [] then f else { f with band := [], crc := f.bandCrc, pa0 := f.bandPa0 }

/-- The transfer leaves the tram and is held with a code, 0 for a preemption, which raises no event; the captured shape goes
with it (R140, R148, R149, R158; DEDUCED, log 14). -/
def holdXfer (s : State) (st : Nat) (f : Xfer) (code va : Nat) : State :=
  let x := dropXfer (stopeOf s st) f.id
  let recVa := match f.kind with | .tst v => v | _ => none
  let s :=
    if isTram f then
      let i := (freeSlot x).getD 0
      let g : Xfer := { dropBand f with stage := .queued, next := f.prog, flying := [], stop := false, fault := some (code, va) }
      let s := putStope s st { x with heldSlots := tset x.heldSlots none i (some g) }
      let s := traceRec s st 0x0011 f.tag f.epoch (0x20 + f.crew) (i + 256 + code * 2 ^ 16 + f.prog % 2 ^ 32 * 2 ^ 32)
      if code = 0 then s
      else
        let s := faultEvent s st f.crew code (va % 2 ^ 57) (i + 16) f.tag f.epoch
        if f.phys then markEnd s f.tag f.epoch code else s
    else
      let h : Held := { store := isStore f, recVa := recVa, check := f.check, prog := f.prog, q := f.q, va := f.va % 2 ^ 57,
                        tag := f.tag, crc := f.crc, code := code, rows := f.rows, len := f.len, fmt := f.fmt, gone := f.discard }
      let x := modAgent x f.crew (fun c => modTile c f.tile (fun y => { y with held := some h }))
      let s := traceRec (putStope s st x) st 0x0011 f.tag f.epoch (0x20 + f.crew) (f.tile + code * 2 ^ 16 + f.prog * 2 ^ 32)
      if code = 0 then s
      else faultEvent s st f.crew code (va % 2 ^ 57 + f.prog % 64 * 2 ^ 57) (tileExtra f f.faultWr) f.tag f.epoch
  recountClaim s st

/-- A fault at the row in progress: no row beyond it is issued (R148; DEDUCED, log 14). -/
def rowFault' (f : Xfer) (code va : Nat) (wr : Bool) : Xfer := { f with fault := some (code, va), faultWr := wr }

/-- A write met full gobs: GOB_FULL in RND_STAT stands already; the command's reports name each stack (R281, R332). -/
def reportGob (s : State) (tag : Nat) (full : List (Nat × Nat)) : State :=
  full.foldl (fun s g => addReport s tag 7 g.1) s

/-! ### Entries of tiles being written (R95, R146, R156) -/

/-- A stored tile may stand at pa: HBM or a stope store (R146, R93). -/
def tileHome (s : State) (pa : Nat) : Bool := match locate s pa with | .hbm .. => true | .store .. => true | _ => false

/-- The virtual addresses of the tiles whose PRESENT = 0 entry is written before row r. -/
def entryVas (f : Xfer) (r : Nat) : List Nat :=
  match f.kind with
  | .tld => []
  | .tst _ => [f.va]
  | .tram d =>
    if d.kind = 1 then (List.range (dstRows d / shRows d.dstShape)).map (fun t => dstRowVa d (t * shRows d.dstShape))
    else [dstRowVa d (r / shRows d.dstShape * shRows d.dstShape)]

/-- The first bytes of one tile row, through its claim. -/
def entryPa (s : State) (st : Nat) (f : Xfer) (va : Nat) : Option Nat :=
  let n := match f.kind with | .tram d => dstLen d | _ => f.len
  match translate (stopeOf s st) va n false true with
  | some pa => if tileHome s pa then some pa else none
  | none => none

/-- The PRESENT = 0 entries before row f.next are translated and sent; a fault holds the transfer at that row (R17, R146). -/
def beginTiles (s : State) (st : Nat) (f : Xfer) : State :=
  let go := fun (f : Xfer) (va : Nat) =>
    if f.fault.isSome then f
    else
      match entryPa s st f va with
      | none => rowFault' f fcClaimFault va true
      | some pa =>
        if gobAt s pa ∧ passesGob s (.tram st) then rowFault' f fcAddrHole va true
        else { f with pa0 := if isStore f then some pa else f.pa0, dstPa0 := some pa, turnTiles := f.turnTiles ++ [pa] }
  let g := (entryVas f f.next).foldl go { f with turnTiles := [] }
  if g.fault.isSome then setXfer s st { g with stage := .moving } else sendXfer s st { g with stage := .entry }

/-- The PRESENT = 0 entries reach their stacks; a full gob holds the transfer at the row (R146, R281). -/
def absentTiles (s : State) (st : Nat) (f : Xfer) : State :=
  let go := fun (r : State × Xfer) (e : Nat × Nat) =>
    if r.2.fault.isSome then r
    else
      let w := physAbsent r.1 (.tram st) f.round e.2
      if w.2 = [] then (w.1, r.2) else (reportGob w.1 f.tag w.2, rowFault' r.2 fcGobFull e.1 true)
  let r := ((entryVas f f.next).zip f.turnTiles).foldl go (s, { f with stage := .moving })
  setXfer r.1 st r.2

/-- The CRC-32C state of a destination tile after its shape word. -/
def dstCrcInit (d : TramDesc) : Word32 := shapeCrc (bits d.dstShape.toNat 0 21)

/-! ### Starting (R152, R157, R158) -/

/-- A shape word that a tiled side may not have (R137, R157). -/
def tiledBad (w : Word64) (rowLen pitch rows : Nat) : Bool :=
  let a := w.toNat
  shapeBad (shRows w) (bits a 8 5) (shFmt w) || bit a 7 || decide (bits a 13 3 ≠ 0) || decide (bits a 21 3 ≠ 0) ||
  decide (bits a 24 5 ≠ 0) || decide (bits a 29 35 ≠ 0) ||
  decide (shLen w ≠ rowLen) || decide (rows % shRows w ≠ 0) ||
  decide (pitch = 0) || decide (pitch * 4096 < shRows w * shLen w)

/-- R157's conditions but for program memory (DEDUCED, log 14). -/
def descBad (d : TramDesc) : Bool :=
  decide (2 < d.kind) || d.reservedSet || (decide (d.kind = 2) && d.srcTiled) || (decide (d.kind = 1) && decide (d.esize = 3)) ||
  (decide (d.kind ≠ 2) && (decide (d.srcVa % 16 ≠ 0) || decide (2 ^ 57 ≤ d.srcVa) || (!d.srcTiled && decide (d.srcPitch % 16 ≠ 0)))) ||
  decide (d.dstVa % 16 ≠ 0) || decide (2 ^ 57 ≤ d.dstVa) || (!d.dstTiled && decide (d.dstPitch % 16 ≠ 0)) ||
  (d.srcTiled && decide (d.srcVa % 64 ≠ 0)) || (d.dstTiled && decide (d.dstVa % 64 ≠ 0)) ||
  decide (d.rowBytes < 16) || decide (16777200 < d.rowBytes) || decide (d.rowBytes % 16 ≠ 0) || decide (d.rows = 0) ||
  (decide (d.kind = 1) && (decide (d.rowBytes % 64 ≠ 0) || decide (d.rows % (64 / 2 ^ d.esize) ≠ 0))) ||
  (d.srcTiled && tiledBad d.srcShape d.rowBytes d.srcTPitch d.rows) ||
  (d.dstTiled && tiledBad d.dstShape (dstLen d) d.dstTPitch (dstRows d))

/-- The program bank at pa: stope and bank (R121). -/
def progAt (s : State) (pa : Nat) : Option (Nat × Nat) := match locate s pa with | .prog t o => some (t, o / 2 ^ 18) | _ => none

/-- Bytes of a destination row that meet every 64 KiB block of it, the smallest claim window: their offsets. -/
def rowProbes (n : Nat) : List Nat := (List.range (n / 65536 + 1)).map (65536 * ·) ++ [n - 1]

/-- Physical address of one byte of a TRAM's destination: through the claims, or as it is for a dispatcher's copy (R160, R328). -/
def dstByte (x : Stope) (f : Xfer) (va : Nat) : Option Nat := if f.phys then some va else translate x va 1 false true

/-- The program banks that the probed bytes of the destination stand in, `none` for one elsewhere or without a claim (R157). -/
def dstBanks (s : State) (st : Nat) (f : Xfer) (d : TramDesc) : List (Option (Nat × Nat)) :=
  (List.range (dstRows d)).flatMap (fun j => (rowProbes (dstLen d)).map (fun o =>
    match dstByte (stopeOf s st) f ((dstRowVa d j + o) % 2 ^ 64) with
    | some a => progAt s a
    | none => none))

/-- The transfer ends unstarted, with an event whose argument the spec does not lay down; it has no held slot, and OVM_ECAUSE [53:48]
is 0 (R149, R157, R158; DESIGN CHOICE, log 13). -/
def refuseDesc (s : State) (st : Nat) (f : Xfer) (code : Nat) : State :=
  let s := xferEvent (useFree s 1) st f.crew code (freeAt s 0) 0 f.tag f.epoch
  modStope s st (fun x => dropXfer x f.id)

/-- PSWAP's request (R122): the swap is pending; CANCELLED clears (R135). -/
def requestSwap (s : State) (st : Nat) : State := modStope s st (fun x => { x with swapPending := true, cancelled := false })

/-- A dispatcher's copy has left the tram of its stope; the swap that its image asks for is requested (R326, R328). -/
def copyDone (s : State) (st : Nat) (f : Xfer) (copied : Bool) : State :=
  if f.phys then
    let swap := copied && f.swapAfter
    let s := if swap then requestSwap s st else s
    { s with cmds := s.cmds.map (fun c =>
        if c.tag = f.tag ∧ unfinished c then
          { c with awaitCopy := c.awaitCopy.erase st, awaitLoad := if swap then c.awaitLoad ++ [st] else c.awaitLoad }
        else c) }
  else s

/-- A TRAM transfer starts; the image length of a dispatcher's copy need not be a whole number of 16 bytes (R157, R158, R326, R328).
-/
def startTram (s : State) (st : Nat) (f : Xfer) (d : TramDesc) : State :=
  let begin' := fun (s : State) (f : Xfer) =>
    let f := { f with crc := if f.next = 0 then shapeCrc (bits d.srcShape.toNat 0 21) else f.crc
                      dstCrc := if f.next = 0 then dstCrcInit d else f.dstCrc }
    if f.srcOk then sendXfer s st { f with stage := .closing }
    else if d.dstTiled then beginTiles s st f
    else setXfer s st { f with stage := .moving }
  if descBad d ∧ f.phys = false then refuseDesc s st f fcTramDesc
  else
    let banks := dstBanks s st f d
    match banks.findSome? id with
    | none => begin' s f
    | some p =>
      if d.kind ≠ 0 ∨ banks.any (fun b => decide (b ≠ some p)) then refuseDesc s st f fcTramDesc
      else
        let t := stopeOf s p.1
        if t.bank = p.2 ∨ t.swapPending then copyDone (addReport (refuseDesc s st f fcBankBusy) f.tag 6 st) st f false
        else begin' s { f with progSt := some p.1 }

/-- The trams of the device issue nothing: quench or safe halt (R296, R367). -/
def tramsOff (s : State) : Bool := s.quench || s.flt.safeHalt

/-- TRAM_TRANSFER_START: the oldest queued transfer starts when one of 16 places is free and no quiesce stands (R152, R164;
DESIGN CHOICE, log 1). -/
def execTramTransferStart (st : Nat) (s : State) : Answer :=
  let s0 := settle s st
  let x := stopeOf s0 st
  match x.queue.find? (fun f => !isActive f) with
  | none => .next s
  | some f =>
    if x.quiesce ∨ 16 ≤ activeCount x ∨ tramsOff s then .next s
    else
      match f.kind with
      | .tld => .next (setXfer s0 st { f with stage := .moving })
      | .tst _ =>
        if f.rows ≤ f.next then
          -- every row stands: the final entry and the record are still to come
          match entryPa s0 st f f.va with
          | some pa => .next (sendXfer s0 st { f with stage := .closing, pa0 := some pa })
          | none => .next (setXfer s0 st (rowFault' { f with stage := .moving } fcClaimFault f.va true))
        else .next (beginTiles s0 st f)
      | .tram d => .next (startTram s0 st f d)

/-! ### Rows (R142, R143) -/

/-- Translation of a list of parts, `phys` when they are physical; the first that fails names its address. -/
def translateAll (x : Stope) (phys rd wr : Bool) : List (Nat × Nat) → Except Nat (List (Nat × Nat))
  | [] => .ok []
  | p :: ps =>
    match (if phys then some p.1 else if 2 ^ 57 ≤ p.1 then none else translate x p.1 p.2 rd wr) with
    | none => .error p.1
    | some a =>
      match translateAll x phys rd wr ps with
      | .ok qs => .ok ((a, p.2) :: qs)
      | .error e => .error e

/-- The row bytes of a TST at its issue: payload, then scale bytes; zeros when the register was taken away (R140). -/
def storeRow (x : Stope) (f : Xfer) (r : Nat) : List Byte × BitVec 128 :=
  let y := tileOf (agentOf x f.crew) f.tile
  let d : Nat := if f.discard then 0 else (tget y.data 0 r).toNat
  let sc : BitVec 128 := if f.discard then 0 else tget y.scale 0 r
  (toBytes f.len d ++ toBytes (bprOf f) sc.toNat, sc)

/-- A destination that a row may write: data, or the inactive bank a COPY started on (R121, R146, R158). -/
def dstAllowed (s : State) (f : Xfer) (pa : Nat) : Bool :=
  match locate s pa with
  | .hbm .. => true
  | .store .. => true
  | .prog t o => decide (f.progSt = some t) && decide ((stopeOf s t).bank ≠ o / 2 ^ 18)
  | _ => false

/-- The virtual address of the first of a row's parts whose translation p names; of the last part when it names none (R149). -/
def partVa (parts pas : List (Nat × Nat)) (p : Nat × Nat → Bool) : Nat :=
  ((parts.zip pas).find? (fun e => p e.2)).elim 0 (·.1.1)

/-- The virtual address of row r that a full gob names: of the part that meets it (R149, R281). -/
def rowVa (f : Xfer) (r : Nat) : Nat := match f.kind with | .tram d => dstRowVa d r | _ => f.va + r * f.len

/-- 64 B granules that a range touches. -/
def granules64 (p : Nat × Nat) : Nat := (p.1 % 64 + p.2 + 63) / 64

/-- 64 B reads, or writes, of a transfer's translated rows that have not returned. -/
def openGranules (q : Xfer) (f : XRow → List (Nat × Nat)) : Nat :=
  q.flying.foldl (fun n h => (f h).foldl (fun n p => n + granules64 p) n) 0

/-- 64 B reads and writes in flight, never more than 1,024 and 512: the granules of the translated rows of all transfers go out in
rotation as others return, and the rest wait in the tram (R152, R153; DESIGN CHOICE, log 14). -/
def readsInFlight (x : Stope) : Nat := min 1024 (x.queue.foldl (fun n q => n + openGranules q (·.src)) 0)
def writesInFlight (x : Stope) : Nat := min 512 (x.queue.foldl (fun n q => n + openGranules q (·.dst)) 0)

/-- The next row has granules to send in a direction only where all of its transfer's earlier ones are out: a long row keeps back the
rows of its own transfer, not those of the others nor of the other direction (R152, R153; DESIGN CHOICE, log 14). -/
def hasRoom (f : Xfer) : Bool :=
  ((srcParts f f.next).isEmpty || decide (openGranules f (·.src) < 1024)) &&
  ((dstParts f f.next).isEmpty || decide (openGranules f (·.dst) < 512))

/-- The transfer has a row to issue: rows of a later tile wait for the check and the entries of the tile in progress (R148, R156,
R164, R166). -/
def hasRow (f : Xfer) : Bool :=
  decide (f.stage = .moving ∧ f.next < rowsOf f) && f.fault.isNone && !f.stop && !f.ending &&
  !(decide (f.flying ≠ []) && (srcStart f f.next || dstStart f f.next)) && hasRoom f

/-- The transfer whose turn it is to issue a row: the next in rotation of those that have one (R152, R153). -/
def rowTurn (x : Stope) : Option Nat :=
  let ids := (x.queue.filter hasRow).map (·.id)
  match leastOf (ids.filter (fun i => decide (x.rowTurn < i))) with
  | some i => some i
  | none => leastOf ids

/-- TILE_ROW_TRANSLATE: the next row of the transfer whose turn it is is translated and its granules are issued; a fault names
the part of the row that meets it (R142, R148, R149, R152, R153, R160). -/
def execTileRowTranslate (st id : Nat) (s : State) : Answer :=
  let s0 := settle s st
  let x := stopeOf s0 st
  match xferOf x id with
  | none => .next s
  | some f =>
    let r := f.next
    if rowTurn x ≠ some id ∨ tramsOff s then .next s
    else
      match translateAll x f.phys true false (srcParts f r), translateAll x f.phys false true (dstParts f r) with
      | .error va, _ => .next (setXfer s0 st (rowFault' f fcClaimFault va false))
      | _, .error va => .next (setXfer s0 st (rowFault' f fcClaimFault va true))
      | .ok src, .ok dst =>
        let bad := fun (p : Nat × Nat → Bool) => partVa (dstParts f r) dst p
        let hole := fun (p : Nat × Nat) => gobIn s0 p.1 p.2
        let pa0 := if r = 0 ∨ srcStart f r then src.head?.map (·.1) else
          (match f.pa0 with | some a => some a | none => translate x f.va f.len true false)
        if f.kind = .tld ∧ pa0 = none then .next (setXfer s0 st (rowFault' f fcClaimFault f.va false))
        else if dst.any (fun p => !dstAllowed s0 f p.1) then
          .next (setXfer s0 st (rowFault' f fcClaimFault (bad (fun p => !dstAllowed s0 f p.1)) true))
        else if dst.any hole ∧ passesGob s0 (.tram st) then .next (setXfer s0 st (rowFault' f fcAddrHole (bad hole) true))
        else
          let data := match f.kind with
            | .tst _ => (storeRow x f r).1
            | .tram d => if d.kind = 2 then (List.range d.rowBytes).map (fun i => BitVec.ofNat 8 (bits d.srcShape.toNat (8 * (i % 4)) 8)) else []
            | .tld => []
          let scales := if isStore f then tset f.scales 0 r (storeRow x f r).2 else f.scales
          let pa0 := if isStore f then f.pa0 else pa0
          let rows := match f.kind with
            | .tram d => (match (if d.kind = 1 then squareFrom f d r else none) with
              | some lo => dst.map (fun p => p.1 - lo * 2 ^ d.esize)
              | none => f.turnRows)
            | _ => []
          .next (modStope s0 st (fun x => putXfer { x with rowSeq := x.rowSeq + 1, rowTurn := id } { f with
            next := r + 1, scales := scales, pa0 := pa0, dstMark := if srcStart f r then f.dstCrc else f.dstMark
            turnRows := rows
            flying := f.flying ++ [{ row := r, src := src, dst := dst, data := data, seq := x.rowSeq }] }))

/-- The tram's byte counters; they stand still without the monitor (R167, R342). -/
def countBytes (s : State) (st : Nat) (src dst : List (Nat × Nat)) : State :=
  if monitorOff s (stopeLevel st) then s
  else modStope s st (fun x => { x with rdBytes := x.rdBytes + 64 * src.foldl (fun n p => n + granules64 p) 0
                                        wrBytes := x.wrBytes + dst.foldl (fun n p => n + p.2) 0 })

/-- The bytes of a row's source as it stands. -/
def rowData (s : State) (h : XRow) : List Byte := if h.src = [] then h.data else h.src.flatMap (fun p => readBytes s p.1 p.2)

/-- Cut a byte list over destination ranges. -/
def spread : List (Nat × Nat) → List Byte → List (Nat × List Byte)
  | [], _ => []
  | p :: ps, bs => (p.1, bs.take p.2) :: spread ps (bs.drop p.2)

/-- The bytes that a row's completion sends to its destination: of a TURN the squares' rows, element by element turned (R155). -/
def turned (f : Xfer) (bs : List Byte) : List Byte :=
  match f.kind with
  | .tram d =>
    if d.kind = 1 then
      let rows := f.band ++ bs
      let e := 2 ^ d.esize
      (List.range (dstRows d)).flatMap (fun j =>
        (List.range (rows.length / d.rowBytes)).flatMap (fun c => (rows.drop (c * d.rowBytes + j * e)).take e))
    else bs
  | _ => bs

/-- The row's bytes reach its destination; the granules whose gob was full (R143, R281). -/
def landRow (s : State) (st : Nat) (f : Xfer) (h : XRow) (bs : List Byte) : State × List (Nat × Nat) :=
  (spread h.dst (if h.dst = [] then [] else turned f bs)).foldl (fun r p =>
    let w := physWrite r.1 (.tram st) f.round p.1 p.2
    (w.1, r.2 ++ w.2)) (s, [])

/-- A TLD row enters its register; where a crew's write of the same cycle has already landed, that write stands (R139, R140, R143).
-/
def loadRow (s : State) (st : Nat) (f : Xfer) (r : Nat) (bs : List Byte) : State :=
  let k := (stopeOf s st).clk
  let n := cnt k s.now
  if f.discard then s
  else modCrew s st f.crew (fun c => modTile c f.tile (fun y =>
    let own : Bool := counts k s.now && decide (y.wasAt = n + 1)
    let keep := if own then (tget y.crewBits 0 r).toNat else 0
    let keepScale := if own then (tget y.crewScale 0 r).toNat else 0
    let y := setRow y r n (BitVec.ofNat 2048 (blend (ofBytes (bs.take f.len)) (tget y.data 0 r).toNat keep))
    let y := if bprOf f = 0 then y
      else setScale y r n (BitVec.ofNat 128 (blend (ofBytes (bs.drop f.len)) (tget y.scale 0 r).toNat keepScale))
    { y with inUse := true }))

/-- A CRC state continued over the scale bytes of a tile register in row order (R144). -/
def overScales (crc : Word32) (rows bpr : Nat) (sc : Tab (BitVec 128)) : Word32 :=
  (List.range rows).foldl (fun c r => crcRun c (toBytes bpr (tget sc 0 r).toNat)) crc

/-- The scale bytes that a checksum runs over: the register's scale area, or the bytes moved once the register was
taken away (R140, R144). -/
def scaleSource (x : Stope) (f : Xfer) : Tab (BitVec 128) :=
  if f.discard then f.scales else (tileOf (agentOf x f.crew) f.tile).scale

/-- After the last row RUN_CRC goes on over the scale bytes (R144). -/
def closeCrc (x : Stope) (f : Xfer) : Xfer :=
  if isTram f ∨ f.prog < f.rows then f else { f with crc := overScales f.crc f.rows (bprOf f) (scaleSource x f) }

/-- The transfer after the bytes of row h have arrived: CRC, progress and stage. A TURN's rows retire with their squares (R143, R144,
R155, R156). -/
def rowDone (f : Xfer) (h : XRow) (bs : List Byte) : Xfer :=
  let turn := isTurn f
  let waits : Bool := turn && h.dst.isEmpty
  let f := { f with
    flying := f.flying.drop 1, prog := if waits then f.prog else h.row + 1, band := if waits then f.band ++ bs else if turn then [] else f.band
    bandCrc := if waits ∧ f.band = [] then f.crc else f.bandCrc, bandPa0 := if waits ∧ f.band = [] then f.pa0 else f.bandPa0
    crc := match f.kind with
      | .tram d => if d.srcTiled then crcRun f.crc bs else f.crc
      | _ => crcRun f.crc (bs.take f.len)
    dstCrc := if turn then f.dstCrc else crcRun f.dstCrc bs
    scales := if isTram f then f.scales else tset f.scales 0 h.row (BitVec.ofNat 128 (ofBytes (bs.drop f.len))) }
  let last := decide (rowsOf f ≤ f.prog)
  if last ∨ srcStart f (gotRows f) ∨ (!turn ∧ dstStart f (gotRows f)) then { f with stage := .closing } else f

/-- Where a tram's packet goes: a stack through one of its views, or a stope (R17, R28; DEDUCED, log 14). -/
def channelOf (s : State) (pa : Nat) : Option (Nat × Nat) :=
  match locate s pa with
  | .hbm k _ => some (if pa < 2 ^ 40 then 0 else 1, k)
  | .store t _ => some (2, t)
  | .acc t _ _ _ => some (2, t)
  | .prog t _ => some (2, t)
  | .trace t _ => some (2, t)
  | _ => none

/-- The channels of n bytes from pa. -/
def channelsOf (s : State) (p : Nat × Nat) : List (Nat × Nat) :=
  (List.range ((p.1 % 4096 + p.2 + 4095) / 4096)).filterMap (fun i => channelOf s (p.1 / 4096 * 4096 + 4096 * i))

/-- The channels of a row's reads and writes. -/
def rowChannels (s : State) (h : XRow) : List (Nat × Nat) := (h.src ++ h.dst).flatMap (channelsOf s)

/-- The transfer is at its complete entry: the check of the tile that ends is done, or it needs none (R95, R146, R156). -/
def entryDue (f : Xfer) : Bool :=
  match f.kind with
  | .tst _ => true
  | .tram d => d.dstTiled && f.srcOk
  | .tld => false

/-- The physical addresses of the tiles that end here. -/
def endPas (f : Xfer) : List Nat :=
  match f.kind with
  | .tst _ => f.pa0.toList
  | .tram d => if d.kind = 1 then f.turnTiles else f.dstPa0.toList
  | .tld => []

/-- The channels of the entries or the record that a transfer has on their way (R17). -/
def sentChannels (s : State) (x : Stope) (f : Xfer) : List (Nat × Nat) :=
  match f.stage, f.kind with
  | .entry, _ => f.turnTiles.filterMap (channelOf s)
  | .closing, _ => if entryDue f then (endPas f).filterMap (channelOf s) else []
  | .record, .tst (some va) => ((translate x va 128 true true).bind (channelOf s)).toList
  | _, _ => []

/-- A packet that the same tram sent earlier goes to one of these channels and has not arrived (R17). -/
def behind (s : State) (x : Stope) (seq : Nat) (ks : List (Nat × Nat)) : Bool :=
  x.queue.any (fun g =>
    g.flying.any (fun e => decide (e.seq < seq) && (rowChannels s e).any ks.contains) ||
    (decide (g.sentSeq < seq) && (sentChannels s x g).any ks.contains))

/-- Row h waits for an earlier packet (R17). -/
def rowBehind (s : State) (x : Stope) (h : XRow) : Bool := behind s x h.seq (rowChannels s h)

/-- The entries or the record of a transfer wait for an earlier packet (R17). -/
def entryBehind (s : State) (x : Stope) (f : Xfer) : Bool := behind s x f.sentSeq (sentChannels s x f)

/-- The stope whose store or accumulators stand at an address, at the present cycle (R172). -/
def settleAddr (s : State) (pa : Nat) : State :=
  match locate s pa with | .store t _ => settle s t | .acc t _ _ _ => settle s t | _ => s

/-- The destination entry of a tiled TRAM is due at the tile boundary reached, once the source tile that ends there is in order (R156).
-/
def entryPoint (f : Xfer) : Bool :=
  match f.kind with
  | .tram d => d.dstTiled && (decide (rowsOf f ≤ f.prog) || (decide (d.kind ≠ 1) && dstStart f (gotRows f)))
  | _ => false

/-- A source tile needs no check: it stands in accumulator memory or a trace ring, or the side is not tiled (R145). -/
def uncheckedTile (s : State) (f : Xfer) : Bool :=
  (match f.kind with | .tram d => !d.srcTiled || f.srcOk || !(decide (rowsOf f ≤ gotRows f) || srcStart f (gotRows f)) | .tst _ => true | .tld => false) ||
  !tileHome s (f.pa0.getD 0)

/-- The transfer after a row: at a tile boundary an entry that waits for no check is sent (R95, R146, R156). -/
def afterRow (s : State) (st : Nat) (f : Xfer) : State :=
  let f := closeCrc (stopeOf s st) f
  if f.stage = .closing then
    sendXfer s st { f with srcOk := f.srcOk || (entryPoint f && uncheckedTile s f) }
  else setXfer s st f

/-- The tram's stalls at a row: cycles in which a stack controller refused a granule, and in which it had no link credit (R341, R342).
-/
def countRowStalls (s : State) (st hbm link : Nat) : State :=
  if monitorOff s (stopeLevel st) then s
  else modStope s st (fun x => { x with trace := { x.trace with stallHbm := x.trace.stallHbm + hbm, stallLink := x.trace.stallLink + link } })

/-- TILE_ROW_RETIRE: the oldest row in flight lands or is acknowledged; a read that stays uncorrectable stops the transfer at
that row. The packets of one tram arrive in their order wherever they go, and a read of another stope finds what is due there
(R17, R143, R144, R148, R172). A crew write of the same cycle wins over a TLD row (R140; DESIGN CHOICE, log 43). The
cycles that its granules waited are counted (R341). -/
def execTileRowRetire (st id : Nat) (trip : RowTrip) (s : State) : Answer :=
  let s0 := settleBefore s st
  match xferOf (stopeOf s0 st) id with
  | none => .next s
  | some f =>
    match f.flying with
    | [] => .next s
    | h :: rest =>
      if rowBehind s0 (stopeOf s0 st) h then .next s
      else
        let s0 := countRowStalls s0 st trip.hbm trip.link
        let s0 := (h.src.filter (fun p => decide (locateStope s0 p.1 ≠ some st))).foldl (fun s p => settleAddr s p.1) s0
        let s1 := match h.src.head? with | some p => readEcc s0 p.1 trip.ecc | none => s0
        match h.src.findSome? (fun p => readFault s0 p.1 p.2 trip.ecc) with
        | some code =>
          let va := partVa (srcParts f h.row) h.src (fun p => (readFault s0 p.1 p.2 trip.ecc).isSome)
          .next (settle (setXfer s1 st (rowFault' { f with flying := [] } code va false)) st)
        | none =>
          let bs := rowData s1 h
          let w := if f.kind = .tld then (loadRow s1 st f h.row bs, []) else landRow s1 st f h bs
          if w.2 ≠ [] then
            let va := partVa (dstParts f h.row) h.dst (fun p => (granulesOf s1 p.1 p.2).any w.2.contains)
            .next (settle (setXfer (reportGob w.1 f.tag w.2) st (rowFault' { f with flying := [] } fcGobFull va true)) st)
          else
            let t := countBytes w.1 st h.src h.dst
            let g := rowDone { f with flying := h :: rest, retiredAt := s0.now } h bs
            .next (settle (afterRow t st g) st)

/-! ### Checks and entries (R96, R144 to R146, R156) -/

/-- The checksum of the tile that a TLD or TST has moved (R92, R144). -/
def tileCrc (f : Xfer) : Word32 := f.crc ^^^ 0xFFFFFFFF

/-- The next row of a transfer that goes on after a tile boundary: new CRCs, new entries (R146, R156; DEDUCED, log 14). -/
def nextTile (s : State) (st : Nat) (f : Xfer) : State :=
  match f.kind with
  | .tram d =>
    let newSrc := srcStart f (gotRows f)
    let f := { f with srcOk := false, retried := f.retried && !newSrc, crc := if newSrc then shapeCrc (bits d.srcShape.toNat 0 21) else f.crc }
    if d.kind ≠ 1 ∧ dstStart f (gotRows f) then beginTiles s st { f with dstCrc := dstCrcInit d }
    else setXfer s st { f with stage := .moving }
  | _ => setXfer s st f

/-- After a tile boundary's check: the destination entry is still to come, or the transfer goes on or is done. -/
def afterCheck (s : State) (st : Nat) (f : Xfer) : State :=
  let last := decide (rowsOf f ≤ f.prog)
  match f.kind with
  | .tram _ =>
    if entryPoint f then sendXfer s st { f with srcOk := true, stage := .closing }
    else if last then setXfer s st { f with stage := .done }
    else nextTile s st f
  | _ => setXfer s st { f with stage := .done }

/-- Where the source tile being checked stands and what it should be: physical address, shape word, checksum, first
row. -/
def checkedTile (f : Xfer) : Nat × Nat × Word32 × Nat :=
  match f.kind with
  | .tram d =>
    (f.pa0.getD 0, bits d.srcShape.toNat 0 21, f.crc ^^^ 0xFFFFFFFF, (gotRows f - 1) / shRows d.srcShape * shRows d.srcShape)
  | _ => (f.pa0.getD 0, tileShape f.rows f.len f.fmt, tileCrc f, 0)

/-- The whole source tile again, from its first row r: what a TURN still holds of it is given up, and the destination tile that row r
belongs to is begun again (R145, R155, R156; DEDUCED, log 14). -/
def readAgain (s : State) (st : Nat) (f : Xfer) (r shape : Nat) : State :=
  let g := { f with stage := .moving, retried := true, next := r, prog := min f.prog r, flying := [], crc := shapeCrc shape }
  match f.kind with
  | .tram d =>
    let g := { g with band := f.band.take ((r - f.prog) * d.rowBytes) }
    if d.kind ≠ 1 ∧ d.dstTiled then beginTiles s st { g with dstCrc := if dstStart f r then dstCrcInit d else f.dstMark }
    else setXfer s st g
  | _ => setXfer s st g

/-- TLD_TILE_CHECK: the comparisons of R96 two cycles after the last row of a tile retired; one re-read of the whole tile on a
CRC mismatch (R96, R145, R156). `glitch`: a transient defect disturbed the data or the entry read (DEDUCED, log 14). Its event carries
the tile's first-row address in OVM_EARG and, for a tile register, row R modulo 64 (R149; DESIGN CHOICE, log 13). -/
def execTldTileCheck (st id : Nat) (glitch : Bool) (s : State) : Answer :=
  match xferOf (stopeOf s st) id with
  | none => .next s
  | some f =>
    let s0 := settle (advance s (f.retiredAt + 2)) st
    if f.stage ≠ .closing ∨ isStore f ∨ f.srcOk ∨ f.ending then .next s
    else if uncheckedTile s0 f then .next (afterCheck s0 st f)
    else
      let c := checkedTile f
      let dirVa := match f.kind with | .tram d => srcRowVa d c.2.2.2 | _ => f.va
      match checkEntry (sideEntry s0 c.1) c.1 c.2.1 c.2.2.1, glitch with
      | .mismatch, _ =>
        let t := modStope s0 st (fun x => { x with chkMismatch := satAdd 8 x.chkMismatch 1 })
        .next (holdXfer t st { f with check := true } fcTileMismatch dirVa)
      | .ok, false =>
        let t := if f.retried then modStope s0 st (fun x => { x with chkTransient := satAdd 16 x.chkTransient 1 }) else s0
        .next (afterCheck t st { f with retried := false })
      | _, _ =>
        if f.retried then
          let t := modStope s0 st (fun x => { x with chkPersistent := satAdd 8 x.chkPersistent 1 })
          .next (holdXfer t st { f with check := true } fcTileCheck dirVa)
        else
          .next (readAgain s0 st f c.2.2.2 c.2.1)

/-- Checksum of destination tile t of a TURN, over the bytes as they stand (DEDUCED, log 14). -/
def turnCrc (s : State) (d : TramDesc) (rows : List Nat) (t : Nat) : Word32 :=
  let n := shRows d.dstShape
  (((rows.drop (t * n)).take n).foldl (fun c pa => crcRun c (readBytes s pa (dstLen d))) (dstCrcInit d)) ^^^ 0xFFFFFFFF

/-- The complete entries of the destination tiles that end here; the granules whose gob was full. -/
def endEntries (s : State) (st : Nat) (f : Xfer) : State × List (Nat × Nat) :=
  match f.kind with
  | .tst _ =>
    (match f.pa0 with
      | some pa => physEntry s (.tram st) f.round pa (entryWord pa (tileShape f.rows f.len f.fmt) (tileCrc f))
      | none => (s, []))
  | .tram d =>
    let shape := bits d.dstShape.toNat 0 21
    if d.kind = 1 then
      (f.turnTiles.mapIdx (fun t pa => (t, pa))).foldl (fun r e =>
        let w := physEntry r.1 (.tram st) f.round e.2 (entryWord e.2 shape (turnCrc r.1 d f.turnRows e.1))
        (w.1, r.2 ++ w.2)) (s, [])
    else
      (match f.dstPa0 with
        | some pa => physEntry s (.tram st) f.round pa (entryWord pa shape (f.dstCrc ^^^ 0xFFFFFFFF))
        | none => (s, []))
  | .tld => (s, [])

/-- SIDECAR_ENTRY_ACK: the PRESENT = 0 entries land, are acknowledged and the payload may go, or every payload write is acknowledged
and the complete entry is written; neither overtakes an earlier packet of its tram (R17, R95, R146; DESIGN CHOICE, log 43). -/
def execSidecarEntryAck (st id : Nat) (s : State) : Answer :=
  let s0 := settle s st
  let x := stopeOf s0 st
  match xferOf x id with
  | none => .next s
  | some f =>
    match f.stage with
    | .entry => if entryBehind s0 x f then .next s else .next (absentTiles s0 st f)
    | .closing =>
      if entryDue f = false ∨ f.ending ∨ entryBehind s0 x f then .next s
      else
        let w := endEntries s0 st f
        if w.2 ≠ [] then
          .next (setXfer (reportGob w.1 f.tag w.2) st (rowFault' { f with stage := .moving, srcOk := isTram f } fcGobFull (rowVa f (f.prog - 1)) true))
        else
          let last := decide (rowsOf f ≤ f.prog)
          .next (match f.kind with
            | .tst (some _) => sendXfer w.1 st { f with stage := .record }
            | .tst none => setXfer w.1 st { f with stage := .done }
            | _ => if last then setXfer w.1 st { f with stage := .done } else nextTile w.1 st f)
    | _ => .next s

/-! ### Assay records (R85 to R89) -/

/-- The fields of a record that the update reads. -/
def finiteBits (x : Nat) : Nat := if 0x7F800000 ≤ x % 2 ^ 31 then 0 else x % 2 ^ 31

/-- The smallest c with h ≤ fmax · 2^c, for a positive finite FP32 h given by its bits, between -200 and 200. -/
def scaleExp (h : Nat) (fmt : Nat) : Int :=
  let e : Nat := h / 2 ^ 23
  let m : Nat := h % 2 ^ 23
  -- h = sig · 2^x
  let sig := if e = 0 then m else m + 2 ^ 23
  let x : Int := if e = 0 then -149 else (e : Int) - 150
  let fmax := if fmt = 4 then 448 else 57344
  let fits := fun (i : Nat) =>
    -- sig · 2^x ≤ fmax · 2^(i - 200)
    let k := x - ((i : Int) - 200)
    if 0 ≤ k then decide (sig * 2 ^ k.toNat ≤ fmax) else decide (sig ≤ fmax * 2 ^ (-k).toNat)
  let i : Nat := ((List.range 401).find? fits).getD 400
  (i : Int) - 200

/-- Byte i of a record replaced by the bytes of n. -/
def setField (bs : List Byte) (lo n v : Nat) : List Byte := bs.take lo ++ toBytes n v ++ bs.drop (lo + n)

/-- A record with VALID clear is given its initial contents (R87). -/
def freshRecord (bs : List Byte) (fmt : Nat) : List Byte :=
  if bit (field bs 3 1) 0 then bs
  else toBytes 1 127 ++ toBytes 1 fmt ++ toBytes 1 (field bs 2 1 % 16 + 0xF0) ++ toBytes 1 1 ++ List.replicate 124 (0 : Byte)

/-- The record after one update, none when its FORMAT is another (R87; DEDUCED, log 14). -/
def updateRecord (bs : List Byte) (fmt rnd : Nat) (y : Tile) : Option (List Byte) :=
  let r := freshRecord bs fmt
  if field r 1 1 % 32 ≠ fmt then none
  else
    let margin := field r 2 1 % 16
    let head := (field r 2 1 / 16 + 1) % 16
    let r := setField r 2 1 (margin + head * 16)
    let r := setField r (0x38 + 4 * head) 4 y.amax
    let r := setField r 4 4 (satAdd 32 (field r 4 4) y.sat)
    let r := setField r 8 4 (satAdd 32 (field r 8 4) y.und)
    let r := setField r 12 4 (satAdd 32 (field r 12 4) y.nan)
    let flags := if 0 < y.nan then field r 3 1 ||| 2 else field r 3 1
    let r := setField r 0x10 6 rnd
    let r := setField r 0x16 2 (satAdd 16 (field r 0x16 2) 1)
    let h := (List.range 16).foldl (fun m i => max m (finiteBits (field r (0x38 + 4 * i) 4))) 0
    let scaled : Bool := decide (fmt = 4 ∨ fmt = 5) && decide (0 < h)
    let sc := 127 + scaleExp h fmt + (margin : Int)
    let r := if scaled then setField r 0 1 (min sc.toNat 254) else r
    let r := setField r 3 1 (if scaled then flags &&& 0xFB else flags ||| 4)
    some (setField r 0x7C 4 (crc32c (r.take 0x7C)).toNat)

/-- CHECK of a record (R85, R90). -/
def recordOk (bs : List Byte) : Bool := decide (field bs 0x7C 4 = (crc32c (bs.take 0x7C)).toNat)

/-- ASSAY_RECORD_UPDATE: after a TST's last entry, the vector engine updates the record when statistics are pending (R86 to
R89, R146, R160). The operand says how many of the two reads a defect disturbed (DEDUCED, log 14), and what the memory's own code met
(R346, R347). The read and the write of one record are one step, whatever other stopes do: of two stopes that update one record each
finds the other's update whole (R89; DESIGN CHOICE, log 14). -/
def execAssayRecordUpdate (st id : Nat) (m : RecordRead) (s : State) : Answer :=
  let s0 := settle s st
  let x := stopeOf s0 st
  match xferOf x id with
  | none => .next s
  | some f =>
    match f.stage, f.kind with
    | .record, .tst (some va) =>
      if f.ending ∨ entryBehind s0 x f then .next s else
      let y := tileOf (agentOf x f.crew) f.tile
      let fin := fun (s : State) => setXfer s st { f with stage := .done }
      let refuse := fun (s : State) (code : Nat) => fin (xferEvent s st f.crew code (va % 2 ^ 57) (tileExtra f true) f.tag f.epoch)
      if f.fmt < 4 ∨ 8 < f.fmt then
        .next (refuse (modStope s0 st (fun x => { x with asFormat := satAdd 8 x.asFormat 1 })) fcAssayFormat)
      else if y.pending = false then .next (fin s0)
      else
        match (if 2 ^ 57 ≤ va then none else translate x va 128 true true) with
        | none => .next (holdXfer s0 st { f with faultWr := true } fcClaimFault va)
        | some pa =>
          if !mayWrite s0 pa then .next (holdXfer s0 st { f with faultWr := true } fcClaimFault va)
          else if gobAt s0 pa ∧ passesGob s0 (.tram st) then .next (holdXfer s0 st { f with faultWr := true } fcAddrHole va)
          else
            let s0 := readEcc s0 pa m.ecc
            match readFault s0 pa 128 m.ecc with
            | some code => .next (holdXfer s0 st { f with faultWr := false } code va)
            | none =>
            let bs := readBytes s0 pa 128
            let ok : Bool := recordOk bs
            if m.glitch = .twice ∨ ok = false then
              .next (refuse (modStope s0 st (fun x => { x with asFailed := satAdd 8 x.asFailed 1 })) fcAssayCheck)
            else
              let s1 := if m.glitch = .once then modStope s0 st (fun x => { x with asTransient := satAdd 16 x.asTransient 1 }) else s0
              match updateRecord bs f.fmt f.round y with
              | none => .next (refuse (modStope s1 st (fun x => { x with asFormat := satAdd 8 x.asFormat 1 })) fcAssayFormat)
              | some r =>
                let w := physWrite s1 (.tram st) f.round pa r
                if w.2 ≠ [] then .next (holdXfer (reportGob w.1 f.tag w.2) st { f with faultWr := true } fcGobFull va)
                else
                  .next (fin (modCrew w.1 st f.crew (fun c => modTile c f.tile (fun y =>
                    { y with pending := false, amax := 0, sat := 0, und := 0, nan := 0 }))))
    | _, _ => .next s

/-! ### The end of a transfer (R147, R148, R164, R166) -/

/-- TRANSFER_COMPLETE: the tally is signalled (R147); a TLD whose register was taken away counts as discarded
(R140); a dispatcher's copy signals none (R328). -/
def execTransferComplete (st id : Nat) (s : State) : Answer :=
  let s0 := settle s st
  match xferOf (stopeOf s0 st) id with
  | none => .next s
  | some f =>
    if f.stage ≠ .done ∨ f.ending then .next s
    else
      let t := modStope s0 st (fun x =>
        let x := dropXfer x id
        if f.discard ∧ f.kind = .tld then { x with discarded := satAdd 16 x.discarded 1 } else x)
      .next (if f.phys then copyDone t st f true else tramSignal t st f.q f.crew f.tag f.epoch)

/-- TRANSFER_HOLD: every earlier row has retired; the transfer is held at its fault, at a quiesce, or ended by a mark
without a signal. A quiesce at the end of a tile lets that tile's check and entry finish first (R148, R156, R164, R166; DEDUCED,
log 14). -/
def execTransferHold (st id : Nat) (s : State) : Answer :=
  let s0 := settle s st
  match xferOf (stopeOf s0 st) id with
  | none => .next s
  | some f =>
    if f.flying ≠ [] ∨ f.stage = .entry then .next s
    else if f.ending then .next (modStope s0 st (fun x => dropXfer x id))
    else
      if canHold (stopeOf s0 st) f = false then .next s
      else
        match f.fault with
        | some (code, va) => .next (holdXfer s0 st f code va)
        | none => if f.stop ∧ f.prog < rowsOf f ∧ f.stage ≠ .closing then .next (holdXfer s0 st f 0 0) else .next s

/-! ### Overman control (R162 to R164) -/

/-- TRM_ERR: the write named nothing held, or a reserved action (R163). -/
def trmErr (s : State) (st : Nat) : State := modStope s st (fun x => { x with trmErr := true })

/-- A held tile transfer as a transfer again: at row PROG with its CRC, or from row 0 when its check flag is set
(R151, R163). -/
def requeueTile (x : Stope) (cr t : Nat) (h : Held) : Stope :=
  let c := agentOf x cr
  let y := tileOf c t
  let fresh := shapeCrc (tileShape h.rows h.len h.fmt)
  let f : Xfer := { id := 0, kind := if h.store then .tst h.recVa else .tld, crew := cr, tile := t, va := h.va, q := h.q, tag := h.tag,
                    epoch := c.epoch, round := c.round, rows := h.rows, len := h.len, fmt := h.fmt, discard := h.gone,
                    next := if h.check then 0 else h.prog, prog := if h.check then 0 else h.prog,
                    crc := if h.check then fresh else h.crc, scales := y.scale }
  enqueue (modAgent x cr (fun c => modTile c t (fun y => { y with held := none }))) f

/-- A transfer as a new one, from row 0; its checksums begin at the shape words (R144, R151). -/
def fromStart (f : Xfer) : Xfer :=
  { f with
    stage := .queued, next := 0, prog := 0, flying := [], band := [], check := false, retried := false, srcOk := false, pa0 := none, dstPa0 := none
    crc := match f.kind with | .tram d => shapeCrc (bits d.srcShape.toNat 0 21) | _ => shapeCrc (tileShape f.rows f.len f.fmt)
    dstCrc := match f.kind with | .tram d => dstCrcInit d | _ => f.dstCrc }

/-- A held TRAM transfer as a transfer again: at row PROG, or with its check flag set as a new one (R151, R158). -/
def requeueSlot (x : Stope) (i : Nat) (f : Xfer) : Stope :=
  let g := { f with stage := .queued, next := f.prog, flying := [], fault := none, retried := false, stop := false }
  enqueue { x with heldSlots := tset x.heldSlots none i none } (if f.check then { fromStart g with fault := none } else g)

/-- OVM_TRM_CTL takes a value; a resume that finds all 64 queue entries taken, or for a TRAM 16 of them with TRAMs, sets TRM_ERR and
leaves the transfer held (R152, R162, R163; DESIGN CHOICE, log 14). -/
def writeTrmCtl (s : State) (st : Nat) (v : Nat) : State :=
  let s := modStope s st (fun x => { x with ctxErr := false, trmErr := false })
  let x := stopeOf s st
  let cr := bits v 0 4
  let t := bits v 4 3
  let i := bits v 8 4
  let resumed := fun (x : Stope) => { x with resumed := satAdd 16 x.resumed 1 }
  if bit v 7 then
    match tget x.heldSlots none i, bits v 12 2 with
    | some f, 1 =>
      if 64 ≤ x.queue.length ∨ 16 ≤ tramShare x then trmErr s st
      else
        let s := traceRec (putStope s st (resumed (requeueSlot x i f))) st 0x0012 f.tag f.epoch (0x20 + f.crew) (i + 256 + f.prog % 2 ^ 32 * 2 ^ 32)
        recountClaim s st
    | some _, 2 => recountClaim (putStope s st { x with heldSlots := tset x.heldSlots none i none }) st
    | _, _ => trmErr s st
  else
    match (tileOf (agentOf x cr) t).held, bits v 12 2 with
    | some h, 1 =>
      if 64 ≤ x.queue.length then trmErr s st
      else
        let s := traceRec (putStope s st (resumed (requeueTile x cr t h))) st 0x0012 h.tag (agentOf x cr).epoch (0x20 + cr) (t + h.prog * 2 ^ 32)
        recountClaim s st
    | some _, 2 =>
      recountClaim (putStope s st (modAgent x cr (fun c => modTile c t (fun y => { y with held := none })))) st
    | _, _ => trmErr s st

/-- TRM_RESUME (R163): an OVM_TRM_CTL write whose action is resume. -/
def execTrmResume (st : Nat) (v : Word64) (s : State) : Answer :=
  if bits v.toNat 12 2 = 1 then .next (writeTrmCtl (settle s st) st v.toNat) else .next s

/-- TRM_DISCARD (R151, R163). -/
def execTrmDiscard (st : Nat) (v : Word64) (s : State) : Answer :=
  if bits v.toNat 12 2 = 2 then .next (writeTrmCtl (settle s st) st v.toNat) else .next s

/-- The tram quiesces: nothing starts, every transfer of the crews stops at its next row boundary, those still queued
are held at once with PROG = 0 (R164); a TRAM that finds no held slot stays queued (DESIGN CHOICE, log 14). -/
def quiesceOn (s : State) (st : Nat) : State :=
  let x := stopeOf s st
  let s := putStope s st { x with quiesce := true, queue := x.queue.map (fun f => if isActive f then { f with stop := true } else f) }
  (x.queue.filter (fun f => !isActive f)).foldl (fun s f =>
    if canHold (stopeOf s st) f then holdXfer s st (fromStart f) 0 0 else s) s

/-- The quiesce is released (R164). -/
def quiesceOff (s : State) (st : Nat) : State := modStope s st (fun x => { x with quiesce := false })

/-- TRAM_QUIESCE (R164). -/
def execTramQuiesce (st : Nat) (s : State) : Answer := .next (quiesceOn (settle s st) st)
/-- QUIESCE_RELEASE (R164). -/
def execQuiesceRelease (st : Nat) (s : State) : Answer := .next (quiesceOff (settle s st) st)

/-- A mark ends the transfers of a command on a stope: queued and held ones at once, active ones at their next row
boundary, which is now for those without a row or a PRESENT = 0 entry in flight; none signals (R166). -/
def endXfers (s : State) (st tag : Nat) : State :=
  let s := modStope s st (fun x => { x with
    queue := (x.queue.filter (fun f => decide (f.flying ≠ [] ∨ f.stage = .entry) || decide (f.tag ≠ tag))).map (fun f => if f.tag = tag then { f with ending := true } else f)
    heldSlots := x.heldSlots.filter (fun e => match e.2 with | some f => decide (f.tag ≠ tag) | none => false)
    agents := x.agents.map (fun e => (e.1, { e.2 with tiles := e.2.tiles.map (fun t =>
      (t.1, match t.2.held with | some h => if h.tag = tag then { t.2 with held := none } else t.2 | none => t.2)) })) })
  recountClaim s st

end Sys2Proof.Machine
end

