-- ==== Sys2Proof/Machine/Pipeline.lean ====
section
/-! DEFINITION. Events of a stope's pipelines: writes that reach their ready cycle (R100), stream rows (R52), the checks
of a WLD and their holds (R49, R50, R67, R70), program bank swaps (R122), the issue density (R68). -/

namespace Sys2Proof.Machine

/-! ### Ready cycles -/

/-- The stope at its counted cycle c: device time moves there unless a hold keeps the cycle from coming (R67; DESIGN CHOICE,
log 2). -/
def reachCycle (s : State) (st c : Nat) : State :=
  let k := (stopeOf s st).clk
  if k.stopped ∧ k.base < c then s else settle (advance s (dueAt k c)) st

/-- RESULT_READY: the oldest write in flight of an agent lands at its ready cycle (R100, R101; DESIGN CHOICE, log 1; DESIGN
CHOICE, log 39). -/
def execResultReady (st ag : Nat) (s : State) : Answer :=
  match leastOf ((crewOf s st ag).pend.map (·.ready)) with
  | none => .next s
  | some c => .next (if ag = 16 then settle (advance s c) st else reachCycle s st c)

/-- The ready cycles of the rows in flight of an array and of the next row of each stream. -/
def rowReadies (x : Stope) (a : Nat) : List Nat :=
  (arrOf x a).flights.map (·.ready) ++
  (arrOf x a).streams.map (fun g => g.issue + g.next * g.pitch + rowLatency g.column g.wide)

/-- STREAM_ROW_WRITE: the next stream row of an array writes its accumulator row or rows (R40, R52, R54, R61; DESIGN CHOICE,
log 39). -/
def execStreamRowWrite (st arr : Nat) (s : State) : Answer :=
  if 2 ≤ arr then .next s
  else
    match leastOf (rowReadies (stopeOf s st) arr) with
    | none => .next s
    | some c => .next (reachCycle s st c)

/-! ### The check of a weight tile (R43, R49, R50, R96) -/

/-- The check that is due first. -/
def firstCheck : List WCheck → Option WCheck
  | [] => none
  | c :: cs => match firstCheck cs with | none => some c | some d => if d.due < c.due then some d else some c

/-- Rows and bytes of the tile as the load holds them: payload bytes of a row group or the scale tile (R43). -/
def loadedBytes (l : Load) (c : WCheck) : List Byte :=
  let row := fun r => tget l.rows {} r
  if c.isScale then
    let per := if c.fmt = 8 then 16 else 32
    (List.range (256 / per)).flatMap (fun b => toBytes 256 (row (per * b)).scale.toNat)
  else (List.range 64).flatMap (fun i =>
    let v := (row (64 * c.part + i)).bits.toNat
    if twoHalves c.fmt then toBytes 256 (bits v (2048 * c.half) 2048)
    else (List.range 256).map (fun j => BitVec.ofNat 8 (bits v (16 * j) 8)))

/-- Shape word of a stored weight tile or of a scale tile (R43, R91). -/
def weightShape (c : WCheck) : Nat :=
  if c.isScale then shapeWord (if c.fmt = 8 then 16 else 8) 16 9 0 else shapeWord 64 16 c.fmt 0

/-- Device physical address of the tile. -/
def checkAddr (st : Nat) (c : WCheck) : Nat := storeAddr st (c.base + partOffset c.fmt c.part c.half c.isScale)

/-- The comparison of R96 on bytes read (DEDUCED, log 16). -/
def compareTile (s : State) (st : Nat) (c : WCheck) (bs : List Byte) : TileCheck :=
  let pa := checkAddr st c
  checkEntry (sideEntry s pa) pa (weightShape c) (crcRun (shapeCrc (weightShape c)) bs ^^^ 0xFFFFFFFF)

/-- VALID of each captured plane clears (R50). -/
def clearValid (x : Stope) (c : WCheck) : Stope :=
  let off := fun (p : Nat) (r : Arr) => putPlane r p { planeOf r p with valid := false }
  modArr (modArr x 0 (off c.plane0)) 1 (off c.plane1)

/-- A WLD check fails for good: the event names the tile's place (R50, R96, R347). -/
def failCheck (s : State) (st : Nat) (c : WCheck) (code : Nat) : State :=
  faultEvent (modStope s st (fun x => clearValid x c)) st c.crew code (checkAddr st c) 0 c.tag c.epoch

/-- The WLD's load, as array 0's captured plane holds it. -/
def loadOf (x : Stope) (c : WCheck) : Load :=
  ((planeOf x.arr0 c.plane0).loads.find? (fun l => decide (l.issue = c.issue ∧ l.pace ≠ .atOnce))).getD
    { issue := c.issue, pace := .slow, rows := [] }

/-- What the comparison of a WLD's tile leads to: it stands, fails for good, or takes the stope into a hold (R49, R50;
DEDUCED, log 16). -/
def checkEnd (s : State) (st : Nat) (c : WCheck) (glitch : Bool) (r : TileCheck) : State :=
  match r, glitch with
  | .ok, false => s
  | .mismatch, _ => failCheck s st c fcTileMismatch
  | _, _ =>
    let x := stopeOf s st
    putStope s st (restartClk { x with
      hold := x.hold ++ [c], holdAt := if x.hold = [] then s.now else x.holdAt } s.now)

/-- WLD_TILE_CHECK: the due tile is compared; a CRC mismatch takes the stope into a hold (R49, R50, R96, R347). `glitch`: a
defect disturbed the bytes on their way (DEDUCED, log 16). -/
def execWldTileCheck (st : Nat) (glitch : Bool) (s : State) : Answer :=
  let x := stopeOf s st
  match firstCheck x.wchecks with
  | none => .next s
  | some c =>
    if x.clk.stopped ∧ x.clk.base < c.due then .next s
    else
      let s := reachCycle s st c.due
      let x := stopeOf s st
      let s := putStope s st { x with wchecks := x.wchecks.erase c }
      if c.uncorr then .next (failCheck s st c fcStoreUncorr)
      else .next (checkEnd s st c glitch (compareTile s st c (loadedBytes (loadOf x c) c)))

/-- The rows of a stored tile as a re-read finds them, over the rows that stand: the payload, one half of it in a 16-bit format,
or the scales (R43, R49; DEDUCED, log 16). -/
def reread (s : State) (st : Nat) (stand : Nat → WRow) (c : WCheck) : List (Nat × WRow) :=
  let rows := if c.isScale then List.range 256 else (List.range 64).map (64 * c.part + ·)
  rows.map (fun r =>
    let old := stand r
    let new := blockRow s st c.base c.fmt r
    let half := ones 2048 <<< (2048 * c.half)
    (r, if c.isScale then { old with scale := new.scale }
        else if twoHalves c.fmt then { old with bits := BitVec.ofNat 4096 (blend old.bits.toNat new.bits.toNat half), fmt := new.fmt }
        else { new with scale := old.scale }))

/-- A re-read compares, or fails for good (R50, R347; DEDUCED, log 16). -/
def retryEnd (s : State) (st : Nat) (c : WCheck) (glitch : Bool) (r : TileCheck) : State :=
  match r, glitch with
  | .ok, false => modStope s st (fun x => { x with wldTransient := satAdd 16 x.wldTransient 1 })
  | _, _ => failCheck (modStope s st (fun x => { x with wldPersistent := satAdd 8 x.wldPersistent 1 })) st c fcTileCheck

/-- A load of the rows given, all in counted cycle n. -/
def loadAtOnce (n : Nat) (rows : List (Nat × WRow)) : Load :=
  { issue := n, pace := .atOnce, rows := rows.foldl (fun t e => tset t {} e.1 e.2) [] }

/-- One tile of a hold is re-read, its rows rewritten in both captured planes, the rest of each row as it stands there, and
compared again (R49, R50). A defect disturbs the bytes on their way to the comparison alone: the planes keep the store's undisturbed bytes
(DESIGN CHOICE, log 16). -/
def retryTile (glitch : Bool) (st : Nat) (s : State) (c : WCheck) : State :=
  let x := stopeOf s st
  let n := x.clk.base
  let put := fun (p : Nat) (r : Arr) =>
    let pl := planeOf r p
    putPlane r p { pl with loads := loadAtOnce n (reread s st (fun i => planeRow pl i (n + 1)) c) :: pl.loads }
  let s := putStope s st (modArr (modArr x 0 (put c.plane0)) 1 (put c.plane1))
  retryEnd s st c glitch (compareTile s st c (loadedBytes (loadAtOnce n (reread s st (fun _ => {}) c)) c))

/-- WLD_CHECK_HOLD_END: after 72 cycles the re-read is compared and the stope goes on where it stopped (R49, R50, R67). The store is read
as it stands at the end of the hold (DESIGN CHOICE, log 16). `glitch`: a defect disturbed the re-read as well (DEDUCED, log 16). -/
def execWldCheckHoldEnd (st : Nat) (glitch : Bool) (s : State) : Answer :=
  let x := stopeOf s st
  if x.hold = [] then .next s
  else
    let s := advance s (x.holdAt + 72)
    let s := x.hold.foldl (retryTile glitch st) s
    .next (modStope s st (fun x =>
      restartClk { x with hold := [], holdsPast := (x.clk.base, 72) :: x.holdsPast.take 15 } s.now))

/-! ### Density (R68, R291) -/

/-- Divisor of a density code. -/
def densityDiv (d : Nat) : Nat := 2 ^ d

/-- The stope runs at density code d from now on (R68; DEDUCED, log 50). -/
def setDensity (s : State) (st d : Nat) : State :=
  if (stopeOf s st).clk.div = densityDiv d then s
  else
    let s := settle s st
    traceOpen (modStope s st (fun x => { x with clk := reclock x.clk s.now (densityDiv d) })) st 0x0050 0 0 d

/-! ### Program banks (R121 to R123) -/

/-- A tram write to the inactive bank of stope st is in progress (R122). -/
def inactiveWrite (s : State) (st : Nat) : Bool :=
  s.stopes.any (fun e => e.2.queue.any (fun f => isActive f && decide (f.progSt = some st)))

/-- Every crew is fenced, idle, stopped or faulted at device cycle t (R122, R128). -/
def swapReady (x : Stope) (t : Nat) : Bool :=
  (List.range 16).all (fun ag => match shownState (agentOf x ag) t with | .running => false | .waiting => false | _ => true)

/-- Crews at a FENCE go on, from the resume address TGT in the new bank with their loops as they stand, or at the next word; one that a
CRSTOP has yet to stop goes on as far as its PC (R122, R123, R128; DEDUCED, log 12). -/
def releaseFence (now : Nat) (swapped : Bool) (x : Stope) : Stope :=
  (List.range 16).foldl (fun x ag =>
    let c := agentOf x ag
    if shownState c now = .fenced then
      let d := if swapped then { c with pc := c.fenceTgt, ranOff := false } else passWord c c.pc
      putAgent x ag (if c.state = .fenced then { d with state := .running, nextIssue := max c.nextIssue (cnt x.clk now + 1) }
        else { d with wasState := .running })
    else x) x

/-- A swap takes place (R122). -/
def doSwap (s : State) (st : Nat) : State :=
  let s := modStope s st (fun x => releaseFence s.now true
    { x with bank := 1 - x.bank, swapPending := false, swaps := (x.swaps + 1) % 2 ^ 16 })
  let s := ungate s st none
  traceOpen (raiseEvent s st { cls := 8 }) st 0x0020 0 0 1

/-- BANK_SWAP (R122). -/
def execBankSwap (st : Nat) (s : State) : Answer :=
  let s0 := settle s st
  let x := stopeOf s0 st
  if x.swapPending ∧ swapReady x s0.now ∧ inactiveWrite s0 st = false then .next (doSwap s0 st) else .next s

/-- A pending swap is withdrawn (R123). -/
def cancelSwap (s : State) (st : Nat) : State :=
  if (stopeOf s st).swapPending then
    let s := modStope s st (fun x => releaseFence s.now false { x with swapPending := false, cancelled := true })
    let s := ungate s st none
    traceOpen (raiseEvent s st { cls := 8 }) st 0x0020 0 0 0
  else s

/-- SWAP_CANCEL (R123). -/
def execSwapCancel (st : Nat) (s : State) : Answer := .next (cancelSwap (settle s st) st)

end Sys2Proof.Machine
end

