-- ==== Sys2Proof/Machine/Overman.lean ====
section
/-! DEFINITION. The overman's privileged instructions (R128, R129), its events (R131), its system registers (R134,
R162, R338), crew contexts (R165) and software trace records (R338, R340). -/

namespace Sys2Proof.Machine

/-! ### Crew contexts (R165) -/

/-- Every write that crew cr issued has reached its ready cycle by device cycle t: its register and store writes, its streams'
accumulator rows, its WLD's planes (R134, R135). -/
def crewQuiet (x : Stope) (cr t : Nat) : Bool :=
  decide ((agentOf x cr).pend = []) &&
  (List.range 2).all (fun a =>
    (arrOf x a).streams.all (fun g => decide (g.crew ≠ cr)) && (arrOf x a).flights.all (fun f => decide (f.crew ≠ cr))) &&
  (decide (x.wldCrew ≠ cr) || decide (x.wldFree ≤ cnt x.clk t))

/-- Idle, stopped or faulted, as a CRWR or a context operation requires it at device cycle t. -/
def atRest (c : Crew) (t : Nat) : Bool :=
  match shownState c t with | .idle => true | .stopped => true | .faulted => true | _ => false

/-- Where a context image of n bytes may stand: whole in HBM data, in either view, or in the stope's own store (R165; DEDUCED,
log 15). -/
def ctxHome (s : State) (st pa n : Nat) : Bool :=
  decide (pa % 64 = 0) &&
  (match locate s pa, locate s (pa + n - 1) with
    | .hbm k _, .hbm j _ => decide (2 ^ 40 ≤ pa ∨ k = j)
    | .store t _, .store u _ => decide (t = st ∧ u = st)
    | _, _ => false)

/-- Length of a context image whose SAVED byte is m (R165). -/
def imageLength (m : Nat) : Nat := 17664 + ((List.range 8).filter (fun t => bit m t)).length * 17408

/-- No queued or active transfer names a register of crew cr (R165). -/
def noXfers (x : Stope) (cr : Nat) : Bool := !x.queue.any (fun f => decide (f.crew = cr) && !isTram f)

/-- The tile state of a context image (R165). -/
def tileStateBytes (y : Tile) : List Byte :=
  let h := y.held
  let code := match h with | none => 0 | some h => if h.store then 2 else 1
  let xrec := match h with | some h => h.recVa | none => none
  let chk := match h with | some h => h.check | none => false
  let hn := fun (f : Held → Nat) => match h with | some h => f h | none => 0
  toBytes 8 (if y.rows = 0 then 0 else tileShape y.rows y.len y.fmt) ++
  toBytes 1 (b2n y.inUse + b2n y.pending * 2 + code * 4 + b2n xrec.isSome * 16 + b2n chk * 32) ++
  toBytes 1 (hn (·.prog)) ++ toBytes 1 (hn (·.q)) ++ [0] ++ toBytes 4 (hn (fun h => h.crc.toNat)) ++
  toBytes 8 (hn (·.va) % 2 ^ 57) ++ toBytes 8 (xrec.getD 0 % 2 ^ 57) ++ toBytes 4 (hn (·.tag)) ++ [0, 0, 0, 0] ++
  toBytes 4 y.amax ++ toBytes 4 y.sat ++ toBytes 4 y.und ++ toBytes 4 y.nan ++ List.replicate 8 (0 : Byte)

/-- Payload in tile byte order, then the scale area (R136, R165). -/
def tileBytes (y : Tile) : List Byte :=
  ((List.range 64).flatMap (fun r => toBytes y.len (tget y.data 0 r).toNat) ++ List.replicate 16384 (0 : Byte)).take 16384 ++
  (List.range 64).flatMap (fun r => toBytes 16 (tget y.scale 0 r).toNat)

/-- Tiles whose in-use flag is set, in ascending order. -/
def savedTiles (c : Crew) : List Nat := (List.range 8).filter (fun t => (tileOf c t).inUse)

/-- The context image of crew cr (R165; DEDUCED, log 15). -/
def contextImage (c : Crew) (cr t : Nat) : List Byte :=
  let saved := savedTiles c
  let loops := c.loops.reverse
  toBytes 2 1 ++ toBytes 1 cr ++ toBytes 1 (stateCode (shownState c t)) ++ toBytes 2 c.pc ++ toBytes 1 c.loops.length ++
  toBytes 1 (saved.foldl (fun m t => m + 2 ^ t) 0) ++ toBytes 4 c.tag ++ toBytes 4 (17664 + saved.length * 17408) ++
  List.replicate 48 (0 : Byte) ++
  (List.range 32).flatMap (fun i => toBytes 8 (sReg c i).toNat) ++
  (List.range 8).flatMap (fun i => toBytes 32 (pReg c i).toNat) ++
  (List.range 4).flatMap (fun i => toBytes 4 (lcReg c i).toNat) ++
  (List.range 4).flatMap (fun i => match loops[i]? with
    | some l => toBytes 2 l.start ++ toBytes 2 l.stop ++ toBytes 4 l.remaining ++ toBytes 4 l.index ++ [0, 0, 0, 0]
    | none => List.replicate 16 (0 : Byte)) ++
  (List.range 32).flatMap (fun l => toBytes 2 (genOf c l).toNat) ++ List.replicate 48 (0 : Byte) ++
  (List.range 8).flatMap (fun i => tileStateBytes (tileOf c i)) ++
  (List.range 32).flatMap (fun i => toBytes 512 (vReg c i).toNat) ++
  saved.flatMap (fun i => tileBytes (tileOf c i))

/-- A saved shape that fails R137. -/
def savedShapeBad (w : Nat) : Bool :=
  decide (bits w 0 7 ≠ 0) && (shapeBad (bits w 0 7) (bits w 8 5) (bits w 16 5) || bit w 7 || decide (bits w 13 3 ≠ 0) ||
    decide (bits w 21 3 ≠ 0) || decide (bits w 29 35 ≠ 0))

/-- An image that a restore into crew cr refuses (R165; DEDUCED, log 15). -/
def imageBad (bs : List Byte) (cr : Nat) : Bool :=
  decide (field bs 0 2 ≠ 1) || decide (field bs 2 1 ≠ cr) ||
  (List.range 8).any (fun t => savedShapeBad (field bs (0x300 + 64 * t) 8))

/-- The offset at which saved tile t stands in an image: after the fixed part and the saved tiles below t. -/
def savedAt (mask t : Nat) : Nat := 0x4500 + 17408 * ((List.range t).filter (fun i => bit mask i)).length

/-- Tile register t as an image holds it (R139, R165). -/
def tileFrom (bs : List Byte) (mask t : Nat) : Tile :=
  let a := 0x300 + 64 * t
  let w := field bs a 8
  let flags := field bs (a + 8) 1
  let rows := bits w 0 7
  let len := bits w 8 5 * 16
  let p := savedAt mask t
  let x := bits flags 2 2
  { rows := rows, len := if rows = 0 then 0 else len, fmt := if rows = 0 then 0 else bits w 16 5
    data := if bit mask t then
      (List.range rows).foldl (fun d r => tset d 0 r (BitVec.ofNat 2048 (field bs (p + r * len) len))) [] else []
    scale := if bit mask t then
      (List.range 64).foldl (fun d r => tset d 0 r (BitVec.ofNat 128 (field bs (p + 16384 + 16 * r) 16))) [] else []
    inUse := bit mask t, pending := bit flags 1
    amax := field bs (a + 0x28) 4, sat := field bs (a + 0x2C) 4, und := field bs (a + 0x30) 4, nan := field bs (a + 0x34) 4
    held := if x = 1 ∨ x = 2 then
      some { store := decide (x = 2), recVa := if bit flags 4 then some (field bs (a + 0x18) 8 % 2 ^ 57) else none,
             check := bit flags 5, prog := field bs (a + 9) 1 % 128, q := field bs (a + 10) 1 % 64,
             va := field bs (a + 0x10) 8 % 2 ^ 57, tag := field bs (a + 0x20) 4,
             crc := BitVec.ofNat 32 (field bs (a + 0x0C) 4), code := 0
             rows := rows, len := if rows = 0 then 0 else len, fmt := if rows = 0 then 0 else bits w 16 5 }
    else none }

/-- The crew that an image describes: stopped, its held transfers held (R165). -/
def crewFrom (old : Crew) (bs : List Byte) : Crew :=
  let mask := field bs 7 1
  let regs := fun (α : Type) (_ : DecidableEq α) (d : α) (n : Nat) (f : Nat → α) =>
    (List.range n).foldl (fun t i => tset t d i (f i)) ([] : Tab α)
  { old with
    state := .stopped, wasState := .stopped, stopAt := 0, pc := field bs 4 2 % 2 ^ 15, ranOff := false, tag := field bs 8 4
    s := regs Word64 inferInstance 0 32 (fun i => BitVec.ofNat 64 (field bs (0x40 + 8 * i) 8))
    p := regs (BitVec 256) inferInstance 0 8 (fun i => BitVec.ofNat 256 (field bs (0x140 + 32 * i) 32))
    lc := regs Word32 inferInstance 0 4 (fun i => BitVec.ofNat 32 (field bs (0x240 + 4 * i) 4))
    gens := regs (BitVec 16) inferInstance 1 32 (fun i => BitVec.ofNat 16 (field bs (0x290 + 2 * i) 2))
    v := regs (BitVec 4096) inferInstance 0 32 (fun i => BitVec.ofNat 4096 (field bs (0x500 + 512 * i) 512))
    loops := ((List.range (min (field bs 6 1) 4)).map (fun i =>
      { start := field bs (0x250 + 16 * i) 2 % 2 ^ 15, stop := field bs (0x252 + 16 * i) 2 % 2 ^ 15,
        remaining := field bs (0x254 + 16 * i) 4, index := field bs (0x258 + 16 * i) 4 : Loop })).reverse
    tiles := regs Tile inferInstance {} 8 (tileFrom bs mask) }

/-- OVM_CTX_CTL takes a value: the operation starts, or sets CTX_ERR and does nothing (R165; DEDUCED, log 15). -/
def writeCtxCtl (s : State) (st : Nat) (v : Nat) : State :=
  let s := modStope s st (fun x => { x with ctxErr := false, trmErr := false })
  let x := stopeOf s st
  let cr := bits v 0 4
  let c := agentOf x cr
  let pa := bits x.ctxAddr.toNat 0 48
  let mask := if bit v 4 then (byteAt s (pa + 7)).toNat else (savedTiles c).foldl (fun m t => m + 2 ^ t) 0
  if x.ctxBusy ∨ ctxHome s st pa (imageLength mask) = false ∨ atRest c s.now = false ∨ crewQuiet x cr s.now = false ∨
      noXfers x cr = false then
    putStope s st { x with ctxErr := true }
  else putStope s st { x with ctxBusy := true, ctxOp := some (cr, bit v 4, pa) }

/-- CONTEXT_SAVE (R165). -/
def execContextSave (st : Nat) (v : Word64) (s : State) : Answer :=
  if bit v.toNat 4 then .next s else .next (writeCtxCtl (settle s st) st v.toNat)

/-- CONTEXT_RESTORE (R165). -/
def execContextRestore (st : Nat) (v : Word64) (s : State) : Answer :=
  if bit v.toNat 4 then .next (writeCtxCtl (settle s st) st v.toNat) else .next s

/-- An event of a context operation: the memory does not give or take the image, which leaves the crew as it is (R30, R281, R355;
DESIGN CHOICE, log 15). -/
def ctxFault (s : State) (st cr pa code : Nat) : State :=
  let c := crewOf s st cr
  xferEvent (modStope s st (fun x => { x with ctxErr := true })) st cr code (pa % 2 ^ 57) 0 c.tag c.epoch

/-- CONTEXT_DONE: the last byte lands; a refused image changes nothing; the operand says what the reads of a restore met (R165, R346, R355;
DEDUCED, log 15). -/
def execContextDone (m : Fetch) (s : State) : Answer :=
  let st := m.n
  let s := settle s st
  let x := stopeOf s st
  match x.ctxOp with
  | none => .next s
  | some (cr, restore, pa) =>
    let x := { x with ctxBusy := false, ctxOp := none }
    let c := agentOf x cr
    if restore then
      let bs := readBytes s pa 156928
      let s := readEcc (putStope s st x) pa m.ecc
      let x := stopeOf s st
      match readFault s pa (field bs 12 4) m.ecc with
      | some code => .next (ctxFault s st cr pa code)
      | none =>
      if imageBad bs cr then .next (putStope s st { x with ctxErr := true })
      else
        let x := putAgent x cr (crewFrom c bs)
        .next (recountClaim (ungate (putStope s st x) st none) st)
    else
      let img := contextImage c cr s.now
      let s := putStope s st x
      if refusedWrite s (.tram st) pa img.length then .next (ctxFault s st cr pa fcAddrHole)
      else
        let w := physWrite (modStope s st (fun x => { x with ctxBytes := x.ctxBytes + img.length })) (.tram st) c.round pa img
        .next (if w.2 = [] then w.1 else ctxFault (reportGob w.1 c.tag w.2) st cr pa fcGobFull)

/-! ### System registers (R134, R162, R338) -/

/-- OVM_CREW_c (R134). -/
def ovmCrew (x : Stope) (cr t : Nat) : Nat :=
  let c := agentOf x cr
  c.pc + stateCode (shownState c t) * 2 ^ 16 + b2n (crewQuiet x cr t) * 2 ^ 19 + c.loops.length * 2 ^ 20 + c.faultCode * 2 ^ 32

/-- Classes that have a pending event. -/
def pendClasses (x : Stope) : Nat := (List.range 16).foldl (fun m k => if x.events.any (fun e => decide (e.cls = k)) then m + 2 ^ k else m) 0

/-- Held slots, one bit each. -/
def slotMask (x : Stope) : Nat := (List.range 16).foldl (fun m i => if (tget x.heldSlots none i).isSome then m + 2 ^ i else m) 0

/-- QUIESCED: a quiesce stands and no transfer is active (R164, R167). -/
def quiesced (x : Stope) : Bool := x.quiesce && decide (activeCount x = 0)

/-- A system register's value; an unlisted one reads 0 (R8). -/
def sysRead (s : State) (st n : Nat) : Nat :=
  let x := stopeOf s st
  match n with
  | 0x00 => b2n x.evOn + b2n x.inHandler * 2 + b2n x.crwIgn * 4 + b2n x.fltBusy * 8 + x.overrun * 2 ^ 16
  | 0x01 => x.epc.toNat
  | 0x02 => x.ecause.toNat
  | 0x03 => x.earg.toNat
  | 0x04 => x.etag.toNat
  | 0x05 => x.evMask.toNat
  | 0x06 => pendClasses x
  | 0x07 => s.now
  | 0x08 => s.rnd.round
  | 0x22 => x.ctxAddr.toNat
  | 0x24 => b2n x.ctxBusy + b2n x.ctxErr * 2 + b2n (quiesced x) * 4 + b2n x.trmErr * 8 + slotMask x * 2 ^ 16
  | 0x31 => x.traceArg.toNat
  | n => if 0x10 ≤ n ∧ n < 0x20 then ovmCrew x (n - 0x10) s.now else 0

/-- OVM_TRACE takes an event code (R338). -/
def writeTrace (s : State) (st : Nat) (v : Nat) : State :=
  let x := stopeOf s st
  let o := agentOf x 16
  if 0x8000 ≤ v ∧ v < 2 ^ 16 then traceRec s st v o.tag o.epoch 0x10 x.traceArg.toNat else s

/-- A system register takes a value; RO and unlisted ones do not. An OVERRUN bit that an event of the same cycle sets stays set (R8, R10,
R134; DEDUCED, log 12). -/
def sysWrite (s : State) (st n v : Nat) : State :=
  match n with
  | 0x00 => modStope s st (fun x => { x with
      evOn := bit v 0, inHandler := bit v 1, crwIgn := x.crwIgn && !bit v 2
      overrun := (x.overrun &&& (x.overrun ^^^ (bits v 16 16))) ||| (if x.overAt = s.now + 1 then x.overFresh else 0) })
  | 0x01 => modStope s st (fun x => { x with epc := BitVec.ofNat 64 (v % 2 ^ 15) })
  | 0x05 => modStope s st (fun x => { x with evMask := BitVec.ofNat 64 (bits v 2 14 * 4) })
  | 0x20 => writeTrmCtl s st v
  | 0x21 =>
    let s := if bit v 0 then quiesceOn s st else s
    if bit v 1 then quiesceOff s st else s
  | 0x22 => modStope s st (fun x => { x with ctxAddr := BitVec.ofNat 64 (v % 2 ^ 48) })
  | 0x23 => writeCtxCtl s st v
  | 0x28 => if bit v 0 then cancelSwap s st else s
  | 0x30 => writeTrace s st v
  | 0x31 => modStope s st (fun x => { x with traceArg := BitVec.ofNat 64 v })
  | _ => s

/-- OVM_TRACE (R338). -/
def execOvmTrace (st : Nat) (v : Word64) (s : State) : Answer := .next (writeTrace s st v.toNat)

/-- TRC_CTL's CLEAR: TRC_HEAD is 0, and the records that the monitor has still to write go from there on and count for STOP (R339,
R340; DEDUCED, log 48). -/
def clearTrace (s : State) (st : Nat) : State :=
  let t := (stopeOf s st).trace
  let u := traceUnwritten t s.now
  let bs := (List.range u).flatMap (fun i => readBytes s (traceAddr st ((t.head + 8192 - u + i) % 8192 * 32)) 32)
  writeCells (modStope s st (fun x => { x with trace := { t with
    head := u, sinceClear := u, cycleAgents := (agentsNow t s.now).take u } })) (cellsAt (traceAddr st 0) bs)

/-- TRACE_CLEAR (R340). -/
def execTraceClear (st : Nat) (s : State) : Answer := if levelHeld s (stopeLevel st) then .next s else .next (clearTrace s st)

/-! ### Privileged instructions (R128) -/

/-- A privileged instruction: PRIV_OP on a crew; on the overman its effect with the legal fields (R107, R128). -/
def privOp (st ag : Nat) (w : Word64) (op : Nat) (legal : Bool) (body : State → Crew → Nat → IssueRes) (s : State) : State :=
  issue s st ag w op plain 0 always (fun t c =>
    if ag ≠ 16 then .trapOpen fcPrivOp
    else if legal then body t (crewOf t st 16) c
    else .trapOpen fcIllegalOp)

/-- One write of the overman, n cycles after issue. -/
def ovmWrite (t : State) (st c n : Nat) (e : Eff) : State := startWrites t st 16 c [(n, e)]

/-- SYSRD: Sd at issue + 2 (R128, R134). -/
def execSysrd (st ag : Nat) (w : Word64) (s : State) : Answer :=
  .next (privOp st ag w 0x60 (onlyFields w [pD, pSys]) (fun t _ c =>
    .done (ovmWrite t st c 2 (writeS (fD w) (BitVec.ofNat 64 (sysRead t st (fSys w))))) (.seq 1)) s)

/-- SYSWR (R128, R134). -/
def execSyswr (st ag : Nat) (w : Word64) (s : State) : Answer :=
  .next (privOp st ag w 0x61 (onlyFields w [pA, pSys]) (fun t o _ =>
    .done (sysWrite t st (fSys w) (sReg o (fA w)).toNat) (.seq 1)) s)

/-- The crew that Sa names. -/
def crewArg (o : Crew) (w : Word64) : Nat := bits (sReg o (fA w)).toNat 0 4

/-- The counted cycle of device cycle t. -/
def countedAt (s : State) (st t : Nat) : Nat := cnt (stopeOf s st).clk t

/-- A crew starts running for the overman's command at a PC with no loops, from device cycle t on (R128; DEDUCED, log 12). -/
def startCrew (s : State) (st cr pc t : Nat) : State :=
  let s := ungate s st none
  let n := countedAt s st t
  modStope s st (fun x =>
    let o := agentOf x 16
    modAgent x cr (fun c => { c with
      state := .running, wasState := .running, pc := pc, ranOff := false, loops := [], nextIssue := max c.nextIssue n, wakeAt := t
      tag := o.tag, epoch := o.epoch, round := o.round }))

/-- CRSTART: Sd is 0, or 1 when the crew was in another state, a faulted one among them (R128; R133 speaks of a CRSTART of a
faulted crew; DESIGN CHOICE, log 12). -/
def execCrstart (st ag : Nat) (w : Word64) (s : State) : Answer :=
  .next (privOp st ag w 0x62 (onlyFields w [pD, pA, pB]) (fun t o c =>
    let cr := crewArg o w
    let k := crewOf t st cr
    let ok : Bool := match shownState k c with | .idle => true | .stopped => true | _ => false
    let t := if ok then startCrew t st cr (bits (sReg o (fB w)).toNat 0 15) (c + 4) else t
    .done (ovmWrite t st c 4 (writeS (fD w) (if ok then 0 else 1))) (.seq 1)) s)

/-- A crew stops, from device cycle t on: a waiting one once its wait is withdrawn (R176). It issues nothing more from now on, though it
shows stopped from t on. A hold at issue ends in counted cycle n and is counted (R100, R128; DEDUCED, log 12). -/
def stopCrew (off : Bool) (n t : Nat) (c : Crew) : Crew :=
  match c.state with
  | .running => { countHeld off n c with state := .stopped, stopAt := t, wasState := .running }
  | .fenced => { c with state := .stopped, stopAt := t, wasState := .fenced }
  | .waiting => { c with stopping := true, stopAt := t }
  | _ => c

/-- CRSTOP (R128, R176). -/
def execCrstop (st ag : Nat) (w : Word64) (s : State) : Answer :=
  .next (privOp st ag w 0x63 (onlyFields w [pA]) (fun t o c =>
    .done (modStope (ungate t st none) st (fun x =>
      stirred (modAgent x (crewArg o w) (stopCrew (monitorOff t (stopeLevel st)) (cnt x.clk t.now) (c + 4))) (c + 4))) (.seq 1)) s)

/-- CRRES: a stopped or faulted crew goes on at its PC; one stopped at a FENCE returns to fenced when a swap is pending (R128;
DEDUCED, log 12). -/
def execCrres (st ag : Nat) (w : Word64) (s : State) : Answer :=
  .next (privOp st ag w 0x64 (onlyFields w [pA]) (fun t o c =>
    let cr := crewArg o w
    let k := crewOf t st cr
    let u := ungate t st none
    let n := countedAt u st (c + 4)
    let pend := (stopeOf t st).swapPending
    match shownState k c with
    | .stopped =>
      .done (modCrew u st cr (fun k => { k with
        state := if k.wasState = .fenced ∧ pend then .fenced else .running, nextIssue := max k.nextIssue n, wakeAt := c + 4 })) (.seq 1)
    | .faulted =>
      .done (modCrew u st cr (fun k => { k with state := .running, nextIssue := max k.nextIssue n, wakeAt := c + 4 })) (.seq 1)
    | _ => .done t (.seq 1)) s)

/-- CRRD: Sd at issue + 4; a reserved element is an illegal field (R129). -/
def execCrrd (st ag : Nat) (w : Word64) (s : State) : Answer :=
  .next (privOp st ag w 0x65 (onlyFields w [pD, pA, pSys]) (fun t o c =>
    match elemOf (fSys w) with
    | none => .trapOpen fcIllegalOp
    | some e =>
      .done (ovmWrite t st c 4 (writeS (fD w) (BitVec.ofNat 64 (readElem (crewOf t st (crewArg o w)) c e)))) (.seq 1)) s)

/-- A CRWR's write overtakes the crew's own writes in flight to the element (R102). -/
def cancelElem (e : Elem) (c : Crew) : Crew :=
  match elemDest e with
  | some (d, _, mask) => { c with pend := c.pend.map (cancelUnder d mask) }
  | none => c

/-- CRWR: the element at issue + 2 when the crew is idle, stopped or faulted, else CRW_IGN (R102, R128, R129). -/
def execCrwr (st ag : Nat) (w : Word64) (s : State) : Answer :=
  .next (privOp st ag w 0x66 (onlyFields w [pA, pB, pSys]) (fun t o c =>
    match elemOf (fSys w) with
    | none => .trapOpen fcIllegalOp
    | some e =>
      let cr := crewArg o w
      if atRest (crewOf t st cr) c then
        let t := modCrew (ungate t st none) st cr (cancelElem e)
        .done (ovmWrite t st c 2 (.elem cr (fSys w) (sReg o (fB w)).toNat)) (.seq 1)
      else .done (modStope t st (fun x => { x with crwIgn := true })) (.seq 1)) s)

/-! ### Claim images (R159) -/

/-- The rights and the mode that the map's row at a physical address permits: read, write, mode (R159). -/
def claimRow (s : State) (pa : Nat) : Option (Bool × Bool × Nat) :=
  match locate s pa with
  | .hbm .. => some (true, true, if pa < 2 ^ 40 then 0 else 1)
  | .store .. => some (true, true, 2)
  | .acc .. => some (true, false, 2)
  | .prog .. => some (false, true, 2)
  | .trace .. => some (true, false, 2)
  | _ => none

/-- First and last byte of a region lie in one row of the map, and a LOCAL region in the data of one stack. -/
def sameRow (s : State) (a b : Nat) : Bool :=
  match locate s a, locate s b with
  | .hbm k _, .hbm j _ => decide (a < 2 ^ 40 ∧ b < 2 ^ 40 ∧ k = j) || decide (2 ^ 40 ≤ a ∧ 2 ^ 40 ≤ b)
  | .store .., .store .. => true
  | .acc .., .acc .. => true
  | .prog .., .prog .. => true
  | .trace .., .trace .. => true
  | _, _ => false

/-- The claim of an image of 32 bytes. -/
def imageClaim (bs : List Byte) : Claim :=
  let ctl := field bs 16 1
  { valid := bit ctl 0, vbase := field bs 0 8, pbase := field bs 8 8, rd := bit ctl 1, wr := bit ctl 2
    mode := bits ctl 3 2, log2 := field bs 17 1 }

/-- CLMLD refuses an image with VALID set (R159). -/
def claimBad (s : State) (bs : List Byte) : Bool :=
  let c := imageClaim bs
  decide (bits (field bs 16 1) 5 3 ≠ 0) || decide (field bs 18 14 ≠ 0) || decide (2 ^ 57 ≤ c.vbase) || decide (2 ^ 48 ≤ c.pbase) ||
  decide (c.log2 < 16) || decide (36 < c.log2) || decide (c.vbase % 2 ^ c.log2 ≠ 0) || decide (c.pbase % 2 ^ 16 ≠ 0) ||
  !sameRow s c.pbase (c.pbase + 2 ^ c.log2 - 1) ||
  (match claimRow s c.pbase with
    | some (r, w, m) => decide (m ≠ c.mode) || (c.rd && !r) || (c.wr && !w)
    | none => true)

/-- CLMLD: translations that start at issue + 4 or later use the window (R128, R159); an offset beyond
the memory as in SLD, at any alignment (DESIGN CHOICE, log 12). -/
def execClmld (st ag : Nat) (w : Word64) (s : State) : Answer :=
  .next (privOp st ag w 0x67 (onlyFields w [pA, pB]) (fun t o c =>
    let win := bits (sReg o (fA w)).toNat 0 9
    let off := (sReg o (fB w)).toNat
    if 2 ^ 18 < off + 32 then .trap fcAddrHole off
    else
      let bs := readBytes t (ovmAddr st off) 32
      if (imageClaim bs).valid = false then .done (ovmWrite t st c 4 (.claim win {})) (.seq 1)
      else if claimBad t bs then .trapAfter (ovmWrite t st c 4 (.claim win {})) 0x0202
      else .done (ovmWrite t st c 4 (.claim win (imageClaim bs))) (.seq 1)) s)

/-- CLMINV (R128, R159). -/
def execClminv (st ag : Nat) (w : Word64) (s : State) : Answer :=
  .next (privOp st ag w 0x68 (onlyFields w [pA]) (fun t o c =>
    .done (ovmWrite t st c 4 (.claim (bits (sReg o (fA w)).toNat 0 9) {})) (.seq 1)) s)

/-- PSWAP (R122, R128). -/
def execPswap (st ag : Nat) (w : Word64) (s : State) : Answer :=
  .next (privOp st ag w 0x69 (onlyFields w []) (fun t _ _ => .done (requestSwap t st) (.seq 1)) s)

/-- EVWAIT: the overman sleeps unless an unmasked event is pending (R128; DEDUCED, log 12). -/
def execEvwait (st ag : Nat) (w : Word64) (s : State) : Answer :=
  .next (privOp st ag w 0x6A (onlyFields w []) (fun t _ _ =>
    if eventPending (stopeOf t st) then .done t (.seq 2)
    else .done (modCrew t st 16 (fun o => { o with state := .waiting })) (.seq 1)) s)

/-- ERET: PC ← OVM_EPC, events enabled, next issue ≥ issue + 3 (R128; DEDUCED, log 12). -/
def execEret (st ag : Nat) (w : Word64) (s : State) : Answer :=
  .next (privOp st ag w 0x6B (onlyFields w []) (fun t _ _ =>
    .done (modStope t st (fun x => { x with evOn := true, inHandler := false }))
      (.jump ((stopeOf t st).epc.toNat % 2 ^ 15))) s)

/-- FLTREC: 64 bytes of data memory set out for the fault log; FLTREC busy (R128, R350); an offset beyond the
memory as in SLD, at any alignment (DESIGN CHOICE, log 12). -/
def execFltrec (st ag : Nat) (w : Word64) (s : State) : Answer :=
  .next (privOp st ag w 0x6C (onlyFields w [pA]) (fun t o _ =>
    let off := (sReg o (fA w)).toNat
    if 2 ^ 18 < off + 64 then .trap fcAddrHole off
    else
      let t' := modStope t st (fun x => { x with fltBusy := true })
      .done { t' with flt := { t'.flt with subm := t'.flt.subm ++ [(st, readBytes t (ovmAddr st off) 64)] } } (.seq 1)) s)

/-! ### Events (R131) -/

/-- The pending unmasked event that goes first: lowest class, oldest within it. -/
def nextEvent (x : Stope) : Option Event :=
  ((List.range 16).filterMap (fun k => if masked x k then none else x.events.find? (fun e => decide (e.cls = k)))).head?

/-- OVM_ECAUSE of an event (R134, R149; DESIGN CHOICE, log 13). -/
def causeWord (e : Event) : Nat := e.cls + e.crew % 16 * 2 ^ 8 + e.code * 2 ^ 16 + e.pc % 2 ^ 15 * 2 ^ 32 + e.extra % 2 ^ 6 * 2 ^ 48

/-- OVERMAN_EVENT_ENTRY: the instruction in issue completes, then the handler of the lowest class is entered with events
disabled; the event is the one that goes first when the entry begins (R131; DEDUCED, log 12). -/
def execOvermanEventEntry (st : Nat) (s : State) : Answer :=
  let x := stopeOf s st
  let o := agentOf x 16
  match nextEvent x with
  | none => .next s
  | some e =>
    if x.evOn = false ∨ o.state ≠ .running then .next s
    else
      let s := settle (advance s o.nextIssue) st
      let x := stopeOf s st
      let o := agentOf x 16
      let x := { x with
        events := x.events.erase e, evOn := false, inHandler := true
        epc := BitVec.ofNat 64 o.pc, ecause := BitVec.ofNat 64 (causeWord e), earg := BitVec.ofNat 64 e.arg
        etag := BitVec.ofNat 64 (e.tag % 2 ^ 32 + e.epoch % 2 ^ 16 * 2 ^ 32) }
      .next (putStope s st (putAgent x 16 { o with pc := 16 * e.cls, ranOff := false }))

end Sys2Proof.Machine
end

