-- ==== Sys2Proof/Machine/CmdOps.lean ====
section
/-! DEFINITION. Shared operations on accepted commands: what they target and declare (R323, R325), how they end (R166,
R176, R187, R188, R331), and the points of the round clock (R268). -/

namespace Sys2Proof.Machine

/-! ### The round clock (R268) -/

/-- Round length in ns. -/
def roundNs (s : State) : Nat := s.rnd.lenUs * 1000

/-- What slewing has added by device cycle t: at most 100 ns per ms of the error that was found (R272). -/
def slewed (r : Round) (t : Nat) : Int :=
  let most : Int := (((t - r.slewAt) / 10000 : Nat) : Int)
  if r.slew < 0 then max r.slew (-most) else min r.slew most

/-- What the trim of the phase rate has added by device cycle t, ns (R272; DESIGN CHOICE, log 17). -/
def trimmed (r : Round) (t : Nat) : Int := r.trim * (((t - r.slewAt : Nat) : Int)) / 1000000000

/-- Phase at device cycle t, as the clock runs (R268, R272). -/
def phaseAt (r : Round) (t : Nat) : Int := (t : Int) - r.origin + slewed r t + trimmed r t

/-- Phase in ns (R268). -/
def phaseNs (s : State) : Nat := (phaseAt s.rnd s.now).toNat

/-- The first device cycle, from t on, at which the clock has reached phase p; n cycles are tried. -/
def firstAt (r : Round) (p t : Nat) : Nat → Nat
  | 0 => t
  | n + 1 => if (p : Int) ≤ phaseAt r t then t else firstAt r p (t + 1) n

/-- Device cycle of a phase of the current round: the slew and the trim move it by less than the last two of three corrections of
the plain count leave (R272; DESIGN CHOICE, log 17). -/
def phaseTime (s : State) (p : Nat) : Nat :=
  let r := s.rnd
  let fix := fun (t : Nat) => (r.origin + (p : Int) - slewed r t - trimmed r t).toNat
  firstAt r p (fix (fix (fix (r.origin + (p : Int)).toNat)) - 3) 8

/-- The clock has reached or passed a point (R276). -/
def reached (s : State) (round phase : Nat) : Bool :=
  decide (round < s.rnd.round) || (decide (round = s.rnd.round) && decide (phase ≤ phaseNs s))

/-- A mark is armed in this cycle, for a point that the clock has reached already or has still to reach (R276). -/
def armNow (s : State) (m : Mark) : Mark := { m with armed := true, armedAt := s.now, past := reached s m.round m.phase }

/-! ### Density (R290, R291) -/

/-- The density limit of ebb and of EXHAUSTED, as a code (R291). -/
def densityLimit (s : State) : Nat := if s.nrg.exhausted then 3 else if s.ebb then 2 else 0

/-- A command's effective density code. -/
def effDensity (s : State) (c : Cmd) : Nat := max c.density (densityLimit s)

/-- A stope's effective density code: its command's, ebb's, EXHAUSTED's; a reserved stope takes only ebb's (R258, R291). -/
def stopeDensity (s : State) (st : Nat) : Nat :=
  if isReserved s st then (if s.ebb then 2 else 0)
  else (s.cmds.filter (fun c => isRunning c && bit c.desc.target st)).foldl (fun d c => max d (effDensity s c)) (densityLimit s)

/-- A stope that is there takes its effective density (R68, R291). -/
def tuneStope (s : State) (st : Nat) : State := if stopeAbsent s st then s else setDensity s st (stopeDensity s st)

/-! ### Commands -/

/-- Logical stopes that a command targets (R323). -/
def targetsOf (c : Cmd) : List Nat := (List.range 160).filter (fun st => bit c.desc.target st)

/-- The levels of a list of stopes. -/
def levelsOf (sts : List Nat) : List Nat := (sts.map stopeLevel).eraseDups

/-- The tallies that a command declares: scope, unit, number (R325). -/
def tallyKeys (c : Cmd) : List (Scope × Nat × Nat) :=
  c.desc.tallies.flatMap (fun d =>
    match scopeOf d.sc with
    | .stope => (targetsOf c).map (fun st => (Scope.stope, st, d.num))
    | .level => (levelsOf (targetsOf c)).map (fun n => (Scope.level, n, d.num))
    | .device => [(Scope.device, 0, d.num)])

/-- The live command of a tag, or the last of that tag that ended. -/
def cmdOf (s : State) (tag : Nat) : Option Cmd :=
  let cs := (s.cmds.filter (fun c => decide (c.tag = tag))).reverse
  match cs.find? unfinished with
  | some c => some c
  | none => cs.head?

/-- The command of a tag in one of the states that `p` names. -/
def cmdIn (s : State) (tag : Nat) (p : Cmd → Bool) : Option Cmd := s.cmds.find? (fun c => decide (c.tag = tag) && p c)

/-- A command is known by its place in the order of acceptance. -/
def putCmd (s : State) (c : Cmd) : State := { s with cmds := s.cmds.map (fun d => if d.order = c.order then c else d) }

/-- The completion record (R331, R332). -/
def completionBytes (c : Cmd) : List Byte :=
  toBytes 4 c.tag ++ toBytes 2 c.epoch ++ toBytes 1 c.outcome ++ toBytes 1 (min c.nrep 255) ++ toBytes 6 c.round ++
  toBytes 2 c.code ++ toBytes 8 c.start ++ toBytes 8 c.finish ++ toBytes 2 (min c.preempts 65535) ++
  toBytes 1 c.minDensity ++ [0] ++
  (List.range 7).flatMap (fun i => toBytes 4 (match c.reports[i]? with | some r => r.1 + r.2 % 2 ^ 24 * 256 | none => 0))

/-- The command leaves the dispatcher with an outcome and its COMPLETION goes to its mailbox, its stopes take the density that is left
to them (R291, R331). One never dispatched bears the cycle of the decision in both stamps (DEDUCED, log 35). -/
def finishCmd (s : State) (c : Cmd) (outcome code : Nat) : State :=
  let c := { c with
    state := .finished, outcome := outcome, code := code, finish := s.now, heldEnergy := false
    start := if c.everStarted then c.start else s.now }
  let s := putCmd s c
  let s := post s { mbx := c.mbx, typ := 0x40, note := true, tag := c.tag, epoch := c.epoch, payload := completionBytes c }
  if c.everStarted then
    (targetsOf c).foldl (fun s st => tuneStope (traceRec s st 0x0002 c.tag c.epoch 0x40 (outcome + code * 256)) st) s
  else s

/-! ### Ending the work of a command on a stope -/

/-- A crew's wait leaves its tally block (R176). -/
def unlist (s : State) (st cr : Nat) : State :=
  match (crewOf s st cr).wait with
  | none => s
  | some w =>
    dropWaiters s w.sc w.unit w.num (fun v => decide (v.st = st ∧ v.cr = cr))

/-- The crews of a stope that `p` names are stopped and returned to idle; waits and holds at issue that end are counted, and a crew
that leaves state waiting wakes the stope (R180, R190, R284). -/
def endCrews (s : State) (st : Nat) (p : Crew → Bool) : State :=
  (List.range 16).foldl (fun s cr =>
    let c := crewOf s st cr
    if p c ∧ c.state ≠ .idle then
      let s := unlist s st cr
      let s := if c.state = .waiting then ungate s st none else s
      modStope s st (fun x => stirred (modAgent x cr (fun c =>
        { countHeld (monitorOff s (stopeLevel st)) (cnt x.clk s.now) (countWait (monitorOff s (stopeLevel st)) s.now c) with
          state := .idle, wait := none, stopping := false })) s.now)
    else s) s

/-- The crew works for a command. -/
def worksFor (c : Cmd) (k : Crew) : Bool := decide (k.tag = c.tag ∧ k.epoch = c.epoch)

/-- The work of a command ends on a stope: its crews, its transfers, its HOISTs (R166, R229, R284). -/
def endWork (s : State) (c : Cmd) (st : Nat) : State :=
  let s := endXfers (endCrews (settle s st) st (worksFor c)) st c.tag
  modStope s st (fun x => { x with hoists := x.hoists.filter (fun h => decide (h.tag ≠ c.tag)) })

/-- The work of a command ends on every stope it targets. -/
def endWorkAll (s : State) (c : Cmd) : State := (targetsOf c).foldl (fun s st => endWork s c st) s

/-- The sieve of a level stops working for a tag; elements that differed are reported (R199, R332). -/
def endSieve (s : State) (tag : Nat) : State :=
  (List.range 8).foldl (fun s n =>
    let v := (levelOf s n).sieve
    if v.busy ∧ v.tag = tag then
      let s := modLevel s n (fun l => { l with sieve := { v with busy := false } })
      if v.cmdDiff = 0 then s else addReport s tag 2 (min v.cmdDiff (2 ^ 24 - 1))
    else s) s

/-- The command as it stands now. -/
def sameCmd (s : State) (c : Cmd) : Cmd := (s.cmds.find? (fun d => decide (d.order = c.order))).getD c

/-- TALLY_LEFT for every declared tally whose count differs from the recorded one (R187, R332). -/
def reportTallies (s : State) (c : Cmd) : State :=
  c.recorded.foldl (fun s k =>
    if (tallyOf s k.1 k.2.1 k.2.2.1).count = k.2.2.2 then s
    else addReport s c.tag 1 (k.2.2.1 + scopeCode k.1 * 2 ^ 10 + k.2.1 * 2 ^ 12)) s

/-- HOIST_ENDED for every reduction of a command whose result record is unwritten (R229, R332). -/
def reportReductions (s : State) (c : Cmd) : State := c.reductions.foldl (fun s r => addReport s c.tag 3 (r.2 + r.1 * 256)) s

/-- A command ends on all its stopes with ENDED and a code; its tallies are compared, and as its record closes here it names the
reductions that it leaves unwritten (R187, R229, R331, R357; DEDUCED, log 35). `lost`: by a retirement or a reset (R358). -/
def endCommand (s : State) (c : Cmd) (code : Nat) (lost : Bool) : State :=
  let s := reportReductions (reportTallies (endSieve (endWorkAll s c) c.tag) c) c
  finishCmd s { sameCmd s c with lost := lost } 3 code

/-- Every running command whose target set meets a list of stopes ends with a code; a preempted one is held for its stopes (R23,
R205, R357, R359). -/
def endOnStopes (s : State) (sts : List Nat) (code : Nat) : State :=
  (s.cmds.filter isRunning).foldl (fun s c =>
    if (targetsOf c).any (fun st => sts.contains st) then endCommand s c code true else s) s

/-- The levels on which a command has work (R200, R360). -/
def workLevels (c : Cmd) : List Nat := if c.desc.opcode = 3 then [c.desc.arg % 8] else levelsOf (targetsOf c)

/-- Every command with work on level n ends with a code, queued ones too (R343, R360; DEDUCED, log 36). -/
def endOnLevel (s : State) (n code : Nat) : State :=
  (s.cmds.filter unfinished).foldl (fun s c =>
    if (workLevels c).contains n then endCommand s c code true else s) s

/-- Tally k of a declared set goes back to its base, and its waiters are scanned (R188; DEDUCED, log 47). -/
def toBase (s : State) (k : Scope × Nat × Nat) : State :=
  restoreCount s k.1 k.2.1 k.2.2

/-- An uncorrectable word of HBM ends a command: the fault record, then the completion record (R346, R348). -/
def failUncorr (s : State) (c : Cmd) : State :=
  endCommand (logOpen s { code := fcMemUncorr, source := 4, tag := c.tag, epoch := c.epoch, action := 3 }) c fcMemUncorr false

/-- A fault of a command's own work ends it (R346, R347): the first of its tag that runs. -/
def failCommand (s : State) (tag code : Nat) : State :=
  match cmdIn s tag isRunning with
  | some c => endCommand s c code false
  | none => s

end Sys2Proof.Machine
end

