-- ==== Sys2Proof/Machine/Hoist.lean ====
section
/-! DEFINITION. The hoists: reduction entries and slots (R207 to R209), segments (R211 to R213), slices and windows
(R215 to R218), paths (R219 to R221), cutoffs, sums and results (R222 to R229). -/

namespace Sys2Proof.Machine

def fcHoistSlot : Nat := 0x0209
def fcHoistRange : Nat := 0x020A
def fcHoistDesc : Nat := 0x0506
def fcHoistPort : Nat := 0x0507
def fcTied : Nat := 0x0508
def fcHoistCheck : Nat := 0x0601

/-! ### Reduction entries (R208, R209) -/

/-- Six 4-bit port numbers. -/
def nibbles (x : Nat) : List Nat := (List.range 6).map (fun k => bits x (4 * k) 4)

/-- The entry of 128 bytes (R208). -/
def entryOf (bs : List Byte) : Entry :=
  let f := field bs
  { topo := bits (f 0 1) 0 2, toRoot := bit (f 0 1) 2, mean := bit (f 0 1) 3, timed := bit (f 0 1) 4
    rank := bits (f 1 1) 0 3, stage := bit (f 1 1) 3, home := bits (f 2 1) 0 3, slot := f 3 1, id := f 4 4
    group := f 8 2, index := f 0x0A 2, sources := f 0x0C 2, contrib := f 0x0E 2, elems := bits (f 0x10 8) 0 40
    dst := bits (f 0x18 8) 0 48, recPa := bits (f 0x20 8) 0 48, dlRound := f 0x28 1, dlPhase := f 0x29 5
    grace := f 0x2E 2, locals := f 0x30 1, pairs := bits (f 0x31 1) 0 3, done := bits (f 0x32 2) 0 10
    next := nibbles (f 0x34 3), prev := nibbles (f 0x37 3), parent := bits (f 0x3A 1) 0 4, height := f 0x3B 1
    children := bits (f 0x3C 2) 0 12, ringN := f 0x3E 2, pathH := f 0x40 2 }

/-- A reserved value, or a reserved field that is not zero (R208, R209). -/
def entryReserved (bs : List Byte) : Bool :=
  let f := field bs
  decide (bits (f 0 1) 0 2 = 3 ∨ f 0 1 / 32 ≠ 0 ∨ 6 ≤ bits (f 1 1) 0 3 ∨ f 1 1 / 16 ≠ 0 ∨ f 2 1 / 8 ≠ 0) ||
  decide (f 0x10 8 / 2 ^ 40 ≠ 0 ∨ f 0x18 8 / 2 ^ 48 ≠ 0 ∨ f 0x20 8 / 2 ^ 48 ≠ 0 ∨ f 0x31 1 / 8 ≠ 0 ∨ f 0x32 2 / 1024 ≠ 0) ||
  decide (f 0x3A 1 / 16 ≠ 0 ∨ f 0x3C 2 / 4096 ≠ 0 ∨ field bs 0x42 62 ≠ 0)

/-- n bytes from pa lie wholly in one HBM view's data or in one stope store (R209). -/
def oneRegion (s : State) (pa n : Nat) : Bool :=
  match locate s pa, locate s (pa + n - 1) with
  | .hbm j _, .hbm k _ => decide (pa + n ≤ 2 ^ 40 ∧ j = k) || decide (2 ^ 40 ≤ pa)
  | .store j _, .store k _ => decide (j = k)
  | _, _ => false

/-- Values outside their ranges (R209; DEDUCED, log 22). -/
def entryRange (e : Entry) : Bool :=
  decide (e.group = 0 ∨ 4096 < e.group ∨ e.group ≤ e.index ∨ e.elems = 0 ∨ e.locals = 0 ∨ 160 < e.locals ∨ e.contrib = 0) ||
  (match e.topo with
    | 0 => decide (e.pairs = 0 ∨ 6 < e.pairs ∨ e.ringN ≠ e.group)
    | 1 => decide (e.pairs ≠ 0 ∨ e.ringN ≠ 0)
    | _ => decide (e.pairs = 0 ∨ 6 < e.pairs ∨ e.ringN = 0 ∨ 8 < e.ringN ∨ e.group % e.ringN ≠ 0))

/-- The largest H of this device over the slices (R209, R219 to R221; DEDUCED, log 22). -/
def ownH (e : Entry) : Nat :=
  match e.topo with
  | 0 => e.group - 1
  | 1 => e.height
  | _ => e.ringN - 1 + e.height

/-- The ports that an entry names (R209). -/
def entryPorts (e : Entry) : List Nat :=
  e.next.take e.pairs ++ e.prev.take e.pairs ++
  (if e.topo = 0 then [] else (if e.parent = 15 then [] else [e.parent]) ++ (List.range 12).filter (fun p => bit e.children p))

/-- A port is down (R209, R246). -/
def portDown (s : State) (p : Nat) : Bool :=
  decide (12 ≤ p) || (match (portOf s p).state with | .down => true | .training => true | _ => false)

/-- The refusal of one entry of a command of round `rnd`, none when it is sound (R209; DEDUCED, log 22). -/
def entryFault (s : State) (bs : List Byte) : Option Nat :=
  let e := entryOf bs
  let slot := slotOf (hoistOf s e.home) e.slot
  if e.rank ≠ 0 ∧ 1 < e.sources then some fcTied
  else if entryReserved bs ∨ entryRange e ∨ e.dst % 16384 ≠ 0 ∨ e.recPa % 64 ≠ 0 ∨
    oneRegion s e.dst ((e.elems + 4095) / 4096 * 16384) = false ∨ oneRegion s e.recPa 64 = false ∨
    roundNs s ≤ e.dlPhase ∨ e.pathH < ownH e then some fcHoistDesc
  else if e.timed ∧ (e.dlRound ≠ 0 ∨ s.rnd.comNs ≤ e.dlPhase + 200 * e.grace * e.pathH) then some fcHoistDesc
  else if slot.loaded && (match cmdOf s slot.tag with | some c => unfinished c | none => false) then some fcHoistDesc
  else if (entryPorts e).any (fun p => portDown s p || decide ((portOf s p).gen ≤ 1) ||
      (e.timed && decide ((portOf s p).gen = 2))) then some fcHoistPort
  else none

/-! ### Slices (R215, R219 to R221) -/

/-- Elements of a full slice (R215). -/
def sliceElems (h : Hoist) : Nat := 32768 * 2 ^ h.size

/-- Windows of a hoist (R215). -/
def windowCount (h : Hoist) : Nat := 64 / 2 ^ h.size

/-- Slices of a reduction. -/
def sliceCount (h : Hoist) (e : Entry) : Nat := (e.elems + sliceElems h - 1) / sliceElems h

/-- First element of a slice and the element after its last. -/
def sliceLo (h : Hoist) (i : Nat) : Nat := i * sliceElems h
def sliceHi (h : Hoist) (e : Entry) (i : Nat) : Nat := min ((i + 1) * sliceElems h) e.elems

/-- The path of a slice at this device: the ports that partials arrive by, the port toward the root (none at the root),
the hops H, and the ports that its result goes out by. -/
structure Path where
  expect : List Nat
  out : Option Nat
  hops : Nat
  results : List Nat
  deriving DecidableEq, Repr

/-- The ring part of a path over n participants at position i: R219 (DEDUCED, log 22). -/
def ringPath (e : Entry) (n i sl : Nat) : Path :=
  let d := sl % (2 * e.pairs)
  let c := sl / (2 * e.pairs) % n
  let up : Bool := decide (d < e.pairs)
  let k := if up then d else d - e.pairs
  let nx := e.next.getD k 0
  let pv := e.prev.getD k 0
  let h := if up then (i + 2 * n - c - 1) % n else (c + 2 * n - i - 1) % n
  let to' := if up then (i + 1) % n else (i + n - 1) % n
  let out := if up then nx else pv
  { expect := if h = 0 then [] else [if up then pv else nx]
    out := if i = c then none else some out
    hops := h
    results := if to' = c then [] else [out] }

/-- Ports of the tree children. -/
def childPorts (e : Entry) : List Nat := (List.range 12).filter (fun p => bit e.children p)

/-- The port toward the tree parent. -/
def parentPort (e : Entry) : Option Nat := if e.parent = 15 then none else some e.parent

/-- The path of slice sl, at the root of a NODE_TREE ring that of its tree stage (R219 to R221; DEDUCED, log 22). -/
def pathOf (e : Entry) (sl : Nat) : Path :=
  match e.topo with
  | 0 => ringPath e e.group e.index sl
  | 1 => { expect := childPorts e, out := parentPort e, hops := e.height, results := childPorts e }
  | _ =>
    let r := ringPath e e.ringN (e.index % e.ringN) sl
    match r.out with
    | some _ => r
    | none => { expect := childPorts e, out := parentPort e, hops := e.ringN - 1 + e.height
                results := childPorts e ++ r.results }

/-- The ring stage of a slice whose ring roots here under NODE_TREE; its sum then runs through the tree (R221). -/
def nodeStage (e : Entry) (sl : Nat) : Option Path :=
  if 2 ≤ e.topo then
    let r := ringPath e e.ringN (e.index % e.ringN) sl
    if r.out.isNone then some r else none
  else none

/-! ### Local contributions (R213, R223, R224) -/

/-- Segment covers row group r, 256 elements from 256 r. -/
def segCovers (g : Segment) (r : Nat) : Bool := decide (g.elem ≤ 256 * r ∧ 256 * r < g.elem + 256 * g.rows.length)

/-- The row groups of a slice. -/
def sliceRows (h : Hoist) (e : Entry) (i : Nat) : List Nat :=
  (List.range ((sliceHi h e i - sliceLo h i + 255) / 256)).map (· + sliceLo h i / 256)

/-- Every element of the slice has received LOCAL contributions (R213). -/
def ownComplete (h : Hoist) (x : HSlot) (i : Nat) : Bool :=
  (sliceRows h x.entry i).all (fun r => decide (x.entry.locals ≤ (x.segs.filter (fun g => segCovers g r)).length))

/-- The order of addition: logical stope, array, issue order (R213). -/
def segBefore (a b : Segment) : Bool :=
  decide (a.st < b.st) || (decide (a.st = b.st) && (decide (a.arr < b.arr) || (decide (a.arr = b.arr) && decide (a.seq ≤ b.seq))))

def insertSeg (g : Segment) : List Segment → List Segment
  | [] => [g]
  | f :: fs => if segBefore f g then f :: insertSeg g fs else g :: f :: fs

/-- Pointwise FP32 sums, nearest even (R213, R225). -/
def addAll (a b : List Word32) : List Word32 := List.zipWith add32 a b

/-- The local sum of row group r (R213). -/
def rowSum (segs : List Segment) (r : Nat) : List Word32 :=
  let rows := (segs.filter (fun g => segCovers g r)).map (fun g =>
    let v := (g.rows.getD (r - g.elem / 256) 0).toNat
    (List.range 256).map (fun j => BitVec.ofNat 32 (elem 32 v j)))
  match rows with
  | [] => []
  | x :: xs => xs.foldl addAll x

/-- The own local sum of a slice. -/
def ownSum (h : Hoist) (x : HSlot) (i : Nat) : List Word32 :=
  ((sliceRows h x.entry i).flatMap (rowSum x.segs)).take (sliceHi h x.entry i - sliceLo h i)

/-- The slices that a segment's rows belong to. -/
def segSlices (h : Hoist) (g : Segment) : List Nat :=
  let a := g.elem / sliceElems h
  (List.range ((g.elem + 256 * g.rows.length - 1) / sliceElems h + 1 - a)).map (· + a)

/-- The slices for which a slot holds local rows. -/
def openSlices (h : Hoist) (x : HSlot) : List Nat :=
  ((x.segs.flatMap (segSlices h)).eraseDups).filter (fun i =>
    !(tget x.slices {} i).forwarded && (!x.late || ownComplete h x i))

/-- Windows in use: local sums and partials of slices not yet forwarded, early slices, slices kept for sending (R215, R216,
R218; DEDUCED, log 22). -/
def windowsUsed (h : Hoist) : Nat :=
  h.slots.foldl (fun n e =>
    n + (openSlices h e.2).length + e.2.slices.foldl (fun m k => m + if k.2.forwarded then 0 else k.2.partials.length) 0) 0 +
  h.early.length + h.waiting.length + h.unacked.length

def windowsFree (h : Hoist) : Nat := windowCount h - windowsUsed h

/-! ### Time (R222, R223) -/

/-- Device cycle of the deadline D of a slot, and of a cutoff C after `hops` hops. -/
def deadlineTime (s : State) (x : HSlot) : Nat := phaseTime s x.entry.dlPhase
def cutoffTime (s : State) (x : HSlot) (hops : Nat) : Nat := deadlineTime s x + 100 * x.entry.grace * hops

/-- D has been reached; never without TIMED (R228). -/
def pastD (s : State) (x : HSlot) : Bool :=
  x.entry.timed && (x.late || decide (x.round < s.rnd.round) || (decide (x.round = s.rnd.round) && decide (deadlineTime s x ≤ s.now)))

/-- A cutoff after `hops` hops had been reached at device cycle t of round r (R222, R223). -/
def lateAt (s : State) (x : HSlot) (hops r t : Nat) : Bool :=
  x.entry.timed && (decide (x.round < r) || (decide (x.round = r) && decide (cutoffTime s x hops ≤ t)))

/-- C(x) has been reached for a slice. -/
def pastC (s : State) (x : HSlot) (i : Nat) : Bool :=
  (x.entry.timed && (tget x.slices {} i).cut) || lateAt s x (pathOf x.entry i).hops s.rnd.round s.now

/-- The cutoff of a ring stage has been reached (R221, R222). -/
def pastNode (s : State) (x : HSlot) (i : Nat) (r : Path) : Bool :=
  (x.entry.timed && (tget x.slices {} i).nodeCut) || lateAt s x r.hops s.rnd.round s.now

/-! ### Stall counters (R231, R341) -/

/-- The hoist holds a slice whose own contribution is complete and whose expected partials have not all arrived. -/
def waitsPartials (h : Hoist) : Bool :=
  h.slots.any (fun e => e.2.loaded && (openSlices h e.2).any (fun i =>
    let here := fun (p : Nat) => (tget e.2.slices {} i).partials.any (fun q => decide (q.port = p))
    ownComplete h e.2 i && !((pathOf e.2.entry i).expect.all here &&
      (match nodeStage e.2.entry i with | some r => r.expect.all here | none => true))))

/-- Windows that a segment's rows need beside those already in use (R213, R215; DEDUCED, log 22). -/
def windowsNeeded (h : Hoist) (g : Segment) : Nat :=
  ((segSlices h g).filter (fun i => !(openSlices h (slotOf h g.slot)).contains i)).length

/-- A local row to take, or a slice to send, finds no free window or no credit. -/
def waitsWindow (s : State) (n : Nat) : Bool :=
  let h := hoistOf s n
  !h.waiting.isEmpty ||
  s.stopes.any (fun e => e.2.segments.any (fun g => decide (g.home = n) && decide (windowsFree h < windowsNeeded h g)))

/-- A stall counter's count up to now, and since when its cause holds (DEDUCED, log 48). -/
def countStall (now count : Nat) (since : Option Nat) (on : Bool) : Nat × Option Nat :=
  (match since with | some t => count + (now - t) | none => count, if on then some now else none)

/-- The stall counters of a hoist are brought up to now; they stand still without the monitor (R342; DESIGN CHOICE, log 39;
DEDUCED, log 48). -/
def recountStalls (s : State) (n : Nat) : State :=
  let on := !monitorOff s n
  let d := waitsPartials (hoistOf s n)
  let w := waitsWindow s n
  modHoist s n (fun h =>
    let a := countStall s.now h.stallDeadline h.deadlineAt (on && d)
    let b := countStall s.now h.stallWindow h.windowAt (on && w)
    { h with stallDeadline := a.1, deadlineAt := a.2, stallWindow := b.1, windowAt := b.2 })

/-! ### Credits (R216) -/

/-- A port over which slices pass, now or after it has retrained (R236, R239). -/
def slicePort (s : State) (p : Nat) : Bool := takesType (portOf s p) 0x10

/-- The port to which the next credit goes: of those that carry slices the one with the fewest granted, the lowest of equals; none while
the device has no identifier (R244; DESIGN CHOICE, log 22). -/
def creditPort (s : State) (h : Hoist) : Option Nat :=
  ((List.range 12).filter (fun p => slicePort s p && decide (s.fabId ≠ 0xFFF))).foldl (fun best p =>
    match best with
    | none => some p
    | some q => if tget h.granted 0 p < tget h.granted 0 q then some p else some q) none

/-- Hoist control messages go out by a port: it carries them and the device has an identifier (R216, R236, R244). -/
def ctlPort (s : State) (p : Nat) : Bool := takesType (portOf s p) 0x11 && decide (s.fabId ≠ 0xFFF)

/-- A hoist control message leaves by a port (R216, R242, R243). -/
def hoistCtl (s : State) (p : Nat) (o : Out) : State :=
  if ctlPort s p then queueItem s p { vc := 2, out := o, flits := flitsOf 0 } else s

/-- k free windows are granted to senders (R216). -/
def grantCredits : Nat → State → Nat → State
  | 0, s, _ => s
  | k + 1, s, n =>
    match creditPort s (hoistOf s n) with
    | none => s
    | some p => grantCredits k (hoistCtl (modHoist s n (fun h => { h with granted := tset h.granted 0 p (tget h.granted 0 p + 1) })) p (.sliceCredit p n)) n

/-- What a hoist holds with ports that carry no slices is lost: credits on either side, copies of slices sent, slices that wait (R239;
DEDUCED, log 22). -/
def losePorts (s : State) (n : Nat) : State :=
  let on := fun (p : Nat) => slicePort s p
  modHoist s n (fun h => { h with
    credits := h.credits.filter (fun e => on e.1), granted := h.granted.filter (fun e => on e.1)
    waiting := h.waiting.filter (fun w => on w.1), unacked := h.unacked.filter (fun w => on w.1) })

/-- A hoist after a change: stall counters, lost ports, a credit for each free window that has none (R216, R231; DESIGN CHOICE,
log 22). -/
def recountHoist (s : State) (n : Nat) : State :=
  let s := losePorts (recountStalls s n) n
  let h := hoistOf s n
  grantCredits (windowsFree h - h.granted.foldl (fun k e => k + e.2) 0) s n

/-- A port has changed: every hoist looks at its credits. -/
def recountPorts (s : State) : State := (List.range 8).foldl (fun s n => if (levelOf s n).up then recountHoist s n else s) s

/-! ### Sending (R216, R217) -/

/-- Payload bytes of a slice. -/
def payloadLen (m : SliceMsg) : Nat := 4 * m.data.length

/-- CRC-32C of a slice's payload (R216, R217). -/
def sliceCrc (m : SliceMsg) : Word32 := crc32c (m.data.flatMap (fun w => toBytes 4 w.toNat))

/-- The 64-byte header of a slice (R217). -/
def sliceHeader (m : SliceMsg) : List Byte :=
  toBytes 1 m.kind ++ toBytes 1 m.home ++ toBytes 1 m.slot ++ toBytes 1 m.hops ++ toBytes 4 m.id ++ toBytes 4 m.idx ++
  toBytes 4 m.count ++ toBytes 4 m.len ++ toBytes 2 m.rlen ++ [0, 0] ++ toBytes 6 m.round ++ [0, 0] ++
  toBytes 5 m.deadline ++ [0, 0, 0] ++ toBytes 4 m.crc.toNat ++ List.replicate 20 (0 : Byte)

/-- Roster bytes for N participants (R217). -/
def rosterLen (group : Nat) : Nat := 64 * ((group + 511) / 512)

/-- A slice leaves by a port against a credit, for the neighbour that CAPS named, and is kept until its acknowledgement (R216, R217,
R244). -/
def launchSlice (s : State) (n port : Nat) (m : SliceMsg) : State :=
  let g := (portOf s port).gen
  let m := { m with deadline := if g = 3 then m.deadline else 0, dst := (portOf s port).partner, src := s.fabId, ttl := Config.hopTtl.toNat, len := payloadLen m, crc := sliceCrc m }
  let k := b2n (!monitorOff s n)
  let s := modHoist s n (fun h => { h with
    credits := tset h.credits 0 port (tget h.credits 0 port - 1), unacked := h.unacked ++ [(port, m)]
    tx := h.tx + k * payloadLen m, sent := h.sent + k })
  queueItem s port { vc := 2, out := .slice port m, flits := flitsOf (64 + m.rlen + m.len), due := if m.deadline = 0 then none else some (m.round, m.deadline) }

/-- A slice may leave by a port: a credit is held, the port carries slices, the device has an identifier (R216, R236, R244). -/
def maySend (s : State) (n port : Nat) : Bool :=
  decide (0 < tget (hoistOf s n).credits 0 port) && carriesType (portOf s port) 0x10 && decide (s.fabId ≠ 0xFFF)

/-- A slice is sent, or waits for a credit or for its port (DEDUCED, log 22). -/
def sendSlice (s : State) (n port : Nat) (m : SliceMsg) : State :=
  if maySend s n port ∧ (hoistOf s n).waiting.all (fun w => decide (w.1 ≠ port)) then launchSlice s n port m
  else modHoist s n (fun h => { h with waiting := h.waiting ++ [(port, m)] })

/-- The oldest slices that wait for a port leave, at most k. -/
def launchWaiting : Nat → State → Nat → Nat → State
  | 0, s, _, _ => s
  | k + 1, s, n, port =>
    match (hoistOf s n).waiting.find? (fun w => decide (w.1 = port)) with
    | none => s
    | some w =>
      if maySend s n port then launchWaiting k (launchSlice (modHoist s n (fun h => { h with waiting := h.waiting.erase w })) n port w.2) n port
      else s

/-! ### Results (R226, R227) -/

/-- The bytes of a slice's result reach DST as stored FP32 tiles, with their entries; one that meets a gob or a hole is not written and
ends its command with ADDR_HOLE (R95, R226, R279, R428; DESIGN CHOICE, log 13). -/
def writeResult (s : State) (x : HSlot) (lo : Nat) (data : List Word32) : State :=
  let e := x.entry
  let shape := 0x00011040
  let bytes := data.flatMap (fun w => toBytes 4 w.toNat)
  let tiles := (bytes.length + 16383) / 16384
  let bytes := bytes ++ List.replicate (tiles * 16384 - bytes.length) (0 : Byte)
  let pa := e.dst + 4 * lo
  (List.range tiles).foldl (fun s t =>
    let a := pa + 16384 * t
    let bs := (bytes.drop (16384 * t)).take 16384
    if refusedWrite s .hoist a 16384 then failCommand s x.tag fcAddrHole
    else
    let r := physAbsent s .hoist x.round a
    let w := physWrite r.1 .hoist x.round a bs
    let z := physEntry w.1 .hoist x.round a (entryWord a shape (crcRun (shapeCrc shape) bs ^^^ 0xFFFFFFFF))
    reportGob z.1 x.tag ((r.2 ++ w.2 ++ z.2).eraseDups)) s

/-- The result record (R227; DEDUCED, log 22). -/
def resultRecord (s : State) (h : Hoist) (x : HSlot) : List Byte :=
  let e := x.entry
  let n := sliceCount h e
  let sl := (List.range n).map (fun i => tget x.slices {} i)
  let counts := sl.map (·.count)
  let all := sl.foldl (fun r k => r &&& k.roster) (ones 4096)
  let selfAll := sl.all (fun k => bit k.roster e.index)
  let selfAny := sl.any (fun k => bit k.roster e.index)
  let uneven := sl.any (fun k => decide (k.roster ≠ (sl.headD {}).roster))
  toBytes 4 e.id ++ [0] ++ toBytes 1 (b2n selfAll + 2 * b2n selfAny + 4 * b2n uneven) ++ [0, 0] ++
  toBytes 4 (counts.foldl min (counts.headD 0)) ++ toBytes 4 (counts.foldl max 0) ++ toBytes 6 x.round ++ [0, 0] ++
  toBytes 4 n ++ toBytes 4 0 ++ toBytes 8 s.now ++ List.replicate 24 (0 : Byte) ++ toBytes (rosterLen e.group) all

/-- The command of a tag has one reduction less to wait for, also when a fault has ended it (R282). -/
def dropReduction (s : State) (tag n k : Nat) : State :=
  { s with cmds := s.cmds.map (fun c =>
      if c.tag = tag then { c with reductions := c.reductions.filter (fun r => decide (r ≠ (n, k))) } else c) }

/-- When every slice's result phase has reached the device, the record is written, DONE is signalled and the slot is free; a record
that is refused, or that a full gob keeps out, leaves the slot loaded until its round's mark (R207, R227, R279, R281; DESIGN CHOICE,
log 13). -/
def closeReduction (s : State) (n k : Nat) : State :=
  let h := hoistOf s n
  let x := slotOf h k
  let e := x.entry
  if x.loaded ∧ (List.range (sliceCount h e)).all (fun i => (tget x.slices {} i).finished) then
    let bs := resultRecord s h x
    if refusedWrite s .hoist e.recPa bs.length then failCommand s x.tag fcAddrHole
    else
    let r := physWrite s .hoist x.round e.recPa bs
    if r.2 ≠ [] then reportGob r.1 x.tag r.2
    else
    let s := r.1
    let s := modHoist s n (fun h => putSlot h k {})
    let epoch := match cmdOf s x.tag with | some c => c.epoch | none => 0
    signalOne (dropReduction s x.tag n k) .device 0 e.done 1 false { source := 6, unit := n, tag := x.tag, epoch := epoch }
  else s

/-- The result phase of a slice reaches this device: data is written, the slice goes on, the record follows (R226, R227). -/
def takeResult (s : State) (n k : Nat) (m : SliceMsg) : State :=
  let h := hoistOf s n
  let x := slotOf h k
  let e := x.entry
  let s := if m.kind = 1 ∧ m.data ≠ [] then writeResult s x (sliceLo h m.idx) m.data else s
  let s := (pathOf e m.idx).results.foldl (fun s p => sendSlice s n p { m with hops := m.hops + 1 }) s
  let s := modHoist s n (fun h => putSlot h k { x with
    slices := tset x.slices {} m.idx { tget x.slices {} m.idx with forwarded := true, finished := true, count := m.count, roster := m.roster } })
  closeReduction s n k

/-! ### The reduce phase (R225, R226) -/

/-- Partials by ascending port number. -/
def insertPartial (p : Partial) : List Partial → List Partial
  | [] => [p]
  | q :: qs => if p.port < q.port then p :: q :: qs else q :: insertPartial p qs

/-- The sum of a slice (R225): own first, then the partials that bring data. -/
def sliceSum (own : Option (List Word32)) (ps : List Partial) : List Word32 :=
  (ps.foldl (fun (sum : Option (List Word32)) p =>
    if p.data = [] then sum
    else match sum with
      | none => some p.data
      | some v => some (addAll v p.data)) own).getD []

/-- A contribution joined with the partials that arrived: sum, count, roster, the hops travelled (R217, R225). -/
def joinPartials (own : Option Partial) (ps : List Partial) : Partial :=
  let o : Partial := own.getD { port := 12, count := 0, roster := 0, data := [], hops := 0 }
  let ps := ps.foldr insertPartial []
  { port := 12
    count := ps.foldl (fun c p => c + p.count) o.count
    roster := ps.foldl (fun r p => r ||| p.roster) o.roster
    data := sliceSum (if o.data = [] then none else some o.data) ps
    hops := ps.foldl (fun h p => max h p.hops) o.hops }

/-- The device's own contribution to a slice, when it is complete (R213, R225). -/
def ownPart (h : Hoist) (x : HSlot) (i : Nat) : Option Partial :=
  if ownComplete h x i then some { port := 12, count := x.entry.contrib, roster := 2 ^ x.entry.index, data := ownSum h x i, hops := 0 }
  else none

/-- The partials of a slice that came by the ports of a path's stage. -/
def partialsOf (v : SliceSt) (r : Path) : List Partial := v.partials.filter (fun p => r.expect.contains p.port)

/-- The mean (R226): the sum divided by COUNT, rounded to nearest even. -/
def meanOf (count : Nat) (v : List Word32) : List Word32 := v.map (fun x => to32 (fpDiv (of32 x) (.fin false count 0)))

/-- The slice that the hoist forms; in the tree stage of NODE_TREE the ring's sum stands for the own contribution (R221, R225). -/
def formSlice (s : State) (n k i : Nat) : SliceMsg :=
  let h := hoistOf s n
  let x := slotOf h k
  let e := x.entry
  let v := tget x.slices {} i
  let p := match nodeStage e i with
    | none => joinPartials (ownPart h x i) v.partials
    | some _ => joinPartials v.node (partialsOf v (pathOf e i))
  { kind := 0, home := e.home, slot := e.slot, hops := p.hops + 1, id := e.id, idx := i, count := p.count, roster := p.roster
    round := x.round, deadline := if e.timed then e.dlPhase else 0, data := p.data, rlen := rosterLen e.group }

/-- The slice is forwarded toward its root, or fixed at the root (R225, R226). -/
def forwardSlice (s : State) (n k i : Nat) : State :=
  let h := hoistOf s n
  let x := slotOf h k
  let e := x.entry
  let m := formSlice s n k i
  match (pathOf e i).out with
  | some p =>
    sendSlice (modHoist s n (fun h => putSlot h k { x with slices := tset x.slices {} i { tget x.slices {} i with forwarded := true } })) n p m
  | none =>
    let data := if m.count = 0 then [] else if e.mean then meanOf m.count m.data else m.data
    if m.count = 0 then takeResult s n k { m with kind := 2, hops := 0, data := [] }
    else if e.toRoot then
      takeResult (writeResult s x (sliceLo h i) data) n k { m with kind := 2, hops := 0, data := [] }
    else takeResult s n k { m with kind := 1, hops := 0, data := data }

/-- Every partial that a stage expects has arrived. -/
def allHere (v : SliceSt) (r : Path) : Bool := r.expect.all (fun p => v.partials.any (fun q => decide (q.port = p)))

/-- Slice i of slot k is loaded and not yet forwarded. -/
def isOpen (s : State) (n k i : Nat) : Bool :=
  let h := hoistOf s n
  let x := slotOf h k
  x.loaded && !(tget x.slices {} i).forwarded && decide (i < sliceCount h x.entry)

/-- The own contribution is complete, or D has been reached (R225). -/
def ownDone (s : State) (n k i : Nat) : Bool :=
  let h := hoistOf s n
  ownComplete h (slotOf h k) i || pastD s (slotOf h k)

/-- The ring of a NODE_TREE ends here and both conditions of R225 hold for it (R221). -/
def mayEndRing (s : State) (n k i : Nat) : Bool :=
  let x := slotOf (hoistOf s n) k
  let v := tget x.slices {} i
  match nodeStage x.entry i with
  | some r => isOpen s n k i && v.node.isNone && ownDone s n k i && (allHere v r || pastNode s x i r)
  | none => false

/-- The ring stage ends: its sum is fixed for the tree (R221). -/
def endRing (s : State) (n k i : Nat) : State :=
  let h := hoistOf s n
  let x := slotOf h k
  let v := tget x.slices {} i
  match nodeStage x.entry i with
  | some r => modHoist s n (fun h => putSlot h k { x with
      slices := tset x.slices {} i { v with node := some (joinPartials (ownPart h x i) (partialsOf v r)) } })
  | none => s

/-- Both conditions of R225, in NODE_TREE at a ring's root those of the tree stage (R221; DESIGN CHOICE, log 1). -/
def mayForward (s : State) (n k i : Nat) : Bool :=
  let x := slotOf (hoistOf s n) k
  let v := tget x.slices {} i
  isOpen s n k i && (allHere v (pathOf x.entry i) || pastC s x i) &&
  (if (nodeStage x.entry i).isSome then v.node.isSome else ownDone s n k i)

/-- SLICE_FORWARD: the stages of the slice whose conditions hold end (R221, R225). -/
def execSliceForward (n slot idx : Nat) (s : State) : Answer :=
  if tramsOff s then .next s
  else
    let s := if mayEndRing s n slot idx then endRing s n slot idx else s
    if mayForward s n slot idx then .next (recountHoist (forwardSlice s n slot idx) n) else .next s

/-- SLICE_CUTOFF: C(x) of a TIMED slice is reached; at the root of a NODE_TREE ring that of the ring stage comes first (R221, R222).
-/
def execSliceCutoff (n slot idx : Nat) (s : State) : Answer :=
  let h := hoistOf s n
  let x := slotOf h slot
  let v := tget x.slices {} idx
  if x.loaded ∧ x.entry.timed ∧ x.round = s.rnd.round ∧ idx < sliceCount h x.entry then
    let ring := if v.nodeCut then none else nodeStage x.entry idx
    let s := advance s (cutoffTime s x (ring.getD (pathOf x.entry idx)).hops)
    let v := if ring.isSome then { v with nodeCut := true } else { v with cut := true }
    .next (recountHoist (modHoist s n (fun h => putSlot h slot { x with slices := tset x.slices {} idx v })) n)
  else .next s

/-! ### Receiving (R216, R218, R224) -/

/-- A partial that came by a port in cycle t of round r is late: its stage has ended, or its cutoff had been reached (R223, R224). -/
def partialLate (s : State) (x : HSlot) (port i r t : Nat) : Bool :=
  let v := tget x.slices {} i
  match nodeStage x.entry i with
  | some g =>
    if g.expect.contains port then v.forwarded || v.node.isSome || (x.entry.timed && v.nodeCut) || lateAt s x g.hops r t
    else v.forwarded || (x.entry.timed && v.cut) || lateAt s x (pathOf x.entry i).hops r t
  | none => v.forwarded || (x.entry.timed && v.cut) || lateAt s x (pathOf x.entry i).hops r t

/-- A slice of the loaded reduction that came in cycle t of round r is used (R218 case 2, R223 to R227). -/
def useSlice (s : State) (n port : Nat) (m : SliceMsg) (r t : Nat) : State :=
  let h := hoistOf s n
  let x := slotOf h m.slot
  let v := tget x.slices {} m.idx
  if sliceCount h x.entry ≤ m.idx then s
  else if m.kind = 0 then
    if partialLate s x port m.idx r t then modHoist s n (fun h => { h with latePartial := satAdd 16 h.latePartial 1 })
    else
      modHoist s n (fun h => putSlot h m.slot { x with slices := tset x.slices {} m.idx { v with
        partials := v.partials ++ [{ port := port, count := m.count, roster := m.roster, data := m.data, hops := m.hops }] } })
  else if v.finished then s
  else takeResult s n m.slot m

/-- The marks by which a slice is known as a duplicate (R218). -/
def sliceKey (port : Nat) (m : SliceMsg) : Nat × Nat × Nat × Nat × Nat := (port, m.kind, m.id, m.idx, m.round)

/-- Round a precedes round b in serial-number order over 48 bits, half the range counting as preceding (R218, R270; DEDUCED, log 22). -/
def precedesRound (a b : Nat) : Bool := let d := (b + 2 ^ 48 - a % 2 ^ 48) % 2 ^ 48; decide (d ≠ 0 ∧ d ≤ 2 ^ 47)

/-- A slice that arrived whole is handled by the first case that fits it (R218; DEDUCED, log 22). -/
def takeSlice (s : State) (n port : Nat) (m : SliceMsg) : State :=
  let h := hoistOf s n
  let x := slotOf h m.slot
  if h.seen.contains (sliceKey port m) then modHoist s n (fun h => { h with dup := satAdd 16 h.dup 1 })
  else
    let s := modHoist s n (fun h => { h with seen := h.seen ++ [sliceKey port m] })
    if x.loaded ∧ x.entry.id = m.id ∧ x.round = m.round then useSlice s n port m s.rnd.round s.now
    else if precedesRound m.round s.rnd.round = false ∧ ¬ (x.loaded ∧ x.entry.id = m.id ∧ precedesRound m.round x.round) then
      modHoist s n (fun h => { h with early := h.early ++ [(port, m, s.rnd.round, s.now)] })
    else modHoist s n (fun h => { h with latePartial := satAdd 16 h.latePartial 1 })

/-- The payload of a slice matches its CRC and its LEN (R216, R217). -/
def sliceSound (m : SliceMsg) : Bool := decide (m.len = payloadLen m ∧ m.crc = sliceCrc m)

/-- A slice or hoist control message that a port does not take: a Vigil lane and a device it is not meant for discard and count it
(R244, R249). -/
def turnedAway (s : State) (port : Nat) (mine : Bool) : Bool := decide ((portOf s port).state = .vigil) || decide (s.fabId = 0xFFF) || !mine

/-- A copy of a slice has come, the others before it failed `fails` times: it counts as never arrived after a second failure or when
it is longer than a window, it is asked for again after a first, or it is acknowledged and taken (R216, R218). -/
def receiveSlice (s : State) (n port : Nat) (m : SliceMsg) (fails : Nat) : State :=
  let h := hoistOf s n
  let key := sliceKey port m
  let bad := fails + b2n (h.asked.contains key) + b2n (!sliceSound m)
  let s := modHoist s n (fun h => { h with
    rx := h.rx + b2n (!monitorOff s n) * payloadLen m, granted := tset h.granted 0 port (tget h.granted 0 port - 1), asked := h.asked.erase key })
  let s := if 0 < bad ∧ h.asked.contains key = false then hoistCtl s port (.sliceAgain port m.id m.idx) else s
  if 2 ≤ bad ∨ 4 * sliceElems h < m.len then
    let s := modHoist s n (fun h => { h with chkFailed := satAdd 8 h.chkFailed 1 })
    logOpen s { code := fcHoistCheck, source := 6, unit := n, action := 1 }
  else if sliceSound m = false then modHoist s n (fun h => { h with asked := key :: h.asked, granted := tset h.granted 0 port (tget h.granted 0 port + 1) })
  else
    let s := if bad = 1 then modHoist s n (fun h => { h with chkTransient := satAdd 16 h.chkTransient 1 }) else s
    takeSlice (hoistCtl s port (.sliceAck port m.id m.idx)) n port m

/-- SLICE: arrival of a slice of which `fails` copies failed their CRC before; with no free window it stays on the link (R216, R218,
R244, R249; DESIGN CHOICE, log 22). -/
def execSlice (n port : Nat) (sl : SliceMsg) (fails : Nat) (s : State) : Answer :=
  if sl.home ≠ n ∨ 3 ≤ sl.kind ∨ carries (portOf s port) = false then .next s
  else if turnedAway s port (decide (sl.dst = s.fabId)) then .next (discardMsg s port)
  else if windowsFree (hoistOf s n) = 0 then .next s
  else .next (recountHoist (receiveSlice s n port sl fails) n)

/-- SLICE_CREDIT: a credit arrives and the oldest slice that waits for the port goes out (R216, R249). -/
def execSliceCredit (n port : Nat) (s : State) : Answer :=
  if carries (portOf s port) = false then .next s
  else if turnedAway s port true then .next (discardMsg s port)
  else
    let s := modHoist s n (fun h => { h with credits := tset h.credits 0 port (tget h.credits 0 port + 1) })
    if tramsOff s then .next s else .next (recountHoist (launchWaiting (hoistOf s n).waiting.length s n port) n)

/-- SLICE_ACK: the sender releases its copy (R216, R249). -/
def execSliceAck (n port id idx : Nat) (s : State) : Answer :=
  if carries (portOf s port) = false then .next s
  else if turnedAway s port true then .next (discardMsg s port)
  else
    match (hoistOf s n).unacked.find? (fun w => decide (w.1 = port ∧ w.2.id = id ∧ w.2.idx = idx)) with
    | none => .next s
    | some w => .next (recountHoist (modHoist s n (fun h => { h with unacked := h.unacked.erase w })) n)

/-! ### Segments (R211 to R213) -/

/-- The home level of the reduction in slot k of the issuing level, when it is loaded for the command (R212, R213; DEDUCED, log
21). -/
def homeOf (s : State) (own k tag : Nat) : Option Nat :=
  let x := slotOf (hoistOf s own) k
  if x.loaded ∧ x.tag = tag then some x.entry.home else none

/-- The segments of a HOIST for the reduction in slot x: array 0's rows first, as they stood before any write of the same counted cycle (R65,
R210). -/
def segmentsOf (s : State) (st : Nat) (x : HSlot) (o : HoistOp) : List Segment :=
  (List.range o.arrays.length).zip o.arrays |>.map (fun a =>
    { st := st, arr := a.2, seq := o.seq, home := x.entry.home, slot := o.slot, tag := o.tag, id := x.entry.id, round := x.round, elem := 256 * (o.offset + a.1 * o.rows)
      rows := (List.range o.rows).map (fun i => accBefore (arrOf (stopeOf s st) a.2) (o.row + i) (agentCycle (stopeOf s st) 0 s.now)) })

/-- HOIST_SEGMENT_READ: after the release point of the oldest HOIST of a stope its rows are read once and Q is signalled; or
it faults (R211, R212, R347; DEDUCED, log 21; DEDUCED, log 22). -/
def execHoistSegmentRead (st : Nat) (ecc : Ecc) (s : State) : Answer :=
  match (stopeOf s st).hoists with
  | [] => .next s
  | o :: rest =>
    let k := (stopeOf s st).clk
    if tramsOff s ∨ (k.stopped ∧ k.base < o.rel) then .next s
    else
      let s := reachCycle s st o.rel
      let s := modStope s st (fun x => { x with hoists := rest })
      let epoch := (crewOf s st o.crew).epoch
      let fault := fun (s : State) (code : Nat) => faultEvent (useFree s 1) st o.crew code (freeAt s 0) 0 o.tag epoch
      match homeOf s (stopeLevel st) o.slot o.tag with
      | none => .next (fault s fcHoistSlot)
      | some _ =>
        let y := slotOf (hoistOf s (stopeLevel st)) o.slot
        if y.entry.elems ≤ 256 * (o.offset + o.rows * o.arrays.length) - 1 then .next (fault s fcHoistRange)
        else
          let s := storeRead s ecc
          let s := if ecc = .bad then fault s fcStoreUncorr
            else modStope s st (fun x => { x with segments := x.segments ++ segmentsOf s st y o })
          .next (signalOne s .stope st o.q 1 false { source := 6, unit := stopeLevel st, crew := o.crew, tag := o.tag, epoch := epoch })

/-- LOCAL_CONTRIBUTION: the oldest segment of a stope for home level n arrives; late rows are taken without being added
(R213, R223, R224). It waits while no window is free. -/
def execLocalContribution (n st : Nat) (s : State) : Answer :=
  match (stopeOf s st).segments.find? (fun g => decide (g.home = n)) with
  | none => .next s
  | some g =>
    let h := hoistOf s n
    let x := slotOf h g.slot
    let take := fun (s : State) => modStope s st (fun y => { y with segments := y.segments.erase g })
    if x.loaded = false ∨ x.tag ≠ g.tag ∨ x.entry.id ≠ g.id ∨ x.round ≠ g.round then .next (recountHoist (take s) n)
    else if pastD s x then
      .next (recountHoist (modHoist (take s) n (fun h => { h with lateLocal := satAdd 16 h.lateLocal g.rows.length })) n)
    else if windowsFree h < windowsNeeded h g then .next (recountHoist s n)
    else .next (recountHoist (modHoist (take s) n (fun h => putSlot h g.slot { x with segs := insertSeg g x.segs })) n)

/-! ### Loading, deadlines and the end of a round (R207, R224, R229) -/

/-- A slot is loaded with an entry; the early slices it waited for are used, each judged by when it came (R207, R218, R223). -/
def loadSlot (s : State) (e : Entry) (tag round : Nat) : State :=
  let n := e.home
  let mine := fun (w : Nat × SliceMsg × Nat × Nat) => decide (w.2.1.slot = e.slot ∧ w.2.1.id = e.id ∧ w.2.1.round = round)
  let early := (hoistOf s n).early
  let s := modHoist s n (fun h => { putSlot h e.slot { loaded := true, entry := e, tag := tag, round := round } with
    early := early.filter (fun w => !mine w) })
  recountHoist ((early.filter mine).foldl (fun s w => useSlice s n w.1 w.2.1 w.2.2.1 w.2.2.2) s) n

/-- Local rows held for slices that are not complete at D (R224). -/
def lateRows (h : Hoist) (x : HSlot) : Nat :=
  x.segs.foldl (fun n g => n + ((List.range g.rows.length).filter (fun i =>
    !ownComplete h x (((g.elem + 256 * i) / sliceElems h)))).length) 0

/-- A deadline D is reached on level n: the incomplete local contributions of its reductions are discarded (R224). -/
def deadlineMark (s : State) (n round phase : Nat) : State :=
  modHoist s n (fun h =>
    h.slots.foldl (fun h e =>
      let x := e.2
      if x.loaded ∧ x.entry.timed ∧ x.late = false ∧ x.round + x.entry.dlRound = round ∧ x.entry.dlPhase = phase then
        putSlot { h with lateLocal := satAdd 16 h.lateLocal (lateRows h x) } e.1 { x with late := true }
      else h) h)

/-- The reduction in slot k ends unfinished: its slot, its windows, its segments on the way and the HOISTs still to be read go, no
Q and no DONE is signalled (R213, R229). -/
def endReduction (s : State) (n k : Nat) : State :=
  let x := slotOf (hoistOf s n) k
  let mine := fun (m : SliceMsg) => decide (m.slot = k ∧ m.id = x.entry.id ∧ m.round = x.round)
  let s := modHoist s n (fun h => { putSlot h k {} with
    waiting := h.waiting.filter (fun w => !mine w.2), unacked := h.unacked.filter (fun w => !mine w.2) })
  (List.range 160).foldl (fun s st =>
    let y := stopeOf s st
    if y.segments = [] ∧ y.hoists = [] then s
    else modStope s st (fun y => { y with
      segments := y.segments.filter (fun g => !decide (g.home = n ∧ g.slot = k ∧ g.tag = x.tag))
      hoists := y.hoists.filter (fun o => !decide (stopeLevel st = n ∧ o.slot = k ∧ o.tag = x.tag)) })) s

/-- Round r's commit or drop mark reaches the hoist of level n: its loaded reductions end, and every early slice is an orphan. The
headframe's notice reports HOIST_ENDED (R218, R229). -/
def endReductions (s : State) (n r : Nat) : State :=
  let mine := ((hoistOf s n).slots.filter (fun e => e.2.loaded && decide (e.2.round ≤ r)))
  let s := mine.foldl (fun s e => endReduction s n e.1) s
  recountHoist (modHoist s n (fun h => { h with orphan := satAdd 16 h.orphan h.early.length, early := [] })) n

/-! ### The window size (R231) -/

/-- A write of the window size; while a slot is loaded or a window in use it has no effect and sets CFG_IGN (R215, R231). -/
def writeWinCfg (s : State) (n v : Nat) : State :=
  let h := hoistOf s n
  let code := bits v 0 3
  if slotsLoaded h ≠ 0 ∨ windowsUsed h ≠ 0 then modHoist s n (fun h => { h with cfgIgn := true })
  else if 5 ≤ code then s
  else recountHoist (modHoist s n (fun h => { h with size := code })) n

/-- HST_WIN_CFG_WRITE: the foreman's write of the window size (R215, R231). -/
def execHstWinCfgWrite (n : Nat) (v : Word32) (s : State) : Answer := if n < 8 ∧ levelHeld s n = false then .next (writeWinCfg s n v.toNat) else .next s

end Sys2Proof.Machine
end

