-- ==== Sys2Proof/Machine/Energy.lean ====
section
/-! DEFINITION. The energy ledger: its figures (R287, R288), the governor (R290), the effective density (R291), the
tick. -/

namespace Sys2Proof.Machine

/-- W × ns in one unit of 0.1 mJ (R288). -/
def unitWns : Nat := 100000

/-- The ledger is on (R287). -/
def ledgerOn (s : State) : Bool := bit s.nrg.cfg.toNat 0 && decide (s.nrg.budget ≠ 0xFFFFFFFF)

/-- E in units and T in µs of an energy class (R299). -/
def classE (s : State) (k : Nat) : Nat := bits (tget s.nrg.classes 0 k).toNat 0 32
def classT (s : State) (k : Nat) : Nat := bits (tget s.nrg.classes 0 k).toNat 32 26

/-- Spent units of the round. -/
def spentUnits (s : State) : Rat := (s.nrg.spent : Rat) / (unitWns : Rat)

/-- Elapsed weighted time of a command in µs: w of R288. -/
def weightedUs (c : Cmd) : Rat := (c.weighted : Rat) / 8000

/-- What one admitted command reserves (R288). -/
def reservedOf (s : State) (c : Cmd) : Rat :=
  let e : Rat := classE s c.desc.eclass
  let t : Rat := classT s c.desc.eclass
  if t = 0 then e else e * max 0 (1 - weightedUs c / t)

/-- Reserved: the sum over admitted unfinished commands (R288). -/
def reservedUnits (s : State) : Rat := (s.cmds.filter isAdmitted).foldl (fun n c => n + reservedOf s c) 0

/-- Time to the commit mark in µs as the latest tick found it: tl of R288. -/
def toMark (s : State) : Rat := (s.nrg.toMark : Rat) / 1000

/-- The time to the commit mark is taken (R288). -/
def latchMark (s : State) : State := { s with nrg := { s.nrg with toMark := s.rnd.comNs - phaseNs s } }

/-- Projected units (R288). -/
def projectedUnits (s : State) : Rat := spentUnits s + reservedUnits s + (s.nrg.floor : Rat) * toMark s / 100

/-- left = budget - projected (R288). -/
def leftUnits (s : State) : Rat := (s.nrg.budget : Rat) - projectedUnits s

/-! ### Density (R290, R291) -/

/-- Every stope takes its effective density; a command keeps the lowest density applied (R291, R331; DEDUCED, log 41). -/
def applyDensity (s : State) : State :=
  let t := (List.range 160).foldl tuneStope s
  { t with cmds := t.cmds.map (fun c => if isRunning c then { c with minDensity := max c.minDensity (effDensity s c) } else c) }

/-- The largest T - w of the round's running main commands, µs: r of R290; 0 with no such command (DEDUCED, log 41). -/
def longestLeft (s : State) : Rat :=
  ((s.cmds.filter (fun c => isRunning c && !c.desc.fill && decide (c.round = s.rnd.round))).foldl
    (fun (r : Option Rat) c =>
      let t := (classT s c.desc.eclass : Rat) - weightedUs c
      some (match r with | some x => max x t | none => t)) none).getD 0

/-- The projection at density code d of R290. -/
def governed (s : State) (d : Nat) : Rat :=
  let v : Rat := ((s.nrg.power - s.nrg.floor : Nat) : Rat)
  let tl := toMark s
  let ratio : Rat := (2 ^ s.nrg.density : Rat) / (2 ^ d : Rat)
  spentUnits s + (s.nrg.floor : Rat) * tl / 100 + v * ratio * min tl (longestLeft s * (2 ^ d : Rat)) / 100

/-- The code that the governor sets: the first that fits the budget, rising one step a tick (R290; DEDUCED, log 41). -/
def governorCode (s : State) : Nat :=
  let fit := ((List.range 4).find? (fun d => decide (governed s d ≤ (s.nrg.budget : Rat)))).getD 3
  max fit (s.nrg.density - 1)

/-- The governor acts while SHORT is set (R290; DEDUCED, log 41). -/
def govern (s : State) : State :=
  if s.nrg.short then
    let d := governorCode s
    { s with nrg := { s.nrg with density := d }, cmds := s.cmds.map (fun c => if isRunning c then { c with density := d } else c) }
  else s

/-! ### The tick (R288) -/

/-- Elapsed time of running commands is weighted up to now (R288). -/
def weigh (s : State) : State :=
  { s with cmds := s.cmds.map (fun c =>
      if isRunning c then { c with weighted := c.weighted + (s.now - c.weighedAt) * 2 ^ (3 - effDensity s c), weighedAt := s.now }
      else c) }

/-- The energy of the time since the last tick at p watts is counted (R288; DEDUCED, log 41). -/
def spend (s : State) (p : Nat) : State :=
  let e := p * (s.now - s.nrg.tickAt)
  { s with nrg := { s.nrg with spent := s.nrg.spent + e, total := s.nrg.total + e, tickAt := s.now } }

/-- The figures as the registers show them (R288, R299), and EXHAUSTED (R291; DEDUCED, log 41). -/
def showFigures (s : State) : State :=
  { s with nrg := { s.nrg with
      reserved := min (reservedUnits s).floor.toNat (2 ^ 32 - 1)
      projected := min (projectedUnits s).floor.toNat (2 ^ 32 - 1)
      exhausted := ledgerOn s && decide (s.nrg.budget * unitWns ≤ s.nrg.spent) } }

/-- A tick: 10 µs of input power `watts` are counted, the figures updated, the governor acts, densities are applied (R288, R290,
R291; DESIGN CHOICE, log 1; DESIGN CHOICE, log 37). -/
def ledgerTick (s : State) (watts : Nat) : State :=
  let s := latchMark (spend (weigh (advance s (s.nrg.tickAt + 10000))) watts)
  let s := showFigures { s with nrg := { s.nrg with power := watts } }
  applyDensity (if ledgerOn s then govern s else s)

/-- The ledger at phase 0 of a round: the rest of the last round is counted at the last power, the budget is latched from
NRG_BUDGET_NEXT where it is new (R287; DEDUCED, log 41). -/
def latchBudget (s : State) : State :=
  let s := spend (weigh s) s.nrg.power
  let n := s.nrg
  let n := { n with
    lastBudget := n.budget, lastSpent := min (n.spent / unitWns) (2 ^ 32 - 1), spent := 0, exhausted := false
    budget := if n.budgetNew then n.budgetNext else n.budget, budgetNew := false }
  applyDensity (latchMark { s with nrg := n })

end Sys2Proof.Machine
end

