-- ==== Sys2Proof/Machine/Rounds.lean ====
section
/-! DEFINITION. Rounds: marks (R275 to R277), the decision and its notices (R282 to R286), backfill (R285), commit regions
and gobs (R278, R279), the start of a round (R268, R273), beacons and ROUND_IN (R271 to R274, R252 to R256). -/

namespace Sys2Proof.Machine

/-! ### Marks (R275 to R277) -/

/-- Level mark k fires: it is free again and acts (R276, R277). -/
def fireMark (s : State) (n k : Nat) : State :=
  let m := tget (levelOf s n).marks {} k
  let s := modLevel s n (fun l => { l with marks := tset l.marks {} k { m with armed := false, fired := true } })
  match m.action with
  | 1 => signalOne s .level n m.tally 1 false { source := 5, unit := n }
  | 2 => signalOne s .device 0 m.tally 1 false { source := 5, unit := n }
  | 3 => deadlineMark s n m.round m.phase
  | _ => s

/-- An armed mark by round, phase, level and index. -/
structure MarkAt where
  round : Nat
  phase : Nat
  level : Nat
  index : Nat
  deriving DecidableEq, Repr

/-- Order of marks that fire together: round, then phase, then index (R276). -/
def markBefore (a b : MarkAt) : Bool :=
  decide (a.round < b.round) || (decide (a.round = b.round) &&
    (decide (a.phase < b.phase) || (decide (a.phase = b.phase) && decide (a.index ≤ b.index))))

def insertMark (m : MarkAt) : List MarkAt → List MarkAt
  | [] => [m]
  | x :: xs => if markBefore m x then m :: x :: xs else x :: insertMark m xs

/-- An armed mark at or before a point fires with it; one armed in this cycle for a point reached already waits for the next (R276). -/
def firesBy (s : State) (m : Mark) (round phase : Nat) : Bool :=
  m.armed && (decide (m.round < round) || decide (m.round = round ∧ m.phase ≤ phase)) && !(m.past && decide (m.armedAt = s.now))

/-- The armed level marks at or before a point, in order. -/
def marksTo (s : State) (round phase : Nat) : List MarkAt :=
  (s.levels.flatMap (fun l => l.2.marks.filterMap (fun m =>
    if firesBy s m.2 round phase then some { round := m.2.round, phase := m.2.phase, level := l.1, index := m.1 : MarkAt }
    else none))).foldr insertMark []

/-- Every armed level mark at or before a point fires (R276). -/
def fireTo (s : State) (round phase : Nat) : State :=
  (marksTo s round phase).foldl (fun s m => fireMark s m.level m.index) s

/-- When an armed mark of the current round or an earlier one fires: as its point is reached, or in the cycle after it was armed (R276). -/
def markTime (s : State) (m : Mark) : Nat := max (m.armedAt + 1) (if m.round = s.rnd.round then phaseTime s m.phase else 0)

/-- MARK_FIRE: an armed mark of the current round is reached, or one already passed fires (R276). -/
def execMarkFire (n k : Nat) (s : State) : Answer :=
  let m := tget (levelOf s n).marks {} k
  if m.armed = false ∨ s.rnd.round < m.round then .next s else .next (fireMark (advance s (markTime s m)) n k)

/-! ### The decision (R282, R284, R286) -/

/-- A command that a fault has ended leaves a reduction unwritten, or a bulk entry that it sent unacknowledged (R229, R282). -/
def leftOpen (c : Cmd) : Bool := decide (c.outcome = 3 ∧ c.reductions ≠ []) || (decide (c.outcome = 3) && c.bulk.any (fun b => decide (b.state = 1)))

/-- A main command that keeps its round from committing (R282, R358). -/
def blocksCommit (n : Nat) (c : Cmd) : Bool := !c.desc.fill && decide (c.round = n) && !c.past && (unfinished c || c.lost || leftOpen c)

/-- RND_LAST and the flags of a ROUND_NOTE (R299, R335). -/
def decisionFlags (commit unfin full quench host : Bool) : Nat :=
  b2n commit + 2 * b2n unfin + 4 * b2n full + 8 * b2n quench + 16 * b2n host

/-- The device decides the current round: commit or drop. The commit regions as written are due; they take effect at once, or
after the backfill that is due or under way (R278, R282, R286, R289; DEDUCED, log 17; DEDUCED, log 41). -/
def decideRound (s : State) : State :=
  let n := s.rnd.round
  let unfin := s.cmds.any (blocksCommit n)
  let full := s.rnd.fullRounds.contains n
  let host := s.rnd.dropReq
  let commit := !(unfin || full || host || s.rnd.quenched)
  let flags := decisionFlags commit unfin full s.rnd.quenched host
  let r := s.rnd
  let now := commit && !r.backfill
  let s := { s with
    rnd := { r with
      decided := true, decidedTo := some (max n (r.decidedTo.getD 0)), notices := r.notices ++ [{ round := n, commit := commit, flags := flags }], dropReq := false
      fullRounds := r.fullRounds.filter (fun k => decide (k ≠ n))
      last := BitVec.ofNat 64 (n % 2 ^ 48 + flags * 2 ^ 48), lastCommit := if commit then n else r.lastCommit, commits := r.commits + b2n commit, drops := r.drops + b2n (!commit)
      backfill := r.backfill || !commit, dueBase := r.cregBase, dueSize := r.cregSize
      liveBase := if now then r.cregBase else r.liveBase, liveSize := if now then r.cregSize else r.liveSize }
    nrg := { s.nrg with short := false, density := 0 } }
  beginStaging (postNotes s 0x41 (toBytes 6 n ++ toBytes 1 flags ++ [0, 0, 0, 0, 0]))

/-- The release mark of the current round fires (R275). -/
def fireRelease (s : State) : State :=
  { s with rnd := { s.rnd with released := true, releasedTo := some (max s.rnd.round (s.rnd.releasedTo.getD 0)) } }

/-- RELEASE_MARK (R275, R286). -/
def execReleaseMark (s : State) : Answer :=
  if s.rnd.released ∨ aonOn s = false then .next s else .next (fireRelease (advance s (phaseTime s s.rnd.relNs)))

/-- COMMIT_MARK; in safe halt the round is neither committed nor backfilled (R282, R367). -/
def execCommitMark (s : State) : Answer :=
  if s.rnd.decided ∨ s.flt.safeHalt ∨ aonOn s = false then .next s else .next (decideRound (advance s (phaseTime s s.rnd.comNs)))

/-- DROP_CURRENT: a round already decided is not touched (R282, R299; DEDUCED, log 17). -/
def execDropCurrent (s : State) : Answer :=
  if s.rnd.decided ∨ aonOn s = false then .next s else .next { s with rnd := { s.rnd with dropReq := true } }

/-! ### Notices (R283 to R285, R188) -/

/-- The commands that a notice of round n ends or ended (R284, R358; DEDUCED, log 17). -/
def victims (s : State) (n : Nat) : List Cmd :=
  s.cmds.filter (fun c => decide (c.round = n) && !c.past && (unfinished c || decide (c.outcome = 2) || c.lost))

/-- A tally returns to its base after the steps of R173 for the cycle, which a notice ends (R188, R283; DEDUCED, log 17). -/
def noticeBase (s : State) (k : Scope × Nat × Nat) : State :=
  toBase (putTally s k.1 k.2.1 k.2.2 { tallyOf s k.1 k.2.1 k.2.2 with visit := none }) k

/-- The declared tallies of a round's ended commands that a block holds return to their bases (R188; DEDUCED, log 17). -/
def restoreTallies (s : State) (n : Nat) (here : Scope × Nat × Nat → Bool) : State :=
  (((victims s n).flatMap tallyKeys).eraseDups.filter here).foldl noticeBase s

/-- Every tally's base takes its count (R188). -/
def baseAll (t : Tab Tally) (p : Nat → Bool) : Tab Tally :=
  t.foldl (fun t e => if p e.1 then tset t {} e.1 { e.2 with base := e.2.count } else t) t

/-- The device tally numbers of a headframe (R184). -/
def headOf (num : Nat) : Nat := if num < 512 then 0 else 1

/-- The headframe of a port (R232). -/
def headOfPort (p : Nat) : Nat := if p < 6 then 0 else 1

/-- The port by which messages for a device leave, when its route is valid (R244). -/
def routePort (s : State) (d : Nat) : Option Nat :=
  let r := (tget s.routes 0 d).toNat
  if bit r 4 then some (bits r 0 4) else none

/-- The 20 TYPE-SPECIFIC bytes that start with a command tag and an entry index: the model's own layout for the bulk messages, which
the spec does not lay down (R243, log 24). -/
def bulkSpec (tag i : Nat) (more : List Byte) : List Byte :=
  toBytes 4 tag ++ toBytes 2 i ++ more ++ List.replicate (14 - more.length) (0 : Byte)

/-- What a port has still to send of a PUT goes; a message begun goes on to its end (R248). -/
def dropPut (s : State) (p tag i : Nat) : State :=
  let mine := fun (q : QItem) => (match q.out with
    | .fab _ m => decide (m.typ = 0x01 ∨ m.typ = 0x02) && decide (m.src = s.fabId ∧ m.spec.take 6 = toBytes 4 tag ++ toBytes 2 i)
    | _ => false)
  modPort s p (fun x => { x with sendq := x.sendq.filter (fun q => !(mine q && decide (q.sent = 0))) })

/-- The unfinished bulk entries of a command that leave by a headframe end: BULK_ABORT follows each PUT that was sent (R248). -/
def abortBulk (s : State) (c : Cmd) (h : Nat) : State :=
  (List.range c.bulk.length).foldl (fun s i =>
    match c.bulk[i]?, routePort s (match c.bulk[i]? with | some b => b.dst | none => 0) with
    | some b, some p =>
      if b.put ∧ b.state = 1 ∧ headOfPort p = h then
        sendOwn (dropPut s p c.tag i) p { typ := 0x04, dst := b.dst, src := s.fabId, ttl := 0, spec := bulkSpec c.tag i [] }
      else s
    | _, _ => s) s

/-- The pending gob of a stack takes effect when no saved granule is left (R279; DEDUCED, log 45). -/
def renewGob (x : Stack) : Stack :=
  if x.saved = [] then { x with gobBase := x.gobBaseNew, gobCap := x.gobCapNew } else x

/-- A commit notice of round n at a stack: what it saved for that round goes, unless a drop of the round is still to be backfilled. A
notice of a round ahead of the current one is from before RND_SET_ROUND took the count back (R280, R284; DEDUCED, log 45). -/
def stackCommit (n current : Nat) (x : Stack) : Stack :=
  let x := { x with
    committed := if n ≤ current then some (max n (x.committed.getD 0)) else x.committed
    saved := x.saved.filter (fun v => decide (v.round ≠ n) || x.drops.contains v.round) }
  if x.drops = [] then renewGob x else x

/-- The crews of a round's ended commands on the stopes that `here` names end before a block's tallies are restored; reserved stopes
run outside the round rule (R188, R258). -/
def endVictims (s : State) (n : Nat) (here : Nat → Bool) : State :=
  (victims s n).foldl (fun s c =>
    ((targetsOf c).filter (fun st => here st && !isReserved s st)).foldl (fun s st => endCrews (settle s st) st (worksFor c)) s) s

/-- The notice of round n's decision reaches a block; `flags` are the reasons of a drop (R188, R258, R283 to R285). -/
def noticeAt (s : State) (n : Nat) (commit : Bool) (flags : Nat) (b : Block) : State :=
  match b with
  | .stope st =>
    let s := (victims s n).foldl (fun s c => if bit c.desc.target st ∧ isReserved s st = false then endWork s c st else s) s
    let s := restoreTallies s n (fun k => decide (k.1 = .stope ∧ k.2.1 = st))
    let s := if commit then modStope s st (fun x => { x with tallies := baseAll x.tallies (fun _ => true) }) else s
    let s := raiseEvent s st { cls := 6 }
    traceRec s st (if commit then 0x0060 else 0x0061) 0 0 0x50
      (n % 2 ^ 48 + (if commit then 0 else flags % 2 ^ 5 * 2 ^ 48))
  | .level m =>
    let s := endReductions (endVictims s n (fun st => decide (stopeLevel st = m))) m n
    let s := restoreTallies s n (fun k => decide (k.1 = .level ∧ k.2.1 = m))
    if commit then modLevel s m (fun l => { l with tallies := baseAll l.tallies (fun _ => true) }) else s
  | .head h =>
    let vs := (victims s n).filter (fun c => unfinished c || decide (c.outcome = 2))
    let s := vs.foldl (fun s c => abortBulk s c h) (endVictims s n (fun _ => true))
    let s := restoreTallies s n (fun k => decide (k.1 = .device ∧ headOf k.2.2 = h))
    let s := if commit then { s with devTallies := baseAll s.devTallies (fun k => decide (headOf k = h)) } else s
    if h = 0 then
      (vs.filter unfinished).foldl (fun s c =>
        let s := reportReductions s c
        let s := endSieve s c.tag
        finishCmd s { sameCmd s c with reductions := [] } 2 0) s
    else s
  | .stack k =>
    if commit then modStack s k (stackCommit n s.rnd.round)
    else modStack s k (fun x => { x with drops := if x.drops.contains n then x.drops else x.drops ++ [n] })

/-- The block is one of the device's (R12, R13, R26). -/
def isBlock (b : Block) : Bool :=
  match b with
  | .stope st => decide (st < 160)
  | .level n => decide (n < 8)
  | .head h => decide (h < 2)
  | .stack k => decide (k < 16)

/-- Blocks that a notice reaches: 160 stopes, 8 levels, 2 headframes, 16 stacks. -/
def blockCount : Nat := 186

/-- The notice with its next block; one that has reached every block is done with. -/
def markReached (v : Notice) (b : Block) : List Notice → List Notice
  | [] => []
  | w :: ws =>
    if w = v then (if v.reached.length + 1 < blockCount then { v with reached := b :: v.reached } :: ws else ws)
    else w :: markReached v b ws

/-- The oldest decision whose notice has not reached a block reaches it, when it is of this kind; the block's cycle ends first
(R283). -/
def takeNotice (s : State) (commit : Bool) (b : Block) : State :=
  match s.rnd.notices.find? (fun v => !v.reached.contains b) with
  | none => s
  | some v =>
    if v.commit ≠ commit ∨ isBlock b = false then s
    else
      let s := endCycle s
      noticeAt { s with rnd := { s.rnd with notices := markReached v b s.rnd.notices } } v.round commit v.flags b

/-- COMMIT_NOTICE (R284). -/
def execCommitNotice (b : Block) (s : State) : Answer := .next (takeNotice s true b)

/-- DROP_NOTICE (R284, R285). -/
def execDropNotice (b : Block) (s : State) : Answer := .next (takeNotice s false b)

/-- One saved granule is written back with its sidecar entry, after a snapshot's copy of it (R279, R285, R379). -/
def restoreGranule (s : State) (k : Nat) (v : Saved) : State :=
  let s := stageAhead s .foreman k v.offset
  let x := stackOf s k
  let data := (List.range 4096).map (fun j => cellAt s.mem (hbmAddr k (x.gobBase + 4096 * v.slot + j)))
  let entry := ofBytes ((List.range 8).map (fun j => cellAt s.mem (hbmAddr k (x.gobBase + 4096 * x.gobCap + 16 * v.slot + 8 + j))))
  putSideEntry (writeCells s (cellsAt (hbmAddr k v.offset) data)) (hbmAddr k v.offset) (BitVec.ofNat 64 entry)

/-- The granules that stack k saved for the dropped rounds whose notices came are written back, the oldest save last, and leave the
gob (R285; DEDUCED, log 45). -/
def backfillStack (s : State) (k : Nat) : State :=
  let x := stackOf s k
  let mine := x.saved.filter (fun v => x.drops.contains v.round)
  let s := mine.reverse.foldl (fun s v => restoreGranule s k v) s
  modStack s k (fun x => renewGob { x with drops := [], saved := x.saved.filter (fun v => !x.drops.contains v.round) })

/-- A crew of round n that can still store. -/
def crewStores (n : Nat) (c : Crew) : Bool :=
  decide (c.round = n) && (match c.state with | .idle => false | .faulted => false | _ => true)

/-- A write of round n through a gob may still come: from a tram or a crew of a stope that the notice has not stopped, from a hoist or
from a sieve (R280, R285; DEDUCED, log 45). -/
def writesLeft (s : State) (n : Nat) : Bool :=
  s.stopes.any (fun e => !isReserved s e.1 && (e.2.queue.any (fun f => decide (f.round = n ∧ f.kind ≠ .tld)) ||
    e.2.agents.any (fun a => decide (a.1 < 16) && crewStores n a.2))) ||
  s.levels.any (fun l => l.2.hoist.slots.any (fun x => x.2.loaded && decide (x.2.round = n)) ||
    (l.2.sieve.busy && (match cmdOf s l.2.sieve.tag with | some c => decide (c.round = n) | none => false)))

/-- BACKFILL: every write of the dropped rounds has been acknowledged (R285). -/
def execBackfill (k : Nat) (s : State) : Answer :=
  let x := stackOf s k
  if x.drops = [] ∨ tramsOff s ∨ x.drops.any (writesLeft s) then .next s else .next (backfillStack s k)

/-- The dropped rounds are restored: admission resumes, the commit regions that were due take effect, a snapshot that awaited this starts
(R278, R285, R378). -/
def endBackfill (s : State) : State :=
  beginStaging { s with rnd := { s.rnd with backfill := false, liveBase := s.rnd.dueBase, liveSize := s.rnd.dueSize } }

/-- Every stack has had the drop notices and has finished. -/
def backfilled (s : State) : Bool :=
  (List.range 16).all (fun k => s.rnd.notices.all (fun v => v.commit || v.reached.contains (.stack k)) && decide ((stackOf s k).drops = []))

/-- BACKFILL_DONE (R285). -/
def execBackfillDone (s : State) : Answer := if s.rnd.backfill ∧ backfilled s then .next (endBackfill s) else .next s

/-! ### Round starts (R268, R273, R275, R287) -/

/-- The marks of the round by its latched phases and its length; PHASE_IGN when they break R275. -/
def setPhases (r : Round) : Round :=
  if r.relRaw < r.comRaw ∧ r.comRaw < r.lenUs then { r with relNs := r.relRaw * 1000, comNs := r.comRaw * 1000 }
  else { r with relNs := 0, comNs := (r.lenUs - 1) * 1000, phaseIgn := true }

/-- RND_RELEASE and RND_COMMIT take effect at the start of a round (R275). -/
def latchPhases (r : Round) : Round := setPhases { r with relRaw := r.release, comRaw := r.commit }

/-- Round k is one whose mark has fired already: no mark fires twice (R271). -/
def firedTo (upTo : Option Nat) (k : Nat) : Bool := match upTo with | some m => decide (k ≤ m) | none => false

/-- Round r begins, its phase counted from `origin` (R268, R271, R275, R287). -/
def openRound (s : State) (r : Nat) (origin : Int) (len : Nat) : State :=
  let x := s.rnd
  let k := r % 2 ^ 48
  latchBudget { s with rnd := latchPhases { x with
    round := k, origin := origin, lenUs := len, released := firedTo x.releasedTo k, decided := firedTo x.decidedTo k
    dropReq := false, quenched := false, gobFull := x.fullRounds.contains k } }

/-- The origin with which the clock stands at phase p now, the slew and the trim going on (R272). -/
def originFor (s : State) (p : Int) : Int := (s.now : Int) + slewed s.rnd s.now + trimmed s.rnd s.now - p

/-- What the rest of the current round holds fires: its release mark, its level marks, its commit mark (R276). -/
def closeRound (s : State) : State :=
  let n := s.rnd.round
  let s := if s.rnd.released then s else fireRelease s
  let s := fireTo s n s.rnd.comNs
  let s := if s.rnd.decided ∨ s.flt.safeHalt then s else decideRound s
  fireTo s n (roundNs s)

/-- The number of the round that follows (R268, R273). -/
def nextRound (r : Round) : Nat := match r.setRound with | some x => if r.source = 0 then r.round + 1 else x | none => r.round + 1

/-- A stack takes a write of round k or later as one whose notice is still to come (R280). -/
def uncommit (k : Nat) (x : Stack) : Stack :=
  { x with committed := match x.committed with | some m => if m < k then some m else if k = 0 then none else some (k - 1) | none => none }

/-- A value of RND_SET_ROUND starts the count afresh: what has fired is past, and the rounds from there on are to be decided (R273, R280;
DEDUCED, log 17; DEDUCED, log 45). -/
def freshCount (s : State) : State :=
  if s.rnd.setRound.isSome ∧ s.rnd.source ≠ 0 then
    (List.range 16).foldl (fun s k => modStack s k (uncommit (nextRound s.rnd))) { s with rnd := { s.rnd with releasedTo := none, decidedTo := none } }
  else s

/-- The next round starts, its phase counted from `origin` (R268, R273). -/
def startRound (s : State) (origin : Int) : State :=
  let s := closeRound s
  let r := s.rnd
  let s := openRound (freshCount s) (nextRound r) origin (if r.source = 0 then r.lenUs else r.lenNew)
  { s with rnd := { s.rnd with setRound := if r.source = 0 then r.setRound else none } }

/-- ROUND_START (R268). -/
def execRoundStart (s : State) : Answer :=
  if aonOn s = false then .next s
  else .next (startRound (advance s (phaseTime s (roundNs s))) (s.rnd.origin + (roundNs s : Int)))

/-! ### Commit regions and gobs (R278, R279) -/

/-- The data offsets of stack k that a range of either view covers: first and length; none where it covers none. -/
def spanIn (base size k : Nat) : Option (Nat × Nat) :=
  if base < 2 ^ 40 then (if base / 2 ^ 36 = k then some (base % 2 ^ 36, size) else none)
  else some ((base - 2 ^ 40) / 65536 * 4096, size / 16)

/-- The ranges that the regions of a pair of tables cover in stack k. -/
def regionSpans (bases sizes : Tab Word64) (k : Nat) : List (Nat × Nat) :=
  (List.range 16).filterMap (fun r =>
    match regionIn bases sizes r with
    | some (b, n) => spanIn b n k
    | none => none)

def insertSpan (v : Nat × Nat) : List (Nat × Nat) → List (Nat × Nat)
  | [] => [v]
  | w :: ws => if v.1 ≤ w.1 then v :: w :: ws else w :: insertSpan v ws

/-- Bytes that sorted ranges cover, from `done` on. -/
def covered (done : Nat) : List (Nat × Nat) → Nat
  | [] => 0
  | (a, n) :: ws => (a + n - max done a) + covered (max done (a + n)) ws

/-- Two ranges meet. -/
def spansMeet (a n b m : Nat) : Bool := decide (0 < n ∧ 0 < m ∧ a < b + m ∧ b < a + n)

/-- One valid region keeps the form of R278. -/
def regionOk (s : State) (b n : Nat) : Bool :=
  decide (b % 65536 = 0 ∧ n % 65536 = 0 ∧ 65536 ≤ n) &&
  (match locate s b, locate s (b + n - 1) with
    | .hbm j _, .hbm k _ => decide (b + n ≤ 2 ^ 40 ∧ j = k) || decide (2 ^ 40 ≤ b)
    | _, _ => false)

/-- The regions of a pair of tables keep the rules of R278, against each stack's gob as written and in effect. -/
def regionsOk (s : State) (bases sizes : Tab Word64) : Bool :=
  (List.range 16).all (fun r => match regionIn bases sizes r with | some (b, n) => regionOk s b n | none => true) &&
  (List.range 16).all (fun k =>
    let spans := regionSpans bases sizes k
    let x := stackOf s k
    decide (covered 0 (spans.foldr insertSpan []) ≤ 2 ^ 32) &&
    spans.all (fun v => !spansMeet v.1 v.2 x.gobBaseNew (gobSpan x.gobCapNew) && !spansMeet v.1 v.2 x.gobBase (gobSpan x.gobCap)))

/-- A write of a commit region register; one that breaks the rules sets CREG_IGN (R278; DEDUCED, log 45). -/
def writeRegion (s : State) (r : Nat) (size : Bool) (v : Nat) : State :=
  let bases := if size then s.rnd.cregBase else tset s.rnd.cregBase 0 r (BitVec.ofNat 64 (v % 2 ^ 48 + v / 2 ^ 63 % 2 * 2 ^ 63))
  let sizes := if size then tset s.rnd.cregSize 0 r (BitVec.ofNat 64 (v % 2 ^ 40)) else s.rnd.cregSize
  if regionsOk s bases sizes then { s with rnd := { s.rnd with cregBase := bases, cregSize := sizes } }
  else { s with rnd := { s.rnd with cregIgn := true } }

/-- COMMIT_REGION_WRITE (R278). -/
def execCommitRegionWrite (r : Nat) (size : Bool) (v : Word64) (s : State) : Answer :=
  if r < 16 ∧ headsUp s then .next (writeRegion s r size v.toNat) else .next s

/-- A gob of stack k keeps the rules of R279, against the regions as written, due and in effect. -/
def gobOk (s : State) (k base cap : Nat) : Bool :=
  let clear := fun (bases sizes : Tab Word64) => (regionSpans bases sizes k).all (fun v => !spansMeet v.1 v.2 base (gobSpan cap))
  decide (base % 4096 = 0 ∧ cap ≤ 1048576 ∧ base + gobSpan cap ≤ dataEnd s k) &&
  clear s.rnd.cregBase s.rnd.cregSize && clear s.rnd.dueBase s.rnd.dueSize && clear s.rnd.liveBase s.rnd.liveSize

/-- A write of a gob register, taken with the other's value as last written; one that breaks the rules sets GOB_IGN (R279;
DEDUCED, log 45). -/
def writeGob (s : State) (k : Nat) (ctl : Bool) (v : Nat) : State :=
  let x := stackOf s k
  let base := if ctl then x.gobBaseNew else v % 2 ^ 36
  let cap := if ctl then v % 2 ^ 21 else x.gobCapNew
  if gobOk s k base cap then modStack s k (fun x => { x with gobBaseNew := base, gobCapNew := cap })
  else { s with rnd := { s.rnd with gobIgn := true } }

/-- GOB_REGISTER_WRITE (R279). -/
def execGobRegisterWrite (k : Nat) (ctl : Bool) (v : Word64) (s : State) : Answer :=
  if k < 16 ∧ headsUp s then .next (writeGob s k ctl v.toNat) else .next s

/-- A fault of an arriving write goes to its writer: a tram's as a transfer-fault event of its stope, whose crew and argument the spec
leaves open; a hoist or a sieve has no overman, and its command bears the fault: GOB_FULL in a report for each stack, ADDR_HOLE in
its completion record (R30, R279, R281, R332; DESIGN CHOICE, log 13). -/
def faultWriter (s : State) (who : Writer) (tag code : Nat) (full : List (Nat × Nat)) : State :=
  let s := reportGob s tag (full.eraseDups)
  match who with
  | .tram st => xferEvent (useFree s 2) st (freeAt s 0 % 16) code (freeAt s 1) 0 tag (match cmdOf s tag with | some c => c.epoch | none => 0)
  | .hoist => if code = fcAddrHole then failCommand s tag code else s
  | .sieve => if code = fcAddrHole then failCommand s tag code else s
  | _ => s

/-- A host write through a command-buffer window: past the gob, PRESENT = 0 first; ignored where no valid, writable window maps it
(R309; DEDUCED, log 46). -/
def hostWrite (s : State) (pa : Nat) (bs : List Byte) : State :=
  if windowMaps s pa bs.length then (stackArrive (absentUnder s .host pa bs.length) .host 0 pa bs).1 else s

/-- STACK_WRITE: a write arrives with its round, for a command work's writer with the tag of its command, while HBM is powered (R280, R281,
R309, R403; DEDUCED, log 46). -/
def execStackWrite (who : Writer) (tag : Stamp) (pa : Nat) (bytes : List Byte) (s : State) : Answer :=
  if headsUp s = false then .next s
  else
    match who with
    | .host => .next (hostWrite s pa bytes)
    | _ =>
      if refusedWrite s who pa bytes.length then .next (faultWriter s who tag.tag fcAddrHole [])
      else
        let r := stackArrive s who tag.round pa bytes
        .next (if r.2 = [] then r.1 else faultWriter r.1 who tag.tag fcGobFull r.2)

/-! ### The cadence (R252 to R256, R271 to R274) -/

/-- The cadence port: the lowest with CAD_IN in the configuration it trained with (R237, R252). -/
def cadencePort (s : State) : Option Nat := (List.range 12).find? (fun p => bit (portOf s p).live.toNat 3)

/-- Up ports with CAD_OUT (R253, R256). -/
def cadenceOuts (s : State) : List Nat := (List.range 12).filter (fun p => bit (portOf s p).live.toNat 4 && carries (portOf s p))

/-- The power state code of PRESENCE (R254). -/
def presenceCode (s : State) : Nat :=
  if s.flt.safeHalt then 5 else if s.ebb then 4
  else match s.power with | .idle => 1 | .doze => 2 | .vigil => 3 | _ => 0

/-- The PRESENCE reply to a beacon; its turnaround is the implementation's (R254). -/
def sendPresence (s : State) (p wire : Nat) (free : Bool) : State :=
  let serving := (List.range s.conf.q).any (fun i => !tget s.qheld false i && (physHolding s (reservedNumber i)).isSome)
  let flags := b2n serving + 2 * b2n (s.phys.any (fun e => decide (e.2.state = 3))) + 4 * b2n free
  let bs := [6, 0, 0, 0] ++ toBytes 4 wire ++ toBytes 2 s.fabId ++ toBytes 1 (presenceCode s) ++ toBytes 1 flags ++
    toBytes 4 (freeAt s 0 % 2001)
  sendCtl { useFree s 1 with presences := (s.presences + 1) % 2 ^ 32 } p (.presence p bs)

/-- The clock is aligned to its source again (R274). -/
def locked (s : State) : State :=
  { s with rnd := { s.rnd with locked := true, freeRun := false, missed := 0 } }

/-- Every mark of the current round that the clock has passed fires (R272, R276). -/
def firePassed (s : State) : State :=
  let p := phaseNs s
  let s := if s.rnd.released = false ∧ s.rnd.relNs ≤ p then fireRelease s else s
  let s := if s.rnd.decided = false ∧ s.rnd.comNs ≤ p ∧ s.flt.safeHalt = false then
      decideRound (fireTo s s.rnd.round s.rnd.comNs) else s
  fireTo s s.rnd.round p

/-- What slewing and the trim have added so far stands in the origin; what is still to be slewed remains (R272). -/
def rebase (r : Round) (t : Nat) : Round :=
  { r with origin := r.origin - slewed r t - trimmed r t, slew := r.slew - slewed r t, slewAt := t }

/-- The phase rate after a beacon that found the error `err`: what has drifted since the last one is trimmed away (R272; DESIGN CHOICE,
log 17). -/
def newTrim (r : Round) (t : Nat) (err : Int) : Int :=
  match r.lastBeacon with
  | some u => if u < t then r.trim + (err - (r.slew - slewed r t)) * 1000000000 / (((t - u : Nat) : Int)) else r.trim
  | none => r.trim

/-- A beacon that found the error `err` trims the phase rate, from here on (R272). -/
def trimRate (s : State) (err : Int) : State :=
  { s with rnd := { rebase s.rnd s.now with trim := newTrim s.rnd s.now err } }

/-- The phase is corrected by `err` ns: slewed when at most 1 µs, by one step otherwise; a forward step fires the marks it passes
(R272; DEDUCED, log 17). -/
def correctPhase (s : State) (err : Int) : State :=
  let r := rebase s.rnd s.now
  if err.natAbs ≤ 1000 then { s with rnd := { r with slew := err } }
  else
    let s := { s with rnd := { r with origin := r.origin - err, slew := 0, step := err } }
    if err < 0 then s else firePassed s

/-- n rounds pass at once, each with all its marks; the last of them stays open (R271, R276). -/
def skipRounds (s : State) : Nat → State
  | 0 => s
  | n + 1 =>
    let s := closeRound s
    skipRounds (openRound s (s.rnd.round + 1) (originFor s 0) s.rnd.lenUs) n

/-- A round in progress takes a new length, and its marks stand as its own latched phases put them within it (R271, R275; DEDUCED, log
17). -/
def retime (r : Round) (len : Nat) : Round := setPhases { r with lenUs := len }

/-- The clock stands at the target phase of a round that a beacon opens: nothing is left to slew (R271, R272). -/
def alignPhase (s : State) : State := { s with rnd := { rebase s.rnd s.now with slew := 0 } }

/-- The beacon's budget is latched for the round it names (R287). -/
def beaconBudget (s : State) (b : Beacon) : State :=
  if bit s.nrg.cfg.toNat 1 ∧ b.budget ≠ 0 then { s with nrg := { s.nrg with budget := b.budget % 2 ^ 32 } } else s

/-- The round that a beacon gives (R271): with ACCEPT_ANY the one written to RND_SET_ROUND, when one is (R299; DEDUCED, log
17). -/
def beaconRound (s : State) (b : Beacon) : Int :=
  match s.rnd.acceptAny, s.rnd.setRound with
  | true, some r => (r : Int)
  | _, _ => extendRound b.wire s.rnd.round

/-- The clock takes an accepted beacon of round r whose target phase is `target`; one that skips rounds or goes back says nothing of
the phase rate (R252, R271, R272; DEDUCED, log 17). -/
def takeBeacon (s : State) (b : Beacon) (r : Nat) (back : Bool) (target : Nat) : State :=
  let cur := s.rnd.round
  let s :=
    if back then
      let s := alignPhase s
      let s := openRound s r (originFor s (target : Int)) b.lenUs
      firePassed { s with rnd := { s.rnd with acceptAny := false, setRound := none } }
    else if r = cur then
      let s := if b.lenUs = s.rnd.lenUs then s else { s with rnd := retime s.rnd b.lenUs }
      let err := (target : Int) - phaseAt s.rnd s.now
      correctPhase (trimRate s err) err
    else
      let err := (roundNs s : Int) + (target : Int) - phaseAt s.rnd s.now
      let s := alignPhase (if r = cur + 1 then trimRate s err else s)
      let s := closeRound (skipRounds s (r - cur - 1))
      let s := openRound s r (originFor s (target : Int)) b.lenUs
      firePassed { s with rnd := { s.rnd with skipped := satAdd 16 s.rnd.skipped (r - cur - 1) } }
  let s := { s with rnd := { s.rnd with
    lenNew := b.lenUs, acceptAny := s.rnd.acceptAny && !s.rnd.setRound.isSome, setRound := if s.rnd.acceptAny then none else s.rnd.setRound
    seen := some s.rnd.round, lastBeacon := some s.now } }
  locked (beaconBudget s b)

/-- The beacon goes on by every up port with CAD_OUT; the time it spent in the device is the implementation's (R253). -/
def forwardBeacon (s : State) (b : Beacon) (delay : Nat) : State :=
  (cadenceOuts s).foldl (fun s p =>
    sendCtl (useFree s 1) p (.beacon p { b with elapsed := b.elapsed + delay + freeAt s 0 % 2001, fwd := (b.fwd + 1) % 256 })) s

/-- BEACON: PRESENCE answers it; the clock takes it, or ignores it as backward (R252 to R254, R271; DEDUCED, log 17). -/
def execBeacon (p : Nat) (b : Beacon) (s : State) : Answer :=
  if cadencePort s ≠ some p ∨ carries (portOf s p) = false then .next s
  else
    let s := sendPresence s p b.wire s.rnd.freeRun
    if s.rnd.source ≠ 0 then .next s
    else
      let delay := (portOf s p).delay
      let r := beaconRound s b
      let back : Bool := decide (r < (s.rnd.round : Int))
      if back ∧ s.rnd.acceptAny = false then
        .next { s with rnd := { s.rnd with backward := satAdd 8 s.rnd.backward 1 } }
      else .next (forwardBeacon (takeBeacon s b r.toNat back (b.elapsed + delay)) b delay)

/-- BEACON_MISS: no beacon or edge by 10 µs into the round; the third in a row sets CADENCE_LOST and FREE_RUN (R255, R274;
DEDUCED, log 17; DESIGN CHOICE, log 40). -/
def execBeaconMiss (s : State) : Answer :=
  let r := s.rnd
  if r.source = 2 ∨ r.seen = some r.round ∨ r.lastMiss = some r.round ∨ aonOn s = false then .next s
  else
    let s := advance s (phaseTime s 10000)
    let m := min (r.missed + 1) 3
    let s := { s with rnd := { s.rnd with missed := m, misses := satAdd 8 r.misses 1, lastMiss := some r.round } }
    if m = 3 ∧ r.freeRun = false then
      let s := { s with rnd := { s.rnd with cadLost := true, freeRun := true, locked := false, trim := 0, lastBeacon := none, origin := s.rnd.origin - trimmed s.rnd s.now } }
      .next (setAlert (openNote (logOpen s { code := 0x0604, source := 5, action := 1 }) 3) 5)
    else .next s

/-- The clock takes an accepted edge of ROUND_IN (R274, R415). -/
def lockedEdge (s : State) : State := locked { s with rnd := { s.rnd with lastEdge := some s.now } }

/-- ROUND_IN_EDGE: aligns the phase near a boundary, ends the round elsewhere; ignored within 1 µs of the last (R273, R415;
DEDUCED, log 17). -/
def execRoundInEdge (s : State) : Answer :=
  let r := s.rnd
  let soon : Bool := match r.lastEdge with | some t => decide (s.now - t ≤ 1000) | none => false
  if r.source ≠ 1 ∨ soon ∨ aonOn s = false then .next s
  else
    let p := phaseNs s
    let l := roundNs s
    let left : Int := (l : Int) - (p : Int)
    if p ≤ 10000 then
      let s := { s with rnd := { s.rnd with seen := some r.round } }
      .next (lockedEdge (correctPhase s (-phaseAt r s.now)))
    else if l ≤ p + 10000 ∧ left.natAbs ≤ 1000 then
      .next (lockedEdge { correctPhase s left with rnd := { (correctPhase s left).rnd with seen := some (nextRound r) } })
    else
      let s := startRound s (originFor s 0)
      .next (lockedEdge { s with rnd := { s.rnd with step := left, slew := 0, slewAt := s.now, origin := (s.now : Int), seen := some s.rnd.round } })

/-- PRESENCE: one received on a CAD_OUT port leaves unchanged by the cadence port (R254). -/
def execPresence (p : Nat) (data : List Byte) (s : State) : Answer :=
  if (cadenceOuts s).contains p then
    match cadencePort s with
    | some q => if carries (portOf s q) then .next (sendCtl s q (.presence q data)) else .next s
    | none => .next s
  else .next s

/-- ABSENT: recorded, forwarded on the CAD_OUT ports, reported (R256). -/
def execAbsent (p wire dev reason : Nat) (s : State) : Answer :=
  if carries (portOf s p) = false then .next s
  else
    let i := s.absentCount % 16
    let w : Word32 := BitVec.ofNat 32 (dev % 4096 + reason % 4 * 4096 + wire % 65536 * 65536)
    let s := { s with absentRing := tset s.absentRing 0 i w, absentCount := s.absentCount + 1 }
    let s := (cadenceOuts s).foldl (fun s q => sendCtl s q (.absent q wire dev reason)) s
    .next (absentNote s (dev % 4096) (reason % 256) (wire % 2 ^ 32))

end Sys2Proof.Machine
end

