-- ==== Sys2Proof/Machine/Resets.lean ====
section
/-! DEFINITION. Stope and level resets (R66, R361), VOID answers (R263, R264), power state changes (R292, R334), the stop of
every stope (R296, R367). -/

namespace Sys2Proof.Machine

/-! ### VOID answers (R263, R264) -/

/-- A VOID answer leaves by a port and is counted by its reason (R263, R264, R267). -/
def sendVoid (s : State) (port src qid reason : Nat) : State :=
  sendOwn { s with qVoid := tset s.qVoid 0 (reason - 1) (satAdd 8 (tget s.qVoid 0 (reason - 1)) 1) } port
    ({ typ := 0x32, dst := src, src := s.fabId, ttl := 0, spec := toBytes 4 reason ++ toBytes 4 qid ++ List.replicate 12 (0 : Byte) })

/-- Slot k of reserved stope i (R260). -/
def qslotOf (s : State) (i k : Nat) : QSlot := tget s.qslots {} (16 * i + k)
def putQslot (s : State) (i k : Nat) (q : QSlot) : State := { s with qslots := tset s.qslots {} (16 * i + k) q }

/-- The query held in a slot receives a VOID, LATE when its VOID_AT has passed; the slot stays busy until its answer tally is taken
(R261, R263, R264; DEDUCED, log 38). -/
def voidSlot (s : State) (i k reason : Nat) : State :=
  let q := qslotOf s i k
  let reason := if q.voidAt < s.now then 1 else reason
  if q.busy ∧ q.voided = false then putQslot (sendVoid s q.port q.src q.qid reason) i k { q with voided := true } else s

/-- Every query held in the slots of reserved stope i receives a VOID; `clear`: its slots are free afterwards. -/
def voidStope (s : State) (i reason : Nat) (clear : Bool) : State :=
  (List.range 16).foldl (fun s k =>
    let s := voidSlot s i k reason
    if clear then putQslot s i k {} else s) s

/-- The queries held for logical stope st, if it is reserved, receive VOID FAULT and its slots are free (R264, R265). -/
def voidReserved (s : State) (st : Nat) : State :=
  match reservedIndex s st with
  | some i => voidStope s i 6 true
  | none => s

/-- Every query held in any slot receives a VOID (R296, R367). -/
def voidEvery (s : State) (reason : Nat) : State := (List.range 16).foldl (fun s i => voidStope s i reason false) s

/-! ### Stope and level resets (R361) -/

/-- A crew after a stope reset: reset values, but for the stall counters, which the monitor block keeps; a wait or a hold at issue
that ends is counted (R190, R342, R361; DEDUCED, log 25). -/
def resetCrew (off : Bool) (now n : Nat) (c : Crew) : Crew :=
  let c := countHeld off n (countWait off now c)
  { stallTally := c.stallTally, stallTram := c.stallTram, stallIssue := c.stallIssue }

/-- An array after a stope reset (R66; DEDUCED, log 25). -/
def resetArr (r : Arr) : Arr :=
  { rowsIn := r.rowsIn, stallWeight := r.stallWeight, stallAct := r.stallAct, stallPort := r.stallPort }

/-- A stope after a stope reset: the sidecar array goes with the store, the trace ring and the monitor's figures stay, the
counted clock goes on (R66, R361; DEDUCED, log 25; DESIGN CHOICE, log 5). -/
def resetStope (x : Stope) (now : Nat) (stopped off : Bool) : Stope :=
  { agents := x.agents.foldl (fun t e => tset t {} e.1 (resetCrew off now (cnt x.clk now) e.2)) []
    clk := { base := cnt x.clk now, start := now, div := x.clk.div, stopped := stopped }, halted := stopped, awakeAt := now
    arr0 := { resetArr x.arr0 with mark := cnt x.clk now }, arr1 := { resetArr x.arr1 with mark := cnt x.clk now }
    trace := { x.trace with
      claimAt := none
      stallClaim := x.trace.stallClaim + (match x.trace.claimAt with | some a => if off then 0 else now - a | none => 0) }
    side := x.side, micro := x.micro, issued := x.issued
    rdBytes := x.rdBytes, wrBytes := x.wrBytes, sleepCyc := x.sleepCyc + (if x.gated ∧ off = false then now - x.gatedAt else 0)
    holdCyc := x.holdCyc, holdSince := now, holdCount := cnt x.clk now }

/-- The waits and signals of a stope's agents leave the tally blocks. -/
def forgetStope (s : State) (st : Nat) : State :=
  let s := (List.range 16).foldl (fun s cr => unlist s st cr) s
  { s with signals := s.signals.filter (fun g => decide (g.st ≠ st)) }

/-- Digest of the running firmware's microcode (R391, R392). -/
def runningMicro (s : State) : List Byte :=
  let x := if s.trust.runningB then s.trust.fwB else s.trust.fwA
  if x.factory then Config.factoryMicroDigest else x.microDigest

/-- Word i of a stope's overman instruction memory: the microcode that was loaded, 0 before any load (R105; DESIGN CHOICE, log 8).
-/
def microWord (x : Stope) (i : Nat) : Word64 :=
  match x.micro with
  | some d => if i < 8192 then Config.microWord d i else 0
  | none => 0

/-- The overman starts at word 0 with events disabled, its microcode loaded (R105, R131; DESIGN CHOICE, log 5). -/
def startOverman (x : Stope) (now : Nat) (micro : List Byte) : Stope :=
  putAgent { x with micro := some micro } 16 { agentOf x 16 with state := .running, pc := 0, nextIssue := now }

/-- Memory without the cells of a range. -/
def cellsOutside (m : List Host.Cell) (a n : Nat) : List Host.Cell := m.filter (fun c => decide (c.1 < a ∨ a + n ≤ c.1))
def clearRange (s : State) (a n : Nat) : State := { s with mem := cellsOutside s.mem a n }

/-- A stope reset; held queries of a reserved stope receive VOID FAULT (R66, R264, R361). A quench or a safe halt keeps the
stope in its hold until its level resets (R296, R367). The overman's data memory is cleared with it (R361). -/
def stopeReset (s : State) (st : Nat) : State :=
  let s := clearRange (voidReserved (markHold (forgetStope (settle s st) st) st) st) (ovmAddr st 0) (2 ^ 18)
  modStope s st (fun x =>
    let y := resetStope x s.now (levelHeld s (stopeLevel st)) (monitorOff s (stopeLevel st))
    if levelHeld s (stopeLevel st) ∨ (physHolding s st).isNone then y else startOverman y s.now (runningMicro s))

/-- One stope of a level reset: the store and its sidecar array stay, everything else starts from reset, at the density that
stands (R291, R361; DESIGN CHOICE, log 5; DEDUCED, log 25; DEDUCED, log 44). -/
def stopeAfresh (s : State) (st : Nat) : State :=
  let s := voidReserved (forgetStope (settle s st) st) st
  let s := clearRange (clearRange (clearRange s (progAddr st 0) (2 ^ 19)) (ovmAddr st 0) (2 ^ 18)) (traceAddr st 0) (2 ^ 18)
  modStope s st (fun x =>
    let held := levelHeld s (stopeLevel st)
    let y : Stope := { side := x.side, clk := { start := s.now, div := densityDiv (stopeDensity s st), stopped := held }, halted := held, holdSince := s.now, awakeAt := s.now }
    if held ∨ (physHolding s st).isNone then y else startOverman y s.now (runningMicro s))

/-- A level reset: stopes apart from their stores, tallies, marks, hoist, sieve with its side memory (R195, R361). The window
size comes from the configuration record (R215; DESIGN CHOICE, log 4; DEDUCED, log 42; DEDUCED, log 44). -/
def levelReset (s : State) (n : Nat) : State :=
  let s := (List.range 20).foldl (fun s i => stopeAfresh s (20 * n + i)) s
  let s := clearRange s (sieveAddr n 0) (2 ^ 22)
  let s := modLevel s n (fun l => { up := !levelHeld s n, assigned := l.assigned, monRetired := l.monRetired, hoist := { size := s.conf.winSize } })
  if (levelOf s n).up then recountHoist s n else s

/-! ### Stopping every stope (R296, R367) -/

/-- Every stope enters a hold that lasts until its level resets. -/
def haltStopes (s : State) : State :=
  (List.range 160).foldl (fun s st =>
    let s := markHold (settle s st) st
    modStope s st (fun x => { x with
      clk := { base := cnt x.clk s.now, start := s.now, div := x.clk.div, stopped := true }, halted := true, hold := [] })) s

/-! ### The monitors (R342) -/

/-- What a crew's open wait and hold at issue have lasted is counted, and they go on from here (R190, R342). -/
def markCrew (off : Bool) (now n : Nat) (c : Crew) : Crew :=
  { c with
    stallTally := (countWait off now c).stallTally, wait := c.wait.map (fun w => { w with since := now })
    stallTram := (countHeld off n c).stallTram, tramCounted := n }

/-- Every interval that a stope's monitor figures count is counted up to now (R341, R342). -/
def markStope (s : State) (st : Nat) : State :=
  let s := markHold (settle s st) st
  let off := monitorOff s (stopeLevel st)
  modStope s st (fun x => { x with
    agents := (List.range 16).foldl (fun t cr => tset t {} cr (markCrew off s.now (cnt x.clk s.now) (agentOf x cr))) x.agents
    sleepCyc := x.sleepCyc + (if x.gated ∧ off = false then s.now - x.gatedAt else 0), gatedAt := if x.gated then s.now else x.gatedAt
    trace := { x.trace with
      claimAt := x.trace.claimAt.map (fun _ => s.now)
      stallClaim := x.trace.stallClaim + (match x.trace.claimAt with | some a => if off then 0 else s.now - a | none => 0) } })

/-- Every monitor figure stands at its value of now (R342). -/
def markMonitors (s : State) : State := (List.range 8).foldl recountStalls ((List.range 160).foldl markStope s)

/-! ### Power states (R292, R334) -/

/-- The power state code of STATE_NOTE (R254, R335). -/
def powerCode (p : Power) : Nat := match p with | .idle => 1 | .doze => 2 | .vigil => 3 | _ => 0

/-- The device enters a power state; a change is noted (R334). -/
def setPower (s : State) (p : Power) : State :=
  if s.power = p then s else stateNote { s with power := p, powerNext := none } 1 (powerCode p) 0

end Sys2Proof.Machine
end

