-- ==== Sys2Proof/Machine/Commands.lean ====
section
/-! DEFINITION. Commands: descriptors (R323 to R328), admission (R286, R289, R329), dispatch (R202 to R205), the work of
RUN, LOAD_PROG and QUERY_INSTALL (R326, R327), and the end of a command (R187, R282, R331). -/

namespace Sys2Proof.Machine

def fcCmdDesc : Nat := 0x0501
def fcStopeAbsent : Nat := 0x0502
def fcQueryReserved : Nat := 0x0503
def fcRoundPast : Nat := 0x0504
def fcMarkFull : Nat := 0x0505
def fcUasGen : Nat := 0x0509
def fcFillTimeout : Nat := 0x050C

/-! ### Descriptors (R323, R324) -/

/-- Declared tallies of a descriptor, from byte `at'` on. -/
def tallyFields (bs : List Byte) (at' n : Nat) : List Nat := (List.range n).map (fun i => field bs (at' + 2 * i) 2)

/-- A declared tally out of its layout: a reserved bit, scope 3, or a number that the scope does not have (R168, R323;
DEDUCED, log 35). -/
def tallyBad (w : Nat) : Bool :=
  decide (w / 4096 ≠ 0 ∨ bits w 10 2 = 3 ∨ tallyCount (scopeOf (bits w 10 2)) ≤ bits w 0 10)

/-- A descriptor of 64 bytes (R323, R324). -/
def descOf (bs : List Byte) : Desc :=
  let f := field bs
  let three : Bool := decide (f 0 1 = 3)
  let ntal := bits (f 3 1) 0 3
  let ts := if three then tallyFields bs 0x34 (min ntal 6) else tallyFields bs 0x24 (min ntal 4)
  let both : Bool := decide (f 3 1 / 8 ≠ 0 ∨ f 0x0C 2 / 2 ^ 15 ≠ 0) || ts.any tallyBad
  { fmt := f 0 1, opcode := f 1 1, tag := f 4 4, wire := f 8 4, entry := f 0x0C 2 % 2 ^ 15, crews := f 0x0E 2, ntal := ntal
    fill := three && bit (f 2 1) 0, eclass := if three then bits (f 2 1) 1 4 else 15
    target := if three then f 0x10 20 % 2 ^ 160 else bits (f 0x10 3) 0 20 * 2 ^ (20 * bits (f 2 1) 0 3)
    arg := if three then f 0x24 8 else f 0x14 8, table := if three then f 0x2C 8 else f 0x1C 8
    tallies := ts.map (fun w => { sc := bits w 10 2, num := bits w 0 10 })
    bad :=
      if three then both || decide (f 2 1 / 32 ≠ 0 ∨ 6 < ntal)
      else both || decide (f 0 1 ≠ 2 ∨ f 2 1 / 8 ≠ 0 ∨ 4 < ntal ∨ f 0x10 3 / 2 ^ 20 ≠ 0 ∨ f 0x13 1 ≠ 0 ∨ field bs 0x2C 20 ≠ 0) ||
        !(decide (f 1 1 = 2) || (decide (f 1 1 = 1) && decide (f 0x1C 8 = 0))) }

/-- n bytes from pa lie in HBM data, in one view (R326, R328). -/
def inHbm (s : State) (pa n : Nat) : Bool :=
  match locate s pa, locate s (pa + n - 1) with
  | .hbm j _, .hbm k _ => decide (pa + n ≤ 2 ^ 40 ∧ j = k) || decide (2 ^ 40 ≤ pa)
  | _, _ => false

/-- Operands of LOAD_PROG and QUERY_INSTALL (R326). -/
def loadLen (d : Desc) : Nat := bits d.arg 0 19
def loadOff (d : Desc) : Nat := bits d.arg 19 19
def loadSwap (d : Desc) : Bool := bit d.arg 63
def loadBad (s : State) (d : Desc) : Bool :=
  decide (loadLen d < 8 ∨ 262144 < loadLen d ∨ loadLen d % 8 ≠ 0 ∨ loadOff d % 8 ≠ 0 ∨ 262144 < loadOff d + loadLen d ∨
    bits d.arg 38 25 ≠ 0 ∨ d.table / 2 ^ 48 ≠ 0) || !inHbm s d.table (loadLen d)

/-- An attachment: reduction table and entries, bulk table and entries (R328). -/
structure Attach where
  rtab : Nat := 0
  rn : Nat := 0
  btab : Nat := 0
  bn : Nat := 0
  deriving DecidableEq, Repr

/-- The attachment of a RUN, none when it breaks its layout or does not lie in HBM data (R328, R329; DEDUCED, log 35). -/
def attachOf (s : State) (d : Desc) : Option Attach :=
  if d.opcode ≠ 1 ∨ d.table = 0 then some {}
  else if d.table / 2 ^ 48 ≠ 0 ∨ d.table % 32 ≠ 0 ∨ inHbm s d.table 32 = false then none
  else
    let bs := readBytes s d.table 32
    let f := field bs
    let r := f 0 8
    let b := f 0x10 8
    let a : Attach := { rtab := r, rn := if r = 0 then 0 else f 8 2, btab := b, bn := if b = 0 then 0 else f 0x18 4 }
    if f 0x0A 6 ≠ 0 ∨ f 0x1C 4 ≠ 0 ∨ r / 2 ^ 48 ≠ 0 ∨ b / 2 ^ 48 ≠ 0 ∨ 256 < f 8 2 ∨ 65535 < f 0x18 4 ∨
      (a.rn ≠ 0 ∧ (r % 128 ≠ 0 ∨ inHbm s r (128 * a.rn) = false)) ∨ (a.bn ≠ 0 ∧ (b % 64 ≠ 0 ∨ inHbm s b (64 * a.bn) = false)) then none
    else some a

/-- CMD_DESC (R329; DEDUCED, log 35). -/
def descFault (s : State) (c : Cmd) : Bool :=
  let d := c.desc
  d.bad ||
  (match d.opcode with
    | 1 => decide (d.target = 0 ∨ (d.crews = 0 ∧ d.table = 0)) || (attachOf s d).isNone
    | 2 => decide (d.crews ≠ 0) || loadBad s d
    | 3 => decide (d.target ≠ 0 ∨ d.entry ≠ 0 ∨ d.crews ≠ 0 ∨ d.arg / 8 ≠ 0 ∨ d.table / 2 ^ 48 = 0) ||
        !inHbm s (d.table % 2 ^ 48) (64 * (d.table / 2 ^ 48))
    | 4 => decide (c.version ≠ 3) || !loadSwap d || loadBad s d || (targetsOf c).any (fun st => !isReserved s st)
    | _ => true)

/-! ### Bulk entries (R246) -/

/-- Bulk entry i of a table. -/
def bulkBytes (s : State) (a : Attach) (i : Nat) : List Byte := readBytes s (a.btab + 64 * i) 64

def bulkOf (bs : List Byte) : Bulk :=
  let f := field bs
  { put := decide (f 0 1 = 0), dst := f 2 2 % 4096, target := f 4 2, sub := decide (f 6 1 = 1), src := f 8 8, offset := f 0x10 8
    length := f 0x18 8, n := f 0x20 4, done := if bit (f 0x24 2) 15 then none else some (f 0x24 2 % 1024) }

/-- An entry that breaks the layout (R246). -/
def bulkBad (s : State) (bs : List Byte) : Bool :=
  let f := field bs
  let b := bulkOf bs
  decide (1 < f 0 1 ∨ f 1 1 ≠ 0 ∨ 4096 ≤ f 2 2 ∨ f 7 1 ≠ 0 ∨ bits (f 0x24 2) 10 5 ≠ 0 ∨ field bs 0x26 26 ≠ 0) ||
  (if b.put then
    decide (64 ≤ b.target ∨ b.offset % 64 ≠ 0 ∨ b.length % 64 ≠ 0 ∨ b.length < 64 ∨ 2 ^ 36 < b.length ∨ b.src / 2 ^ 48 ≠ 0) ||
      !inHbm s b.src b.length
  else decide (1024 ≤ b.target ∨ 1 < f 6 1))

/-- The refusal of a bulk entry (R246). -/
def bulkFault (s : State) (bs : List Byte) : Option Nat :=
  if bulkBad s bs then some fcHoistDesc
  else
    match routePort s (bulkOf bs).dst with
    | some p => if (bulkOf bs).put = false ∧ (portOf s p).gen = 1 then some fcUasGen else none
    | none => none

/-! ### Admission (R286, R289, R329) -/

/-- Entry i of a reduction table. -/
def reductionBytes (s : State) (a : Attach) (i : Nat) : List Byte := readBytes s (a.rtab + 128 * i) 128

def reductionsOf (s : State) (a : Attach) : List Entry := (List.range a.rn).map (fun i => entryOf (reductionBytes s a i))

/-- The deadlines of a list of entries for a command of round r: home level, round, phase, each once (R277). -/
def deadlinesOf (es : List Entry) (r : Nat) : List (Nat × Nat × Nat) :=
  ((es.filter (·.timed)).map (fun e => (e.home, r + e.dlRound, e.dlPhase))).eraseDups

/-- A mark of level n is armed for this deadline. -/
def hasDeadline (s : State) (d : Nat × Nat × Nat) : Bool :=
  (levelOf s d.1).marks.any (fun m => m.2.armed && decide (m.2.action = 3 ∧ m.2.round = d.2.1 ∧ m.2.phase = d.2.2))

/-- Marks of level n that are not armed (R299). -/
def marksFree (s : State) (n : Nat) : Nat := 64 - ((levelOf s n).marks.filter (fun m => m.2.armed)).length

/-- The lowest mark of level n that is not armed takes the deadline (R277). -/
def armDeadline (s : State) (d : Nat × Nat × Nat) : State :=
  if hasDeadline s d then s
  else
    match (List.range 64).find? (fun k => !(tget (levelOf s d.1).marks {} k).armed) with
    | some k => modLevel s d.1 (fun l => { l with marks := tset l.marks {} k (armNow s { round := d.2.1, phase := d.2.2, action := 3 }) })
    | none => s

/-- Two entries name one slot (DEDUCED, log 22). -/
def sameSlot (es : List Entry) : Bool := decide ((es.map (fun e => (e.home, e.slot))).eraseDups.length ≠ es.length)

/-- The first some of a list. -/
def firstSome : List (Option Nat) → Option Nat
  | [] => none
  | some x :: _ => some x
  | none :: xs => firstSome xs

/-- The ranges of HBM that the dispatcher reads to admit a command: the attachment, the tables that it names (R328). -/
def admitReads (s : State) (c : Cmd) : List (Nat × Nat) :=
  if c.desc.opcode ≠ 1 ∨ c.desc.table = 0 then []
  else
    let a := (attachOf s c.desc).getD {}
    [(c.desc.table, 32)] ++ (if a.rn = 0 then [] else [(a.rtab, 128 * a.rn)]) ++ (if a.bn = 0 then [] else [(a.btab, 64 * a.bn)])

/-- One of those reads met an uncorrectable or poisoned word, the read of the attachment with the outcome `ecc` (R346, R355). -/
def admitUncorr (s : State) (c : Cmd) (ecc : Ecc) : Bool :=
  ((List.range (admitReads s c).length).zip (admitReads s c)).any (fun e => (readFault s e.2.1 e.2.2 (if e.1 = 0 then ecc else .clean)).isSome)

/-- The refusal of an admitted command, none when it stands (R329; DEDUCED, log 35). -/
def refusalOf (s : State) (c : Cmd) : Option Nat :=
  if descFault s c then some fcCmdDesc
  else if (targetsOf c).any (stopeAbsent s) then some fcStopeAbsent
  else if c.desc.opcode ≠ 4 ∧ (targetsOf c).any (isReserved s) then some fcQueryReserved
  else if c.past ∨ c.round < s.rnd.round then some fcRoundPast
  else
    match attachOf s c.desc with
    | none => some fcCmdDesc
    | some a =>
      let es := reductionsOf s a
      match firstSome ((List.range a.rn).map (fun i => entryFault s (reductionBytes s a i))) with
      | some code => some code
      | none =>
        if sameSlot es then some fcHoistDesc
        else
          match firstSome ((List.range a.bn).map (fun i => bulkFault s (bulkBytes s a i))) with
          | some code => some code
          | none =>
            let ds := (deadlinesOf es c.round).filter (fun d => !hasDeadline s d)
            if (List.range 8).any (fun n => decide (marksFree s n < (ds.filter (fun d => decide (d.1 = n))).length)) then some fcMarkFull
            else none

/-- The dispatcher works: the device is in Full or Idle, neither quenched nor in safe halt, and neither a restore nor a takeover runs (R292, R296,
R364, R367, R386). -/
def dispatching (s : State) : Bool :=
  !tramsOff s && s.flt.takeover.isNone && decide (s.snap.op < 4) && s.ep.cmdReady && (match s.power with | .full => true | .idle => true | _ => false)

/-- No earlier command of the queue goes before it: the head of the main queue waits for its round, a fill command that is
held or not yet due does not block later ones (R202, R286, R329; DEDUCED, log 35). -/
def headOfQueue (s : State) (c : Cmd) : Bool :=
  !s.cmds.any (fun d => decide (d.state = .queued ∧ d.order < c.order) && decide (d.desc.fill = c.desc.fill) &&
    (!c.desc.fill || (roundDue s d && !d.heldEnergy)))

/-- Target sets meet. -/
def targetsMeet (c d : Cmd) : Bool := decide (c.desc.target &&& d.desc.target ≠ 0)

/-- A fill command is asked to yield: a preempt event at every stope of its target set (R203). -/
def preempt (s : State) (f : Cmd) : State :=
  let s := putCmd s { f with state := .preempting, awaitFree := targetsOf f, preemptAt := s.now }
  (targetsOf f).foldl (fun s st => raiseEvent (modStope s st (fun x => { x with ctxBytes := 0 })) st
    { cls := 7, tag := f.tag, epoch := f.epoch }) s

/-- A main command has become ready: running fill commands that share a stope with it yield (R203; DEDUCED, log 35). -/
def preemptFor (s : State) (c : Cmd) : State :=
  if c.desc.fill then s
  else (s.cmds.filter (fun f => f.desc.fill && decide (f.state = .running) && targetsMeet c f)).foldl preempt s

/-- The command is admitted: reductions loaded, deadlines armed, bulk entries taken, density 1 (R207, R277, R289; DEDUCED, log
35). -/
def admitCmd (s : State) (c : Cmd) : State :=
  let a := (attachOf s c.desc).getD {}
  let es := reductionsOf s a
  let c := { c with
    state := .admitted, heldEnergy := false, density := 0
    reductions := es.map (fun e => (e.home, e.slot)), bulk := (List.range a.bn).map (fun i => bulkOf (bulkBytes s a i)) }
  let s := (deadlinesOf es c.round).foldl armDeadline (putCmd s c)
  let s := es.foldl (fun s e => loadSlot s e c.tag c.round) s
  preemptFor s c

/-- The commit mark of a command's round has passed: it starts no more (R205, R286; DEDUCED, log 17). -/
def roundOver (s : State) (c : Cmd) : Bool :=
  c.past || decide (c.round < s.rnd.round) || (decide (c.round = s.rnd.round) && s.rnd.decided)

/-- A queued command is a candidate for admission (R285, R286, R289, R329). -/
def isCandidate (s : State) (c : Cmd) : Bool :=
  decide (c.state = .queued) && dispatching s && !s.rnd.backfill && roundDue s c && headOfQueue s c && !s.ebb

/-- A candidate is admitted, held, refused or, past its round's commit mark, dropped; one whose tables hold an uncorrectable word is refused
with MEM_UNCORR (R205, R289, R329, R346, R348; DEDUCED, log 35). -/
def admitOne (s : State) (c : Cmd) (ecc : Ecc) : State :=
  let s := setPower s .full
  if c.round = s.rnd.round ∧ c.past = false ∧ s.rnd.decided then finishCmd s c 2 0
  else
    let e : Rat := classE s c.desc.eclass
    let dear : Bool := ledgerOn s && decide (leftUnits s < e)
    if c.desc.fill ∧ (dear ∨ (ledgerOn s ∧ s.nrg.short)) then putCmd s { c with heldEnergy := true }
    else
      let s := if dear then { s with nrg := { s.nrg with short := true } } else s
      let s := match (admitReads s c).head? with | some r => readEcc s r.1 ecc | none => s
      if descFault s c = false ∧ admitUncorr s c ecc then
        finishCmd (logOpen s { code := fcMemUncorr, source := 4, tag := c.tag, epoch := c.epoch, action := 3 }) c 1 fcMemUncorr
      else
        match refusalOf s c with
        | some code => finishCmd s c 1 code
        | none => admitCmd s c

/-- COMMAND_ADMIT: the ledger's rule, then the refusals; a refused command is admitted in no part. A fill command held for energy is
tried again by LEDGER_TICK. The operand says what the read of the attachment met (R285, R286, R289, R329, R346). -/
def execCommandAdmit (tag : Fetch) (s : State) : Answer :=
  match cmdIn s tag.n (fun c => decide (c.state = .queued)) with
  | none => .next s
  | some c => if c.heldEnergy ∨ isCandidate s c = false then .next s else .next (admitOne s c tag.ecc)

/-- LEDGER_TICK: the tick, then the fill commands held for energy are tried again in the order of acceptance (R288 to R291). -/
def execLedgerTick (watts : Nat) (s : State) : Answer :=
  if aonOn s = false then .next s
  else
    let s := ledgerTick s watts
    .next ((s.cmds.filter (fun c => c.heldEnergy)).foldl (fun s c =>
      let c := sameCmd s c
      if c.heldEnergy ∧ isCandidate s c then admitOne s c .clean else s) s)

/-! ### Dispatch (R23, R200, R202, R203, R329) -/

/-- The dispatcher holds commands for a stope that is remapping or under test (R23, R359). -/
def stopeHeld (s : State) (st : Nat) : Bool :=
  match physHolding s st with
  | some p => (physOf s p).testing
  | none => true

/-- R200 keeps c behind the earlier command d. -/
def sieveBefore (c d : Cmd) : Bool :=
  unfinished d && decide (d.order < c.order ∧ d.desc.fill = c.desc.fill) &&
  (decide (c.desc.opcode = 3) || decide (d.desc.opcode = 3)) && (workLevels d).any (fun n => (workLevels c).contains n)

/-- A sieve command of either queue runs on the level of the sieve command c (R200). -/
def sieveRuns (c d : Cmd) : Bool :=
  decide (c.desc.opcode = 3 ∧ d.desc.opcode = 3 ∧ d.order ≠ c.order ∧ c.desc.arg % 8 = d.desc.arg % 8) && isRunning d

/-- The other command d keeps c from starting (R202, R203, R329; DEDUCED, log 35). -/
def standsInWay (c d : Cmd) : Bool :=
  decide (d.order ≠ c.order) && targetsMeet c d &&
  (isRunning d || (!d.desc.fill && isAdmitted d && (c.desc.fill || decide (d.order < c.order))))

/-- An admitted or preempted command could start but for the order of the fill queue (R23, R200, R202, R205, R329). -/
def couldStart (s : State) (c : Cmd) : Bool :=
  dispatching s && decide (c.state = .admitted ∨ c.state = .preempted) && !roundOver s c &&
  !(targetsOf c).any (stopeHeld s) && !s.cmds.any (standsInWay c) && !s.cmds.any (sieveBefore c) && !s.cmds.any (sieveRuns c)

/-- An admitted or preempted command may start: a fill command after the earlier ones that could (R202; DESIGN CHOICE, log 1; DEDUCED,
log 35). -/
def mayStart (s : State) (c : Cmd) : Bool :=
  couldStart s c && !(c.desc.fill && s.cmds.any (fun d => d.desc.fill && decide (d.order < c.order) && couldStart s d))

/-- A command of a round starts on a stope: the key is that round's low word, and at its first start every generator of every crew is
seeded from it (R82, R98). -/
def seedStope (s : State) (st round : Nat) (again : Bool) : State :=
  let s := modStope s st (fun x => { x with srKey := BitVec.ofNat 32 round })
  if again then s
  else (List.range 16).foldl (fun s cr => modCrew s st cr (fun k => { k with gens := seedGens st cr (round % 2 ^ 32) })) (settle s st)

/-- COMMAND_START: the declared tallies are recorded at the first dispatch, the overmen are told; a preempted fill command is
delivered again (R82, R131, R187, R202, R203, R331, R337; DEDUCED, log 35). -/
def execCommandStart (tag : Nat) (s : State) : Answer :=
  match cmdIn s tag (fun c => decide (c.state = .admitted ∨ c.state = .preempted)) with
  | none => .next s
  | some c =>
    if mayStart s c = false then .next s
    else
      let again := c.everStarted
      let c := { c with
        state := .running, weighedAt := s.now, everStarted := true, start := if again then c.start else s.now
        recorded := if again then c.recorded else (tallyKeys c).map (fun k => (k.1, k.2.1, k.2.2, (tallyOf s k.1 k.2.1 k.2.2).count)) }
      let s := applyDensity (putCmd s c)
      .next ((targetsOf c).foldl (fun s st =>
        let s := modCrew (seedStope s st c.round again) st 16 (fun o => { o with tag := c.tag, epoch := c.epoch, round := c.round })
        let s :=
          if again then traceRec s st 0x0004 c.tag c.epoch 0x40 (min (stopeOf s st).ctxBytes (2 ^ 32 - 1))
          else traceRec s st 0x0001 c.tag c.epoch 0x40 (c.desc.crews + b2n c.desc.fill * 2 ^ 16)
        raiseEvent s st { cls := 4, tag := c.tag, epoch := c.epoch }) s)

/-- STOPE_FREE_REPORT: an overman reports its stope free; with the last one the fill command is preempted (R203). -/
def execStopeFreeReport (st : Nat) (s : State) : Answer :=
  match s.cmds.find? (fun c => decide (c.state = .preempting) && c.awaitFree.contains st) with
  | none => .next s
  | some c =>
    let left := c.awaitFree.erase st
    let s := traceRec s st 0x0003 c.tag c.epoch 0x40 (min (stopeOf s st).ctxBytes (2 ^ 32 - 1))
    let s := putCmd s { c with
      awaitFree := left, state := if left = [] then .preempted else .preempting, preempts := if left = [] then c.preempts + 1 else c.preempts }
    .next (if left = [] then (targetsOf c).foldl tuneStope s else s)

/-- FILL_TIMEOUT: 1 ms after the preempt event the stopes of a fill command that has not yielded are reset and it ends, its tallies
compared (R187, R204). -/
def execFillTimeout (tag : Nat) (s : State) : Answer :=
  match cmdIn s tag (fun c => decide (c.state = .preempting)) with
  | none => .next s
  | some c =>
    let s := advance s (c.preemptAt + 1000000)
    let s := reportTallies ((targetsOf c).foldl (fun s st => stopeReset (endWork s c st) st) s) c
    .next (finishCmd s (sameCmd s c) 5 fcFillTimeout)

/-! ### RUN (R327) -/

/-- The microcode starts crew cr of a stope for a command at its entry word with S1 to S4 set; a crew neither idle nor
stopped is left as it is (R128, R327). -/
def launchCrew (c : Cmd) (st : Nat) (s : State) (cr : Nat) : State :=
  let k := crewOf s st cr
  match shownState k s.now with
  | .idle | .stopped =>
    let s := startCrew s st cr c.desc.entry s.now
    modCrew s st cr (fun k =>
      let k := putReg k 0 (.s 1) c.desc.arg (ones 64)
      let k := putReg k 0 (.s 2) st (ones 64)
      let k := putReg k 0 (.s 3) cr (ones 64)
      let k := putReg k 0 (.s 4) c.round (ones 64)
      { k with tag := c.tag, epoch := c.epoch, round := c.round })
  | _ => s

/-- The crews of CREWS start on one stope. -/
def launchOn (c : Cmd) (s : State) (st : Nat) : State :=
  ((List.range 16).filter (fun cr => bit c.desc.crews cr)).foldl (launchCrew c st) (settle s st)

/-- RUN (R326, R327). -/
def execRun (tag : Nat) (s : State) : Answer :=
  match cmdIn s tag (fun c => decide (c.state = .running ∧ c.desc.opcode = 1) && !c.launched) with
  | none => .next s
  | some c => .next ((targetsOf c).foldl (launchOn c) (putCmd s { c with launched := true }))

/-! ### LOAD_PROG and QUERY_INSTALL (R158, R326) -/

/-- The copy of a command's image into the inactive bank of a stope, as the bank stands now: one row, from and to physical addresses (R158,
R326, R328; DEDUCED, log 14). -/
def imageCopy (s : State) (c : Cmd) (st : Nat) : Xfer :=
  let d := c.desc
  { id := 0, crew := 0, tile := 0, va := 0, q := 0, tag := c.tag, epoch := c.epoch, round := c.round, rows := 0, len := 0, fmt := 0
    phys := true, swapAfter := loadSwap d
    kind := .tram { kind := 0, srcTiled := false, dstTiled := false, esize := 0, srcTPitch := 0, dstTPitch := 0
                    srcVa := d.table, dstVa := progAddr st ((1 - (stopeOf s st).bank) * 2 ^ 18 + loadOff d)
                    rowBytes := loadLen d, rows := 1, srcPitch := 0, dstPitch := 0, srcShape := 0, dstShape := 0, reservedSet := false } }

/-- The copy takes a place in the stope's tram; a stope whose tram has none is left for later (R152, R328). -/
def queueCopy (c : Cmd) (r : State × List Nat) (st : Nat) : State × List Nat :=
  let s := settle r.1 st
  let x := stopeOf s st
  if 64 ≤ x.queue.length ∨ 16 ≤ tramShare x then (s, r.2 ++ [st])
  else (putStope s st (enqueue x (imageCopy s c st)), r.2)

/-- The copies that a command has still to queue, and the command after them. -/
def queueCopies (s : State) (c : Cmd) : State × Cmd :=
  let sts := if c.launched then c.awaitQueue else targetsOf c
  let r := sts.foldl (queueCopy c) (s, [])
  (r.1, { c with launched := true, awaitQueue := r.2, awaitCopy := if c.launched then c.awaitCopy else sts })

/-- LOAD_PROG: the trams of the target stopes copy the image (R326, R328; DEDUCED, log 35). -/
def execLoadProg (tag : Nat) (s : State) : Answer :=
  match cmdIn s tag (fun c => decide (c.state = .running ∧ c.desc.opcode = 2) && (!c.launched || decide (c.awaitQueue ≠ []))) with
  | none => .next s
  | some c =>
    let r := queueCopies s c
    .next (putCmd r.1 r.2)

/-- A stope of a QUERY_INSTALL whose swap can take place or has taken place: its crews start and it serves queries (R265, R326). -/
def installStope (s : State) (c : Cmd) (st : Nat) : State × Bool :=
  let s := settle s st
  let x := stopeOf s st
  if x.swapPending ∧ ¬ (swapReady x s.now ∧ inactiveWrite s st = false) then (s, false)
  else
    let s := if x.swapPending then doSwap s st else s
    let s := launchOn c s st
    (match reservedIndex s st with
      | some i => { s with qheld := tset s.qheld false i false }
      | none => s, true)

/-- QUERY_INSTALL: the trams copy the image and ask for its swap; each stope that has swapped starts its crews; while a
stope still waits for its copy or its swap the command goes on (R265, R326, R327, R328; DEDUCED, log 35). -/
def execQueryInstall (tag : Nat) (s : State) : Answer :=
  match cmdIn s tag (fun c => decide (c.state = .running ∧ c.desc.opcode = 4)) with
  | none => .next s
  | some c =>
    let r := queueCopies s c
    let t := c.awaitLoad.foldl (fun (q : State × List Nat) st =>
      let u := installStope q.1 c st
      (u.1, if u.2 then q.2 else q.2 ++ [st])) (r.1, [])
    .next (putCmd t.1 { r.2 with awaitLoad := t.2 })

/-! ### The end of a command (R187, R282, R326, R331, R332) -/

/-- A crew of the command that has faulted: stope and crew. -/
def faultedCrew (s : State) (c : Cmd) : Option (Nat × Nat) :=
  ((targetsOf c).flatMap (fun st => (List.range 16).map (fun cr => (st, cr)))).find? (fun k =>
    let x := crewOf s k.1 k.2
    worksFor c x && decide (x.state = .faulted))

/-- Every crew of the command is idle again and nothing of it is left in trams, hoists and signals (R187, R282). -/
def workDone (s : State) (c : Cmd) : Bool :=
  (targetsOf c).all (fun st =>
    let x := stopeOf s st
    (List.range 16).all (fun cr => !(worksFor c (agentOf x cr)) || decide ((agentOf x cr).state = .idle)) &&
    !x.queue.any (fun f => decide (f.tag = c.tag)) &&
    !x.heldSlots.any (fun e => match e.2 with | some f => decide (f.tag = c.tag) | none => false) &&
    !x.agents.any (fun e => e.2.tiles.any (fun t => match t.2.held with | some h => decide (h.tag = c.tag) | none => false)) &&
    !x.hoists.any (fun h => decide (h.tag = c.tag)) &&
    !s.signals.any (fun g => decide (g.st = st ∧ g.tag = c.tag)))

/-- The command's own work is done (R282, R326). -/
def isDone (s : State) (c : Cmd) : Bool :=
  c.launched &&
  (match c.desc.opcode with
    | 1 => workDone s c && decide (c.reductions = []) && c.bulk.all (fun b => decide (2 ≤ b.state))
    | 2 => decide (c.awaitQueue = [] ∧ c.awaitCopy = []) && c.awaitLoad.all (fun st => !(stopeOf s st).swapPending)
    | 3 => !(levelOf s (c.desc.arg % 8)).sieve.busy || decide ((levelOf s (c.desc.arg % 8)).sieve.tag ≠ c.tag)
    | _ => decide (c.awaitQueue = [] ∧ c.awaitCopy = [] ∧ c.awaitLoad = []))

/-- COMMAND_FINISH: a faulted crew ends the command with CREW_END, a word that stayed uncorrectable with its code; a command whose work is done has its tallies compared and
posts COMPLETION (R133, R187, R282, R331, R332, R347; DEDUCED, log 35). -/
def execCommandFinish (tag : Nat) (s : State) : Answer :=
  match cmdIn s tag (fun c => decide (c.state = .running)) with
  | none => .next s
  | some c =>
    match faultedCrew s c with
    | some k =>
      let x := crewOf s k.1 k.2
      let s := addReport s c.tag 5 (k.1 + k.2 * 2 ^ 8 + x.faultPc % 4096 * 2 ^ 12)
      match cmdIn s tag (fun c => decide (c.state = .running)) with
      | some c => .next (endCommand s c x.faultCode false)
      | none => .next s
    | none =>
      if c.endCode = fcMemUncorr then .next (failUncorr s c)
      else if c.endCode ≠ 0 then .next (endCommand s c c.endCode false)
      else if isDone s c = false then .next s
      else
        let s := reportTallies s c
        match cmdIn s tag (fun c => decide (c.state = .running)) with
        | some c => .next (finishCmd s c 0 0)
        | none => .next s

end Sys2Proof.Machine
end

