-- ==== Sys2Proof/Machine/Sha3.lean ====
section
/-! DEFINITION. SHAKE256 (FIPS 202), the digest of segments, manifests, images, records and keys (R376, R384, R388, R391,
R395). -/

namespace Sys2Proof.Machine

/-- Lane rotation on 64 bits. -/
def rotl64 (x n : Nat) : Nat := if n % 64 = 0 then x % 2 ^ 64 else (x <<< (n % 64)) % 2 ^ 64 ||| (x % 2 ^ 64) >>> (64 - n % 64)

/-- Lane i of a state of 25 lanes. -/
def lane (a : List Nat) (i : Nat) : Nat := (a[i]?).getD 0

/-- The round constants of Keccak-f[1600]. -/
def keccakRc : List Nat :=
  [0x0000000000000001, 0x0000000000008082, 0x800000000000808A, 0x8000000080008000, 0x000000000000808B, 0x0000000080000001,
   0x8000000080008081, 0x8000000000008009, 0x000000000000008A, 0x0000000000000088, 0x0000000080008009, 0x000000008000000A] ++
  [0x000000008000808B, 0x800000000000008B, 0x8000000000008089, 0x8000000000008003, 0x8000000000008002, 0x8000000000000080,
   0x000000000000800A, 0x800000008000000A, 0x8000000080008081, 0x8000000000008080, 0x0000000080000001, 0x8000000080008008]

/-- The rotation offset of lane x + 5y. -/
def keccakRot : List Nat := [0, 1, 62, 28, 27, 36, 44, 6, 55, 20, 3, 10, 43, 25, 39, 41, 45, 15, 21, 8, 18, 2, 61, 56, 14]

/-- One round: theta, rho and pi, chi, iota. -/
def keccakRound (a : List Nat) (rc : Nat) : List Nat :=
  let c := (List.range 5).map (fun x => (List.range 5).foldl (fun v y => v ^^^ lane a (x + 5 * y)) 0)
  let d := (List.range 5).map (fun x => lane c ((x + 4) % 5) ^^^ rotl64 (lane c ((x + 1) % 5)) 1)
  let a := (List.range 25).map (fun i => lane a i ^^^ lane d (i % 5))
  -- lane (x, y) of b comes from lane (x + 3y, x) of a
  let b := (List.range 25).map (fun i =>
    let j := (i % 5 + 3 * (i / 5)) % 5 + 5 * (i % 5)
    rotl64 (lane a j) (lane keccakRot j))
  let e := (List.range 25).map (fun i =>
    let y := 5 * (i / 5)
    lane b i ^^^ ((2 ^ 64 - 1 - lane b ((i + 1) % 5 + y)) &&& lane b ((i + 2) % 5 + y)))
  match e with
  | [] => []
  | h :: t => (h ^^^ rc) :: t

def keccakF (a : List Nat) : List Nat := keccakRc.foldl keccakRound a

/-- The state after a block of 136 bytes. -/
def absorb (a : List Nat) (block : List Byte) : List Nat :=
  keccakF ((List.range 25).map (fun i => lane a i ^^^ (if i < 17 then field block (8 * i) 8 else 0)))

/-- The padded message: the bits 1111 of SHAKE, then the padding rule 10*1. -/
def shakePad (bs : List Byte) : List Byte :=
  let n := 136 - bs.length % 136
  if n = 1 then bs ++ [0x9F] else bs ++ [0x1F] ++ List.replicate (n - 2) (0 : Byte) ++ [0x80]

/-- The blocks of a padded message, `n` of them. -/
def blocksOf (bs : List Byte) : Nat → List (List Byte)
  | 0 => []
  | n + 1 => bs.take 136 :: blocksOf (bs.drop 136) n

/-- SHAKE256 with an output of at most 136 bytes. -/
def shake256 (bs : List Byte) (out : Nat) : List Byte :=
  let m := shakePad bs
  let a := (blocksOf m (m.length / 136)).foldl absorb (List.replicate 25 0)
  (a.take 17).flatMap (toBytes 8) |>.take out

/-- The 32-byte digest. -/
def digest (bs : List Byte) : List Byte := shake256 bs 32

end Sys2Proof.Machine
end

