-- ==== Sys2Proof/Machine/Sieve.lean ====
section
/-! DEFINITION. The sieve of a level: reference normalisation and soft-maximum rows, written out and compared (R193 to
R201). -/

namespace Sys2Proof.Machine

def fcSieveDesc : Nat := 0x050A

/-! ### Jobs (R196, R197) -/

/-- A sieve job, fields as read (R196). -/
structure Job where
  func : Nat
  cmp : Bool
  half : Bool
  noOut : Bool
  len : Nat
  rows : Nat
  x : Nat
  dy : Nat
  g : Nat
  o : Nat
  c : Nat
  stat : Nat
  eps : Word32
  pitch : Nat
  deriving DecidableEq, Repr

/-- A job of 64 bytes (R196). -/
def jobOf (bs : List Byte) : Job :=
  let f := field bs
  { func := f 0 1 % 16, cmp := bit (f 0 1) 4, half := bit (f 0 1) 5, noOut := bit (f 0 1) 6, len := f 2 2, rows := f 4 4
    x := f 8 8, dy := f 0x10 8, g := f 0x18 8, o := f 0x20 8, c := f 0x28 8, stat := f 0x30 4
    eps := BitVec.ofNat 32 (f 0x34 4), pitch := f 0x38 4 }

/-- The function reads dy (R193). -/
def backward (func : Nat) : Bool := decide (func = 1 ∨ func = 3 ∨ func = 5)

/-- The function reads gamma. -/
def weighted (func : Nat) : Bool := decide (func < 4)

/-- Passes over a row (table "Sieve functions"). -/
def sievePasses (func : Nat) : Nat := if func = 2 ∨ func = 3 ∨ func = 5 then 2 else 3

/-- Bytes of a row of x or dy, and of a row of the output. -/
def inBytes (j : Job) : Nat := j.len * (if j.half then 2 else 4)
def outBytes (j : Job) : Nat := j.len * 4

/-- Two arrays of the job's rows and pitch meet: n bytes a row from a, m bytes a row from b. -/
def rowsMeet (j : Job) (a n b m : Nat) : Bool :=
  let d : Int := (b : Int) - (a : Int)
  let q : Int := -d / (j.pitch : Int)
  [q - 1, q, q + 1].any (fun k => decide (k.natAbs < j.rows ∧ d + k * (j.pitch : Int) < (n : Int) ∧ -(m : Int) < d + k * (j.pitch : Int)))

/-- The n bytes from p meet one of the job's rows of m bytes from b. -/
def pieceMeets (j : Job) (p n b m : Nat) : Bool :=
  [(p - b) / j.pitch, (p + n - b) / j.pitch].any (fun k => decide (k < j.rows ∧ p < b + k * j.pitch + m ∧ b + k * j.pitch < p + n))

/-- The address at which the other HBM view shows a byte (R28). -/
def otherView (s : State) (a : Nat) : Option Nat :=
  match locate s a with
  | .hbm k o => some (if a < 2 ^ 40 then stripedAddr k o else hbmAddr k o)
  | _ => none

/-- The job's rows of n bytes from a meet those of m bytes from b as the other HBM view shows them, granule by granule (R28). -/
def viewsMeet (s : State) (j : Job) (a n b m : Nat) : Bool :=
  (List.range j.rows).any (fun r =>
    let p := a + r * j.pitch
    (List.range ((p % 4096 + n + 4095) / 4096)).any (fun i =>
      let lo := max p ((p / 4096 + i) * 4096)
      let hi := min (p + n) ((p / 4096 + i + 1) * 4096)
      match otherView s lo with
      | some q => pieceMeets j q (hi - lo) b m
      | none => false))

/-- Two arrays of the job share a byte, in either view (R197; DEDUCED, log 23). -/
def arraysMeet (s : State) (j : Job) (a n b m : Nat) : Bool :=
  if a < 2 ^ 41 ∧ b < 2 ^ 41 ∧ a / 2 ^ 40 ≠ b / 2 ^ 40 then viewsMeet s j a n b m else rowsMeet j a n b m

/-- SIEVE_DESC (R197). A field that the job does not use is not looked at, but for DY_PA, which must be 0, and for C_PA, which the
output must not overlap (DEDUCED, log 23). -/
def jobBad (s : State) (bs : List Byte) : Bool :=
  let j := jobOf bs
  let f := field bs
  decide (5 < j.func ∨ bit (f 0 1) 7 = true ∨ f 1 1 ≠ 0 ∨ j.x / 2 ^ 48 ≠ 0 ∨ j.dy / 2 ^ 48 ≠ 0 ∨ bits j.g 48 15 ≠ 0 ∨ f 0x3C 4 ≠ 0) ||
  decide (j.len % 16 ≠ 0 ∨ j.len < 16 ∨ 16384 < j.len ∨ j.rows < 1 ∨ 262144 < j.rows) ||
  decide (j.pitch % 64 ≠ 0 ∨ j.pitch < outBytes j ∨ 262144 < j.stat + j.rows) ||
  (!backward j.func && decide (j.dy ≠ 0)) || (!j.noOut && decide (j.o / 2 ^ 48 ≠ 0)) || (j.cmp && decide (j.c / 2 ^ 48 ≠ 0)) ||
  (!j.cmp && !j.noOut && (arraysMeet s j j.x (inBytes j) j.o (outBytes j) || arraysMeet s j (bits j.c 0 48) (outBytes j) j.o (outBytes j) ||
    (backward j.func && arraysMeet s j j.dy (inBytes j) j.o (outBytes j))))

/-! ### The reference definitions (R193) -/

/-- What a row gives: its output and the statistics that a forward function writes, by byte offset in the row of the side
memory (R195). -/
structure RowOut where
  out : List Word32
  stats : List (Nat × Word32)
  deriving DecidableEq, Repr

/-- The constants 1.0, +0.0 and log2 of e in FP32. -/
def one32 : Word32 := 0x3F800000
def zero32 : Word32 := 0
def l2e32 : Word32 := 0x3FB8AA3B

/-- RCP of the row length. -/
def rcpLen (n : Nat) : Word32 := rcp32 (to32 (.fin false n 0))

def lnForward (xs gamma beta : List Word32) (eps : Word32) : RowOut :=
  let rn := rcpLen xs.length
  let mean := mul32 (xsum32 xs) rn
  let d := xs.map (fun x => sub32 x mean)
  let var := mul32 (xsum32 (d.map (fun d => mul32 d d))) rn
  let rinv := rsq32 (add32 var eps)
  { out := (d.zip (gamma.zip beta)).map (fun e => fma32 (mul32 e.1 rinv) e.2.1 e.2.2), stats := [(0, mean), (4, rinv)] }

def lnBackward (xs dys gamma : List Word32) (mean rinv : Word32) : RowOut :=
  let rn := rcpLen xs.length
  let h := xs.map (fun x => mul32 (sub32 x mean) rinv)
  let g := (dys.zip gamma).map (fun e => mul32 e.1 e.2)
  let a := mul32 (xsum32 g) rn
  let b := mul32 (xsum32 ((g.zip h).map (fun e => mul32 e.1 e.2))) rn
  { out := (g.zip h).map (fun e => mul32 rinv (fma32 (neg32 e.2) b (sub32 e.1 a))), stats := [] }

def rmsForward (xs gamma : List Word32) (eps : Word32) : RowOut :=
  let var := mul32 (xsum32 (xs.map (fun x => mul32 x x))) (rcpLen xs.length)
  let rinv := rsq32 (add32 var eps)
  { out := (xs.zip gamma).map (fun e => mul32 (mul32 e.1 rinv) e.2), stats := [(4, rinv)] }

def rmsBackward (xs dys gamma : List Word32) (rinv : Word32) : RowOut :=
  let h := xs.map (fun x => mul32 (sub32 x zero32) rinv)
  let g := (dys.zip gamma).map (fun e => mul32 e.1 e.2)
  let b := mul32 (xsum32 ((g.zip h).map (fun e => mul32 e.1 e.2))) (rcpLen xs.length)
  { out := (g.zip h).map (fun e => mul32 rinv (fma32 (neg32 e.2) b (sub32 e.1 zero32))), stats := [] }

/-- EXP2(fp(fp(x - m) × L2E)) (DEDUCED, log 23). -/
def softExp (m x : Word32) : Word32 := exp2At (mul32 (sub32 x m) l2e32)

def smForward (xs : List Word32) : RowOut :=
  let m := to32 ((xs.map of32).foldl fpMax (.inf true))
  let e := xs.map (softExp m)
  let s := xsum32 e
  { out := e.map (fun e => mul32 e (rcp32 s)), stats := [(8, m), (12, s)] }

def smBackward (xs dys : List Word32) (m s : Word32) : RowOut :=
  let y := xs.map (fun x => mul32 (softExp m x) (rcp32 s))
  let c := xsum32 ((y.zip dys).map (fun e => mul32 e.1 e.2))
  { out := (y.zip dys).map (fun e => mul32 e.1 (sub32 e.2 c)), stats := [] }

/-! ### A row (R198, R199) -/

/-- A range of a row lies in HBM data or the stope stores (R197). -/
def sieveMay (s : State) (pa n : Nat) : Bool := wholly (mayWrite s) pa n

/-- n FP32 elements from pa, or n BF16 elements widened. -/
def elemsAt (s : State) (pa n : Nat) (half : Bool) : List Word32 :=
  (List.range n).map (fun i => if half then BitVec.ofNat 32 (readNat s (pa + 2 * i) 2 * 2 ^ 16) else BitVec.ofNat 32 (readNat s (pa + 4 * i) 4))

/-- The ranges that row r reads: address and length. -/
def rowReads (j : Job) (r : Nat) : List (Nat × Nat) :=
  [(j.x + r * j.pitch, inBytes j)] ++ (if backward j.func then [(j.dy + r * j.pitch, inBytes j)] else []) ++
  (if weighted j.func ∧ bit j.g 63 = false then [(bits j.g 0 48, outBytes j * (if j.func = 0 then 2 else 1))] else []) ++
  (if j.cmp then [(j.c + r * j.pitch, outBytes j)] else [])

/-- A field of row r's statistics (R195). -/
def statOf (s : State) (n : Nat) (j : Job) (r off : Nat) : Word32 := BitVec.ofNat 32 (readNat s (sieveAddr n (16 * (j.stat + r) + off)) 4)

/-- The stope stores that a row reads land what is due (R115). -/
def settleReads (s : State) (reads : List (Nat × Nat)) : State :=
  reads.foldl (fun s p => match locateStope s p.1 with | some st => settle s st | none => s) s

/-- Row r is fetched (R198). -/
def fetchRow (s : State) (j : Job) (r : Nat) : Fetched :=
  let none' := bit j.g 63
  { x := elemsAt s (j.x + r * j.pitch) j.len j.half
    dy := if backward j.func then elemsAt s (j.dy + r * j.pitch) j.len j.half else []
    gamma := if none' then List.replicate j.len one32 else elemsAt s (bits j.g 0 48) j.len false
    beta := if none' then List.replicate j.len zero32 else elemsAt s (bits j.g 0 48 + outBytes j) j.len false
    ref := if j.cmp then elemsAt s (j.c + r * j.pitch) j.len false else [] }

/-- Row r of a job by its definition, from what was fetched (R193). -/
def computeRow (s : State) (n : Nat) (j : Job) (r : Nat) (v : Fetched) : RowOut :=
  match j.func with
  | 0 => lnForward v.x v.gamma v.beta j.eps
  | 1 => lnBackward v.x v.dy v.gamma (statOf s n j r 0) (statOf s n j r 4)
  | 2 => rmsForward v.x v.gamma j.eps
  | 3 => rmsBackward v.x v.dy v.gamma (statOf s n j r 4)
  | 4 => smForward v.x
  | _ => smBackward v.x v.dy (statOf s n j r 8) (statOf s n j r 12)

/-- The 4 KiB granules that a row of output touches, by their first address. -/
def outGranules (pa n : Nat) : List Nat := (List.range ((pa % 4096 + n + 4095) / 4096)).map (fun i => pa / 4096 * 4096 + 4096 * i)

/-- The row's output is written; the entry of a granule that the command meets for the first time goes to PRESENT = 0 before
(R198, R280; DEDUCED, log 23). -/
def writeRow (s : State) (n tag rnd pa : Nat) (bs : List Byte) : State :=
  let r := (outGranules pa bs.length).foldl (fun (r : State × List (Nat × Nat)) g =>
    if (levelOf r.1 n).sieve.cleared.contains g then r
    else
      let w := physAbsent r.1 .sieve rnd g
      (modLevel w.1 n (fun l => { l with sieve := { l.sieve with cleared := g :: l.sieve.cleared } }), r.2 ++ w.2)) (s, [])
  let w := physWrite r.1 .sieve rnd pa bs
  reportGob w.1 tag ((r.2 ++ w.2).eraseDups)

/-- The elements whose bits differ, in order (R199; DEDUCED, log 23). -/
def differing (out ref : List Word32) : List Nat :=
  ((List.range out.length).zip (out.zip ref)).filterMap (fun e => if e.2.1 = e.2.2 then none else some e.1)

/-- The comparison of a row is counted (R199). -/
def countDiff (s : State) (n r : Nat) (ds : List Nat) : State :=
  match ds with
  | [] => s
  | e :: _ => modLevel s n (fun l =>
      let v := l.sieve
      { l with sieve := { v with
          diff := satAdd 32 v.diff ds.length, cmdDiff := v.cmdDiff + ds.length, first := some (v.first.getD (r, e, v.job)) } })

/-! ### The command (R197 to R200) -/

/-- The sieve's command ends with a fault (R197, R346). -/
def sieveFail (s : State) (n code : Nat) : State :=
  let t := (levelOf s n).sieve.tag
  let s := if faultClass code = 1 then logOpen s { code := code, source := 7, unit := n, tag := t, action := 3 } else s
  match cmdIn s t isRunning with
  | some c => endCommand s c code false
  | none => endSieve s t

/-- The bytes of the current job. -/
def jobBytes (s : State) (n : Nat) : List Byte := let v := (levelOf s n).sieve; readBytes s (v.list + 64 * v.job) 64

/-- The current job is read and checked before any of its rows, then its first row is fetched. `ecc`: what its read met (R197, R198, R346).
-/
def openJob (s : State) (n : Nat) (ecc : Ecc) : State :=
  let v := (levelOf s n).sieve
  let bs := jobBytes s n
  let s := readEcc s (v.list + 64 * v.job) ecc
  if (readFault s (v.list + 64 * v.job) 64 ecc).isSome then sieveFail s n fcMemUncorr
  else if jobBad s bs then sieveFail s n fcSieveDesc
  else
    let j := jobOf bs
    let s := settleReads s (rowReads j 0)
    modLevel s n (fun l => { l with sieve := { l.sieve with func := j.func, jobRec := bs, row := 0, ahead := some (fetchRow s j 0) } })

/-- SIEVE: the job list begins on the level's sieve (R197, R200, R201). -/
def execSieve (tag : Fetch) (s : State) : Answer :=
  match cmdIn s tag.n (fun c => decide (c.state = .running ∧ c.desc.opcode = 3) && !c.launched) with
  | none => .next s
  | some c =>
    let n := c.desc.arg % 8
    if tramsOff s ∨ s.flt.takeover.isSome ∨ (levelOf s n).sieve.busy then .next s
    else
      let s := putCmd s { c with launched := true }
      let s := modLevel s n (fun l => { l with sieve := { l.sieve with
        busy := true, tag := tag.n, list := c.desc.table % 2 ^ 48, jobs := c.desc.table / 2 ^ 48, job := 0, row := 0
        cleared := [], cmdDiff := 0, first := none, rowAt := s.now } })
      .next (openJob s n tag.ecc)

/-- The next row, the next job or the end of the list (R198, R199). -/
def nextRow (s : State) (n : Nat) (j : Job) (ecc : Ecc) : State :=
  let s := modLevel s n (fun l => { l with sieve := { l.sieve with rows := l.sieve.rows + 1, row := l.sieve.row + 1 } })
  let v := (levelOf s n).sieve
  if v.row < j.rows then s
  else if v.job + 1 < v.jobs then openJob (modLevel s n (fun l => { l with sieve := { l.sieve with job := v.job + 1 } })) n ecc
  else endSieve s v.tag

/-- The computation of one row, its fetch having arrived; the next row is fetched before this one's output lands (R193 to R199;
DEDUCED, log 23). -/
def runRow (s : State) (n : Nat) (j : Job) (rnd : Nat) (ecc : Ecc) : State :=
  let v := (levelOf s n).sieve
  let r := v.row
  let reads := rowReads j r
  let o := j.o + r * j.pitch
  if reads.any (fun p => !sieveMay s p.1 p.2) then sieveFail s n fcAddrHole
  else if j.noOut = false ∧ refusedWrite s .sieve o (outBytes j) then sieveFail s n fcAddrHole
  else
    let s := readEcc s (j.x + r * j.pitch) ecc
    let more : Bool := decide (r + 1 < j.rows)
    let s := if more then settleReads s (rowReads j (r + 1)) else s
    match reads.findSome? (fun p => readFault s p.1 p.2 ecc) with
    | some code => sieveFail s n code
    | none =>
      let f := v.ahead.getD (fetchRow s j r)
      let next := if more then some (fetchRow s j (r + 1)) else none
      let y := computeRow s n j r f
      let ref := if j.cmp then f.ref else y.out
      let s := modLevel s n (fun l => { l with sieve := { l.sieve with ahead := next } })
      let s := y.stats.foldl (fun s e => writeCells s (cellsAt (sieveAddr n (16 * (j.stat + r) + e.1)) (toBytes 4 e.2.toNat))) s
      let s := countDiff s n r (differing y.out ref)
      let s := if j.noOut then s else writeRow s n v.tag rnd o (y.out.flatMap (fun w => toBytes 4 w.toNat))
      nextRow s n j ecc

/-- SIEVE_ROW: one row after passes × ⌈N / 64⌉ + 24 cycles of computation, or later when its fetch was late (R197 to R199,
R428; DEDUCED, log 23). -/
def execSieveRow (n : Nat) (ecc : Ecc) (s : State) : Answer :=
  let v := (levelOf s n).sieve
  match cmdIn s v.tag isRunning with
  | none => .next s
  | some c =>
    if v.busy = false ∨ tramsOff s then .next s
    else
      let j := jobOf v.jobRec
      let s := advance s (v.rowAt + sievePasses j.func * ((j.len + 63) / 64) + 24)
      let s := modLevel s n (fun l => { l with sieve := { l.sieve with rowAt := s.now } })
      .next (runRow s n j c.round ecc)

end Sys2Proof.Machine
end

