-- ==== Sys2Proof/Machine/Manifest.lean ====
section
/-! DEFINITION. The manifest of a snapshot slot: the fields of its header and its entries, and when the foreman finds it valid (R384,
R385). -/

namespace Sys2Proof.Machine

/-- A byte list cut or padded with zeros to n bytes. -/
def fixedBytes (n : Nat) (bs : List Byte) : List Byte := bs.take n ++ List.replicate (n - bs.length) (0 : Byte)

/-- n bytes of a list from an offset on, zeros past its end. -/
def bytesAt (bs : List Byte) (at' n : Nat) : List Byte := fixedBytes n (bs.drop at')

/-! ### The header (R384) -/

/-- Bytes of a header up to the end of SIG; the 4 KiB that R380 speaks of do not hold them (DESIGN CHOICE, log 51). -/
def headerLen : Nat := 0x158D

/-- Logical blocks of 4,096 bytes that n bytes take. -/
def blocksFor (n : Nat) : Nat := (n + 4095) / 4096

def slotUnsigned (x : Slot) : Bool := bit (field x.header 6 1) 0
def slotSeq (x : Slot) : Nat := field x.header 8 8
def slotRound (x : Slot) : Nat := field x.header 0x10 6
def slotRegCount (x : Slot) : Nat := field x.header 0x16 2
def slotTenCount (x : Slot) : Nat := field x.header 0x28 4
def slotSegCount (x : Slot) : Nat := field x.header 0x2C 4
def slotBodyLen (x : Slot) : Nat := field x.header 0x30 4
def slotKey (x : Slot) : List Byte := bytesAt x.header 0x100 1952

/-! ### The body (R384) -/

/-- BASE and SIZE of the regions. -/
def slotRegions (x : Slot) : List (Nat × Nat) :=
  (List.range (slotRegCount x)).map (fun i => (field x.body (16 * i) 8, field x.body (16 * i + 8) 8))

/-- The tensor of a 32-byte plan entry. -/
def tensorOf (bs : List Byte) : Tensor := { pa := field bs 0 8, bytes := field bs 8 8, fmt := field bs 0x10 1, recPa := field bs 0x18 8 }

/-- The tensors with their assay records. -/
def slotTensors (x : Slot) : List Tensor :=
  (List.range (slotTenCount x)).map (fun i =>
    let e := bytesAt x.body (16 * slotRegCount x + 160 * i) 160
    { tensorOf e with recData := e.drop 32 })

/-- A segment entry. -/
def segmOf (e : List Byte) : Segm :=
  { region := field e 0 2, drive := field e 2 1, len := field e 4 4, offset := field e 8 8, lba := field e 0x10 8, digest := bytesAt e 0x20 32 }

/-- The segment entries. -/
def slotSegs (x : Slot) : List Segm :=
  (List.range (slotSegCount x)).map (fun i => segmOf (bytesAt x.body (16 * slotRegCount x + 160 * slotTenCount x + 64 * i) 64))

/-- The 64 bytes of a segment entry. -/
def segmBytes (g : Segm) : List Byte :=
  toBytes 2 g.region ++ toBytes 1 g.drive ++ [0] ++ toBytes 4 g.len ++ toBytes 8 g.offset ++ toBytes 8 g.lba ++ toBytes 8 0 ++ fixedBytes 32 g.digest

/-- The 160 bytes of a tensor entry: its plan entry and its record. -/
def tensorBytes (t : Tensor) : List Byte :=
  toBytes 8 t.pa ++ toBytes 8 t.bytes ++ toBytes 1 t.fmt ++ toBytes 7 0 ++ toBytes 8 t.recPa ++ fixedBytes 128 t.recData

/-- The body of a manifest. -/
def bodyBytes (rs : List (Nat × Nat)) (ts : List Tensor) (gs : List Segm) : List Byte :=
  rs.flatMap (fun r => toBytes 8 r.1 ++ toBytes 8 r.2) ++ ts.flatMap tensorBytes ++ gs.flatMap segmBytes

/-! ### Validity (R385) -/

/-- SERIALS and DRIVES name the drives present. -/
def drivesMatch (n : Snap) (x : Slot) : Bool :=
  decide (n.drives ≠ 0 ∧ field x.header 7 1 = n.drives) &&
  (List.range n.drives).all (fun d => decide (field x.header (0x60 + 20 * d) 20 = (n.serials[d]?).getD 0))

/-- SIG verifies with PK and PK_DIGEST matches PK. -/
def signatureHolds (x : Slot) : Bool :=
  decide (bytesAt x.header 0xB0 32 = digest (slotKey x)) &&
  Config.verifies (slotKey x) (bytesAt x.header 0 0x8A0) (bytesAt x.header 0x8A0 3309)

/-- The foreman finds the slot valid with the drives present (R385). -/
def slotHolds (n : Snap) (x : Slot) : Bool :=
  decide (field x.header 0 4 = 0x53768160 ∧ field x.header 4 2 = 1) && drivesMatch n x &&
  decide (bytesAt x.header 0x40 32 = digest (bytesAt x.body 0 (slotBodyLen x))) && (slotUnsigned x || signatureHolds x)

end Sys2Proof.Machine
end

