-- ==== Sys2Proof/Machine/Boot.lean ====
section
/-! DEFINITION. What a device or cold reset keeps, and what the steps of the bring-up do (R20, R21, R33, R37, R352, R361, R372, R373,
R388 to R393, R424). -/

namespace Sys2Proof.Machine

/-! ### Bytes of opaque contents -/

/-- The bytes of a list exclusive-or those of another. -/
def xorBytes (a b : List Byte) : List Byte := (a.zip b).map (fun e => e.1 ^^^ e.2)

/-- The bytes of a text, one byte a character (R388). -/
def textBytes (t : String) : List Byte := t.toList.map (fun c => BitVec.ofNat 8 c.toNat)

/-- The identity seed that headframe h derives from its PUF's start-up values, none when its tag does not match (R388). -/
def derivedSeed (h : Nat) (startup : List Byte) : Option (List Byte) :=
  let k := fixedBytes 32 (Config.fuzzyExtract startup (Config.helperData h))
  let xi := xorBytes (fixedBytes 32 (Config.wrappedSeed h)) (shake256 (k ++ textBytes "V8160 seed wrap") 32)
  if shake256 (k ++ textBytes "V8160 seed tag" ++ xi) 16 = fixedBytes 16 (Config.seedTag h) then some xi else none

/-- Both headframes derive the device key from the PUFs' values (R388; DEDUCED, log 18). -/
def deriveKeys (t : Trust) (e : BootEnv) : Trust :=
  let a := derivedSeed 0 e.puf0
  let b := derivedSeed 1 e.puf1
  { t with key0 := a.isSome, key1 := b.isSome, seed := (a.or b).getD [] }

/-- The public key of the seed that a headframe derived, 1,952 bytes (R384, R388). -/
def publicKeyBytes (t : Trust) : List Byte := fixedBytes 1952 (Config.keyGen t.seed).1

/-- The device's identity, 16 bytes (R388). -/
def deviceIdBytes (t : Trust) : List Byte := shake256 (publicKeyBytes t) 16

/-- A headframe has derived the device key (R388). -/
def keyDerived (t : Trust) : Bool := t.key0 || t.key1

/-- A controller that runs, active or standby, holds the device key (R388, R389; DEDUCED, log 18). -/
def hasKey (s : State) : Bool :=
  (s.trust.key0 && (s.flt.h0Active || (s.flt.h1Active && s.flt.standby))) ||
  (s.trust.key1 && (s.flt.h1Active || (s.flt.h0Active && s.flt.standby)))

/-! ### The configuration record (R393) -/

/-- The fields of a record. -/
def confOf (bs : List Byte) : Conf :=
  let f := field bs
  let words := fun (at' n : Nat) => (List.range n).map (fun i => BitVec.ofNat 32 (f (at' + 4 * i) 4))
  { seq := f 4 4, remap := bit (f 0x18 1) 0, q := f 0x19 1, stage := f 0x1A 1, skipSame := bit (f 0x1B 1) 0
    spill := BitVec.ofNat 32 (f 0x1C 4), winSize := f 0x20 1, fabId := f 0x22 2 % 4096
    retireCfg := BitVec.ofNat 32 (f 0x24 4), ports := words 0x28 12, classes := words 0x58 8 }

/-- SIGNER is the digest of a key of the identity block, and SIG verifies with that key (R393). -/
def signedBy (key bs : List Byte) : Bool :=
  decide ((bs.drop 0x100).take 32 = digest key) && Config.verifies key (bs.take 0x120) ((bs.drop 0x120).take 3309)

/-- The conditions under which the foreman accepts a copy, `key` when the device has an identity (R393). -/
def recordAccepted (t : Trust) (key : Bool) (bs : List Byte) : Bool :=
  decide (field bs 0 2 = 1) && (decide (field bs 8 16 = 0) || (key && decide ((bs.drop 8).take 16 = deviceIdBytes t))) &&
  (signedBy Config.vendorKey bs || signedBy Config.ownerKey bs)

/-- The accepted copies. -/
def acceptedCopies (t : Trust) (key : Bool) : List (List Byte) := [t.conf0, t.conf1].filter (recordAccepted t key)

/-- The record that a boot applies: the accepted copy with the higher SEQ; none under BOOT_SEL 0b11 (R393). -/
def chosenRecord (t : Trust) : Option (List Byte) :=
  if t.bootSel = 3 then none
  else (acceptedCopies t (keyDerived t)).foldl (fun best bs =>
    match best with
    | none => some bs
    | some b => if field b 4 4 < field bs 4 4 then some bs else some b) none

/-! ### Firmware slots (R391, R392) -/

/-- VERSION, SVN and digests of a slot's image (DESIGN CHOICE, log 7). -/
def slotVersion (x : FwSlot) : Nat := if x.factory then Config.factoryVersion % 2 ^ 32 else x.version
def slotSvn (x : FwSlot) : Nat := if x.factory then Config.factorySvn % 65 else x.svn
def slotFw (x : FwSlot) : List Byte := fixedBytes 32 (if x.factory then Config.factoryFwDigest else x.fwDigest)
def slotMicro (x : FwSlot) : List Byte := fixedBytes 32 (if x.factory then Config.factoryMicroDigest else x.microDigest)

/-- The ROM's verification of a slot: its header and digests hold and its SVN is not below the fuses (DESIGN CHOICE, log 18).
-/
def slotPasses (t : Trust) (x : FwSlot) : Bool := x.verifies && decide (t.fuses ≤ slotSvn x)

def fwSlot (t : Trust) (b : Bool) : FwSlot := if b then t.fwB else t.fwA
def putFwSlot (t : Trust) (b : Bool) (x : FwSlot) : Trust := if b then { t with fwB := x } else { t with fwA := x }

/-- A pending slot that has used its three tries unconfirmed is BAD (R392). -/
def retirePending (x : FwSlot) : FwSlot := if x.pending ∧ 3 ≤ x.tries then { x with badSlot := true, pending := false } else x

/-- The slots in the order in which the ROM tries them, TRIES of a pending one raised (table "Boot selection") (DESIGN CHOICE,
log 19). -/
def bootOrder (t : Trust) (bootSel : Nat) : Trust × List Bool :=
  if bootSel = 1 ∨ bootSel = 3 then (t, [false])
  else if bootSel = 2 then (t, [true])
  else
    let t := { t with fwA := retirePending t.fwA, fwB := retirePending t.fwB }
    let good := fun (b : Bool) => (fwSlot t b).valid && !(fwSlot t b).badSlot && !(fwSlot t b).pending
    let higher := decide (slotVersion t.fwA < slotVersion t.fwB)
    let rest := [higher, !higher].filter good
    match [false, true].find? (fun b => (fwSlot t b).pending && !(fwSlot t b).badSlot) with
    | some b => (putFwSlot t b { fwSlot t b with tries := (fwSlot t b).tries + 1 }, b :: rest)
    | none => (t, rest)

/-- The first slot of the list that passes; each one that fails is marked BAD (R392). -/
def trySlots (t : Trust) : List Bool → Trust × Option Bool
  | [] => (t, none)
  | b :: bs =>
    if slotPasses t (fwSlot t b) then (t, some b)
    else trySlots (putFwSlot t b { fwSlot t b with badSlot := true }) bs

/-- The foreman confirms the running slot when the mailbox first reports ready (R392, R424). -/
def confirmSlot (t : Trust) : Trust := putFwSlot t t.runningB { fwSlot t t.runningB with confirmed := true, pending := false }

/-- The boot ROM's chain: the vendor root key, then the slots; none when the ROM stops (R392; DESIGN CHOICE, log 19). -/
def bootChain (t : Trust) : Trust × Option Bool :=
  if t.rootOk then
    let order := bootOrder t t.bootSel
    trySlots order.1 order.2
  else (t, none)

/-! ### What survives (R37, R361) -/

/-- The device with every VIN-derived domain in reset or unpowered: flash, drives and, while VAUX stands, the AUX domain keep
their contents; the stamp restarts (R36, R37, R361). TEST_FAILS counts since cold reset (R33; DESIGN CHOICE, log 4). -/
def resetState (s : State) (cold vauxLost : Bool) : State :=
  { pending := s.pending, freeCtr := s.freeCtr, out := s.out
    phys := if cold then [] else s.phys.foldl (fun t e => tset t {} e.1 { fails := e.2.fails }) []
    flt := {
      history := s.flt.history, histCount := s.flt.histCount, clearAtReset := s.flt.clearAtReset
      retLanes := s.flt.retLanes, retPcs := s.flt.retPcs, retStopes := s.flt.retStopes, retMons := s.flt.retMons
      canary0 := if vauxLost then 0 else s.flt.canary0, canary1 := if vauxLost then 0 else s.flt.canary1
      haltNoted := s.flt.haltNoted && !vauxLost
      recLog := if vauxLost then [] else s.flt.recLog, recTrace := if vauxLost then [] else s.flt.recTrace }
    nrg := { total := if cold then 0 else s.nrg.total }
    snap := { slotA := s.snap.slotA, slotB := s.snap.slotB, known := s.snap.known }
    ep := { cfgServed := s.ep.cfgServed && !cold }
    trust := { fwA := s.trust.fwA, fwB := s.trust.fwB, fuses := s.trust.fuses, conf0 := s.trust.conf0, conf1 := s.trust.conf1, rootOk := s.trust.rootOk }
    i3c := if vauxLost then {} else s.i3c
    pins := if vauxLost then { resetLow := s.pins.resetLow, lowNs := s.pins.lowNs, lowActed := s.pins.lowActed }
      else { s.pins with tripLatch := s.pins.tripLatch && !cold } }

/-! ### What the host sees of readiness (R311) -/

/-- MBX_READY; it reads 0 during a takeover (R311, R364). -/
def readyBits (e : Endpoint) (f : Faults) : Nat :=
  if f.takeover.isSome then 0 else b2n e.ready + 2 * b2n e.deputy + 4 * b2n f.safeHalt + 8 * b2n f.recovery + 16 * b2n e.cmdReady

/-- What MBX_READY shows is set; READY_CHG is raised when a bit of it changed (R311). -/
def readyChanged (s : State) (e : Endpoint) (f : Faults) : State :=
  let t := { s with ep := e, flt := f }
  if readyBits e f = readyBits s.ep s.flt then t else raiseCause t 8

/-! ### Stopes and levels at boot (R20, R21, R33) -/

/-- Reserved query numbers of level n in ascending reserved index (R257). -/
def reservedOfLevel (s : State) (n : Nat) : List Nat :=
  ((List.range s.conf.q).map reservedNumber).filter (fun st => decide (stopeLevel st = n))

/-- The logical numbers of level n in the order in which passing stopes take them (R20, R21). -/
def numberOrder (s : State) (n m : Nat) : List Nat :=
  let all := (List.range 20).map (fun i => 20 * n + i)
  if 20 ≤ m then all else reservedOfLevel s n ++ all.filter (fun st => !(reservedOfLevel s n).contains st)

/-- One failed self-test of a physical stope at boot (R33, R348, R351). -/
def bootFail (s : State) (p : Nat) : State :=
  let s := modPhys s p (fun x => { x with logical := 255, state := 4, fails := min 255 (x.fails + 1) })
  let s := { s with flt := { s.flt with retStopes := s.flt.retStopes ++ [p] } }
  logOpen s { code := 0x0701, source := 10, phys := p, action := 4 }

/-- The physical stopes of level n that pass self-test and are not on the retirement list. -/
def passingOf (s : State) (n : Nat) : List Nat :=
  ((List.range 22).map (fun i => 22 * n + i)).filter (fun p => !s.flt.retStopes.contains p)

/-- Level n is assigned: the passing stopes take the numbers in order, the rest are reserve, the retired ones show so. -/
def assignLevel (s : State) (n : Nat) : State :=
  let ps := passingOf s n
  let order := numberOrder s n ps.length
  let s := (List.range 22).foldl (fun s i =>
    let p := 22 * n + i
    if s.flt.retStopes.contains p then modPhys s p (fun x => { x with logical := 255, state := 4 }) else s) s
  let s := (List.range ps.length).foldl (fun s i =>
    let p := (ps[i]?).getD 0
    match order[i]? with
    | some st => modPhys s p (fun x => { x with logical := st, state := 1 })
    | none => modPhys s p (fun x => { x with logical := 255, state := 2 })) s
  modLevel s n (fun l => { l with assigned := true })

/-- A level core is powered: it leaves reset, its stopes are tested and assigned, their overmen start (R20, R424; DESIGN
CHOICE, log 19). -/
def levelPowerUp (fails monFails : List Nat) (s : State) (n : Nat) : State :=
  let s := (((List.range 22).map (fun i => 22 * n + i)).filter (fun p => fails.contains p && !s.flt.retStopes.contains p)).foldl bootFail s
  let s := assignLevel s n
  let s :=
    if monFails.contains n ∧ s.flt.retMons.contains n = false then
      logOpen { s with flt := { s.flt with retMons := s.flt.retMons ++ [n] } } { code := 0x0705, source := 10, unit := n, action := 4 }
    else s
  let s := levelReset (modLevel s n (fun l => { l with up := true })) n
  modLevel s n (fun l => { l with monRetired := s.flt.retMons.contains n })

/-! ### Applying what the flash holds (R352, R393, R424) -/

/-- The retirement list, emptied by a RETIRE_CLEAR (R352). -/
def applyClear (s : State) : State :=
  if s.flt.clearAtReset then
    { s with flt := { s.flt with retLanes := [], retPcs := [], retStopes := [], retMons := [], clearAtReset := false }, boot := { s.boot with fresh := true } }
  else s

/-- The retirement list's bytes. -/
def retirementImage (s : State) : List Byte := Config.retirementBytes s.flt.retLanes s.flt.retPcs s.flt.retStopes s.flt.retMons

/-- Retired pseudo-channels of stack k in the order of the list. -/
def retiredPcs (s : State) (k : Nat) : List Nat := (s.flt.retPcs.filter (fun e => decide (e.1 = k))).map (·.2)

/-- The configuration record and the retirement list take effect (R215, R240, R244, R259, R352, R354, R393, R397). -/
def applyConf (s : State) (rec : Option (List Byte)) : State :=
  let c := match rec with | some bs => confOf bs | none => {}
  let s := { s with
    conf := c, fabId := c.fabId
    trust := { s.trust with bootConf := (match rec with | some bs => bs.take 0x120 | none => []), bootRetire := retirementImage s }
    snap := { s.snap with skipSame := c.skipSame }
    qclass := (List.range 8).foldl (fun t i => tset t 0 i ((c.classes[i]?).getD 0)) [] }
  let s := (List.range 12).foldl (fun s p => modPort s p (fun x => { x with
    cfg := (c.ports[p]?).getD 0, retireCfg := c.retireCfg
    retired := (List.range 4).foldl (fun r l => r + b2n (s.flt.retLanes.contains (4 * p + l)) * 2 ^ l) 0 })) s
  (List.range 16).foldl (fun s k =>
    let ps := retiredPcs s k
    modStack s k (fun x => { x with retired := ps.foldl (fun r pc => r ||| 2 ^ pc) 0, moved := ps })) s

/-- At the boot after a safe halt the foreman writes a SAFE_HALT record for each cause word that survived (R367; DEDUCED, log 36). -/
def noteHalt (s : State) : State :=
  let one := fun (s : State) (h : Nat) (w : Word32) =>
    if bits w.toNat 0 4 = 0 then s else logOpen s { code := 0x070A, source := 12, unit := h, action := 8 }
  if s.flt.haltNoted then s
  else
    let s := one (one s 0 s.flt.canary0) 1 s.flt.canary1
    { s with flt := { s.flt with haltNoted := true } }

/-! ### The drives (R372, R373) -/

/-- Namespace 1 is one that the device uses (R373). -/
def driveFits (d : Drive) : Bool := decide (d.lbaSize = 4096 ∧ d.metadata = 0) && !d.protection

/-- An NVMe command leaves, and its completion is awaited (R374). -/
def sendNvme (s : State) (drive : Nat) (c : Nvme) (seg : Option Nat) : State :=
  emit { s with snap := { s.snap with waits := s.snap.waits ++ [{ drive := drive, cmd := c, since := s.now, seg := seg }] } } (.nvme drive c)

/-- What the foreman sends to a drive that it enumerates: Identify of controller, namespace list and namespace; for one in use Set Features
and the creation of its queues (R373; DESIGN CHOICE, log 31). -/
def identifyDrive (s : State) (i : Nat) (used : Bool) : State :=
  ([0x06, 0x06, 0x06] ++ (if used then [0x09, 0x05, 0x01] else [])).foldl (fun s op => emit s (.nvme i (.admin op))) s

/-- The drives that the foreman finds: at a device or cold reset all, at an exit from Vigil those that the latest such reset found (R372;
DEDUCED, log 31). -/
def foundDrives (s : State) (e : BootEnv) : List Drive :=
  if s.boot.reset then e.found else e.found.filter (fun d => s.snap.known.contains d.serial)

/-- The foreman reads a slot's manifest, header and body (R380, R385). -/
def readManifest (s : State) (half i : Nat) (x : Slot) : State :=
  let h := blocksFor headerLen
  let s := emit s (.nvme 0 (.read (i * half) h))
  if slotBodyLen x = 0 then s else emit s (.nvme 0 (.read (i * half + h) (blocksFor (slotBodyLen x))))

/-- The port and the drives as the foreman finds them; both manifests are read and judged (R372, R373, R380, R385). -/
def enumerateDrives (s : State) (e : BootEnv) : State :=
  let ds := foundDrives s e
  let used := (ds.filter driveFits).take 4
  let half := (used.foldl (fun m d => min m d.lbas) ((used.head?).elim 0 (·.lbas))) / 2
  let n := s.snap
  let s := { s with snap := { n with
    rate := e.rate, width := e.width, drives := used.length, refused := ds.length - used.length, half := half, serials := used.map (·.serial)
    known := if s.boot.reset then ds.map (·.serial) else n.known
    slotA := (e.slots.map (·.1)).getD n.slotA, slotB := (e.slots.map (·.2)).getD n.slotB } }
  let s := (List.range ds.length).foldl (fun s i => identifyDrive s i ((ds[i]?).any driveFits)) s
  if used = [] then s
  else
    let s := readManifest (readManifest s half 0 s.snap.slotA) half 1 s.snap.slotB
    { s with snap := { s.snap with okA := slotHolds s.snap s.snap.slotA, okB := slotHolds s.snap s.snap.slotB } }

/-! ### Units tested afresh after a RETIRE_CLEAR (R352) -/

/-- A lane pair that fails its test is retired again (R240, R352). -/
def failLane (s : State) (l : Nat) : State :=
  let s := modPort s (l / 4) (fun x => { x with retired := x.retired ||| 2 ^ (l % 4) })
  logOpen { s with flt := { s.flt with retLanes := s.flt.retLanes ++ [l] } } { code := 0x0603, source := 8, unit := l / 4, phys := l % 4, action := 4 }

/-- A pseudo-channel of an empty stack that fails its test is retired again while a spill is left; there is nothing to move (R352, R354 to
R356). -/
def failPc (s : State) (x : Nat × Nat) : State :=
  if spillOf s x.1 ≤ (stackOf s x.1).moved.length then
    modStack (logOpen s { code := 0x0305, source := 10, unit := x.1, phys := x.1 + x.2 * 16, action := 9 }) x.1 (fun y => { y with exhausted := true })
  else
    let s := modStack s x.1 (fun y => { y with moved := y.moved ++ [x.2], retired := y.retired ||| 2 ^ x.2 })
    logOpen { s with flt := { s.flt with retPcs := s.flt.retPcs ++ [x] } } { code := 0x0304, source := 10, unit := x.1, phys := x.1 + x.2 * 16, action := 4 }

/-! ### The steps (R424 to R426) -/

/-- The steps from t0 to ready for commands. -/
def powerUpSteps : List BootStep :=
  [.aon, .firmware] ++ (List.range 8).map BootStep.level ++ [.mailbox, .calibrate, .memory, .drives, .ready]

/-- The steps of an exit from Vigil (R250, R293, R303; DEDUCED, log 29). -/
def vigilSteps : List BootStep := [.lanes, .firmware] ++ (List.range 8).map BootStep.level ++ [.mailbox, .memory, .drives, .ready]

/-- The least and the greatest time from t0 to the end of a step, in ns, for the images that FW_UPDATE accepts (R250, R303, R424, R425;
DESIGN CHOICE, log 19). -/
def stepBounds (vigil : Bool) (x : BootStep) : Nat × Nat :=
  match x, vigil with
  | .aon, _ => (15000000, 25000000)
  | .lanes, _ => (90000000, 160000000)
  | .mailbox, false => (850000000, 2220000000)
  | .mailbox, true => (900000000, 1100000000)
  | .calibrate, _ => (850000000, 3520000000)
  | .ready, false => (3400000000, 5020000000)
  | .ready, true => (3500000000, 3900000000)
  | .memory, _ => (850000000, 5020000000)
  | .drives, _ => (850000000, 5020000000)
  | _, false => (25000000, 2220000000)
  | _, true => (25000000, 1100000000)

/-- When a step ends: the time that the environment gives, within the bounds. -/
def stepTime (s : State) (e : BootEnv) (x : BootStep) : Nat :=
  let b := stepBounds (decide (s.power = .vigil)) x
  s.boot.t0 + max b.1 (min e.readyNs b.2)

/-- Step 1: a reset is released or the supplies are valid, the straps are sampled (R366, R413, R424). -/
def beginBoot (s : State) (bootSel : Nat) : State :=
  { s with
    power := .starting, busyAt := s.now, pins := { s.pins with vinOk := true, vauxOk := true, served := true }
    boot := { steps := powerUpSteps, t0 := s.now, reset := true, released := some s.now }
    trust := { s.trust with bootSel := bootSel % 4 } }

/-- Step 3: the round clock begins with round 0, the ledger senses (R268, R288, R424; DEDUCED, log 26). -/
def startAon (s : State) : State :=
  { s with
    boot := { s.boot with aon := true }, rnd := { s.rnd with origin := (s.now : Int) }
    nrg := { s.nrg with tickAt := s.now, toMark := s.rnd.comNs } }

/-- Steps 4 to 7. While the trip latch stands every level stays in reset (R423, R426); with no slot that passes the ROM stops, and
nothing follows until a canary acts (R392). -/
def startFirmware (s : State) (e : BootEnv) : State :=
  let r := bootChain (deriveKeys s.trust e)
  let s := { s with trust := r.1 }
  match r.2 with
  | none => { s with boot := { s.boot with steps := [] } }
  | some b =>
    let s := { s with trust := { s.trust with runningB := b } }
    let s := applyConf (if s.boot.reset then applyClear s else s) (chosenRecord s.trust)
    let s := noteHalt { s with flt := { s.flt with h0Active := true, lastBeat := s.now } }
    if s.pins.tripLatch then { s with quench := true, power := .quenched, boot := { s.boot with steps := [.mailbox], again := true } } else s

/-- Steps 9 and 10: the deputy is synchronised, the running slot is confirmed (R392, R424). -/
def startMailbox (s : State) : State :=
  let s := { s with trust := confirmSlot s.trust, boot := { s.boot with released := none } }
  readyChanged s { s.ep with ready := true } { s.flt with standby := true }

/-- A device reset, and step 1 of the bring-up after it (R361, R411). -/
def deviceReset (s : State) (e : BootEnv) : State := beginBoot (resetState s false false) e.bootSel

end Sys2Proof.Machine
end

