-- ==== Sys2Proof/Machine/Uason.lean ====
section
/-! DEFINITION. Uason ports: training (R235 to R237), link integrity and lanes (R238 to R241), ECHO and WAKE (R250, R251),
routing (R244), tally messages (R245) and bulk transfers (R246 to R248). -/

namespace Sys2Proof.Machine

def fcLinkDown : Nat := 0x0602
def fcLaneRetired : Nat := 0x0603

/-! ### Link state -/

/-- CAPS that a training port has sent again by device cycle t: one every 10 µs until it has received one (R235). -/
def capsDue (x : Port) (t : Nat) : Nat :=
  match x.state, x.capsSeen with
  | .training, false => (t - x.trainAt - 1) / 10000
  | .retraining, false => (t - x.trainAt - 1) / 10000
  | _, _ => 0

/-- The CAPS sent again since the attempt began are counted as its waiting ends (R235, R266). -/
def repeatCaps (s : State) (p : Nat) : State :=
  let n := capsDue (portOf s p) s.now
  if n = 0 then s else sendRaw s p n (.capsAgain p n)

/-- The port goes down: buffers and negotiated values go, a fall of a running port is counted (R239, R266; DEDUCED, log 34).
-/
def fallDown (x : Port) : Port :=
  { x with
    state := .down, gen := 0, lanes := 0, partner := 0, capsSeen := false, sendSeq := 0, ackedSeq := 0, recvSeq := 0, buffer := [], sendq := []
    turn := 0, echoOut := false, echoAt := none, discarding := false, fails := 0, retiring := none, window := []
    downs := if x.state = .down ∨ x.state = .training then x.downs else satAdd 8 x.downs 1 }

/-- The port goes down, and the hoists lose what they held with it. -/
def dropPort (s : State) (p : Nat) : State := recountPorts (modPort (repeatCaps s p) p fallDown)

/-- The port goes down and UAS_LINK_DOWN is recorded (R239, R241; DEDUCED, log 34). -/
def linkDown (s : State) (p : Nat) : State := logOpen (dropPort s p) { code := fcLinkDown, source := 8, unit := p, action := 1 }

/-- The port trains from the start, with the configuration as written (R235, R237). -/
def startTraining (s : State) (p : Nat) : State :=
  let s := modPort s p (fun x => { x with state := .training, live := x.cfg, trainAt := s.now, capsSeen := false })
  sendRaw s p 1 (.caps p (ownCaps s (portOf s p)))

/-- The port retrains: its replay buffer stays (R239). -/
def retrain (s : State) (p : Nat) : State :=
  let s := modPort s p (fun x => { x with
    state := .retraining, live := x.cfg, trainAt := s.now, capsSeen := false, fails := 0, discarding := false, retrains := satAdd 8 x.retrains 1 })
  sendRaw s p 1 (.caps p (ownCaps s (portOf s p)))

/-- A port carries again: what waits at it and at the hoists for it leaves (R238, R239). -/
def resumePort (s : State) (p : Nat) : State :=
  (List.range 8).foldl (fun s n => launchWaiting (hoistOf s n).waiting.length s n p) (recountPorts (sendOn s p))

/-- A write of UAS_CFG (R237): it shows at once, takes effect at the next training; clearing ENABLE takes the port down. -/
def writeUasCfg (s : State) (p : Nat) (v : Word32) : State :=
  let s := modPort s p (fun x => { x with cfg := v &&& 0x3FF })
  if cfgEnable v then s else dropPort s p

/-- UAS_CFG_WRITE (R237). -/
def execUasCfgWrite (p : Nat) (v : Word32) (s : State) : Answer := if p < 12 ∧ headsUp s then .next (writeUasCfg s p v) else .next s

/-- The SerDes are calibrated: step 11 of the bring-up is past (R424). -/
def calibrated (s : State) : Bool := !s.boot.steps.contains .calibrate

/-- PORT_TRAIN: an enabled port that is down starts training (R235). -/
def execPortTrain (p : Nat) (s : State) : Answer :=
  let x := portOf s p
  if p < 12 ∧ x.state = .down ∧ cfgEnable x.cfg ∧ usableLanes x ≠ 0 ∧ headsUp s ∧ calibrated s then .next (startTraining s p) else .next s

/-- TRAIN_RETRY: no partner found, the attempt is repeated every 100 ms (R235). -/
def execTrainRetry (p : Nat) (s : State) : Answer :=
  let x := portOf s p
  if x.state = .training ∧ x.capsSeen = false then .next (startTraining (repeatCaps (advance s (x.trainAt + 100000000)) p) p) else .next s

/-- Lanes on which both ends run: four, three when both accept, otherwise none (R235). -/
def chosenLanes (common : Nat) (three : Bool) : Nat :=
  if laneCount common = 4 then common else if laneCount common = 3 ∧ three then common else 0

/-- A training port takes the partner's CAPS: generation and lanes are settled and READY goes out, or it stays down; a retraining one goes
on until UAS_LINK_DOWN (R235, R239). -/
def takeCaps (s : State) (p : Nat) (c : Caps) : State :=
  let x := portOf s p
  let g := min (cfgMaxGen x.live) c.gen
  let ls := chosenLanes (usableLanes x &&& (c.lanes % 16)) c.three
  if g = 0 ∨ ls = 0 then (if x.state = .training then dropPort s p else s)
  else
    let s := modPort (repeatCaps s p) p (fun x => { x with gen := g, lanes := ls, partner := c.dev % 4096, capsSeen := true })
    sendRaw s p 1 (.ready p)

/-- A flit outside the sequence has come: its data bytes are counted (R266; DEDUCED, log 34). -/
def countRaw (s : State) (p : Nat) : State := modPort s p (fun x => { x with rx := x.rx + 272 })

/-- CAPS (R235, R239). On a port that runs, CAPS with a single common lane takes it to the Vigil lane; on a Vigil lane CAPS with more
starts the training that brings it back to full rate, and the device answers with its own (R249; DEDUCED, log 34). -/
def execCaps (p : Nat) (c : Caps) (s : State) : Answer :=
  let s := if (portOf s p).state = .down then s else countRaw s p
  let x := portOf s p
  let common := usableLanes x &&& (c.lanes % 16)
  match x.state with
  | .down => .next s
  | .up =>
    if laneCount common = 1 then .next (modPort s p (fun x => { x with state := .vigil, lanes := lowestLane common })) else .next s
  | .vigil =>
    if laneCount common ≤ 1 ∨ s.power = .vigil ∨ s.flt.safeHalt then .next s
    else
      let s := modPort s p (fun x => { x with state := .retraining, live := x.cfg, trainAt := s.now, capsSeen := false })
      .next (takeCaps (sendRaw s p 1 (.caps p (ownCaps s (portOf s p)))) p c)
  | _ => .next (takeCaps s p c)

/-- Every flit of the replay buffer leaves again, on a Vigil lane those that it carries (R238, R249, R266; DEDUCED, log 34). -/
def resendAll (s : State) (p : Nat) : State :=
  let x := portOf s p
  let n := (x.buffer.filter (fun k => decide (x.state ≠ .vigil ∨ k.vc = 4 ∨ k.vc = 0))).length
  if n = 0 then s
  else sendRaw (modPort s p (fun x => { x with replay := satAdd 32 x.replay n })) p n (.resend p ((x.ackedSeq + 1) % 4096))

/-- READY: flits flow; after a retrain they resume from the last acknowledged sequence (R235, R239). -/
def execReady (p : Nat) (s : State) : Answer :=
  let s := if (portOf s p).state = .down then s else countRaw s p
  let x := portOf s p
  if x.capsSeen = false then .next s
  else
    match x.state with
    | .training =>
      let s := modPort s p (fun x => { x with
        state := .up, capsSeen := false, lastValid := s.now, sendSeq := 0, ackedSeq := 0, recvSeq := 0, buffer := [], sendq := [] })
      .next (resumePort s p)
    | .retraining =>
      let s := modPort s p (fun x => { x with state := .up, capsSeen := false, lastValid := s.now, sendq := x.sendq.filterMap (fitItem x.gen) })
      .next (resumePort (resendAll s p) p)
    | _ => .next s

/-! ### Lanes (R240, R241) -/

/-- Corrected bytes and replays of lane l within the last second (DEDUCED, log 34). -/
def laneWindow (x : Port) (now l : Nat) : Nat × Nat :=
  (x.window.filter (fun e => decide (now < e.1 + 1000000000 ∧ e.2.1 = l))).foldl (fun n e => (n.1 + e.2.2.1, n.2 + e.2.2.2)) (0, 0)

/-- The lane has passed a threshold of UAS_RETIRE_CFG. -/
def laneOver (x : Port) (now l : Nat) : Bool :=
  let n := laneWindow x now l
  let r := x.retireCfg.toNat
  bit x.lanes l && (decide (64 * bits r 0 24 < n.1) || decide (bits r 24 8 < n.2))

/-- A lane past its threshold: LANE_RETIRE on four lanes, the end of the link on three (DEDUCED, log 34). -/
def checkLanes (s : State) (p : Nat) : State :=
  let x := portOf s p
  match (List.range 4).find? (fun l => laneOver x s.now l) with
  | none => s
  | some l =>
    if x.state ≠ .up ∨ x.retiring.isSome then s
    else if laneCount x.lanes < 4 then linkDown s p
    else sendCtl (modPort s p (fun x => { x with retiring := some l })) p (.laneRetire p l)

/-- A lane leaves service for good: striping over the rest, the retirement list, the record (R240, R241, R351; DEDUCED, log
34). -/
def dropLane (s : State) (p l : Nat) : State :=
  let s := modPort s p (fun x => { x with
    lanes := x.lanes &&& (15 - 2 ^ l), retired := x.retired ||| 2 ^ l, retiring := none, window := x.window.filter (fun w => decide (w.2.1 ≠ l)), lanesRetired := satAdd 8 x.lanesRetired 1 })
  let s := { s with flt := { s.flt with retLanes := s.flt.retLanes ++ [4 * p + l] } }
  logOpen s { code := fcLaneRetired, source := 8, unit := p, phys := l, action := 4 }

/-- LANE_RETIRE: the partner's answer to the device's own, or one that the partner starts, which the device acknowledges on four lanes
and refuses on three. Both ends go on over three lanes, or the link ends (R240, R241; DEDUCED, log 34). -/
def execLaneRetire (p lane : Nat) (accept : Bool) (s : State) : Answer :=
  let x := portOf s p
  let four : Bool := decide (laneCount x.lanes = 4)
  if x.state ≠ .up ∨ bit x.lanes lane = false then .next s
  else if x.retiring = some lane then
    .next (if accept ∧ four then sendOn (dropLane s p lane) p else linkDown s p)
  else
    let s := sendCtl (modPort s p (fun x => { x with retiring := none })) p (.laneAnswer p lane four)
    .next (if four then sendOn (dropLane s p lane) p else linkDown s p)

/-! ### Flits (R238, R239) -/

/-- Distance of two 12-bit sequence numbers. -/
def seqDist (a b : Nat) : Nat := (a + 4096 - b % 4096) % 4096

/-- The LINK word of a flit (R234). -/
def linkWord (f : Flit) : Nat :=
  f.seq % 4096 + f.ack % 4096 * 2 ^ 12 + f.vc % 8 * 2 ^ 24 + b2n f.som * 2 ^ 27 + b2n f.eom * 2 ^ 28 + b2n f.ctrl * 2 ^ 29 + b2n f.nak * 2 ^ 30

/-- CRC-32C of bytes 0x000 to 0x113 of a flit: DATA and LINK (R90, R234). -/
def flitCrc (f : Flit) : Word32 := crc32c (f.data.take 272 ++ List.replicate (272 - f.data.length) (0 : Byte) ++ toBytes 4 (linkWord f))

/-- The flit passes its CRC. -/
def flitSound (f : Flit) : Bool := decide (f.crc = flitCrc f)

/-- The codeword that holds byte b of a flit (R234). -/
def codewordOf (b : Nat) : Nat := b / 4 % 2

/-- The bytes of a flit that arrived wrong and are corrected: a codeword corrects up to 2 (R234). -/
def correctedBytes (f : Flit) : List Nat :=
  f.errs.filter (fun b => decide ((f.errs.filter (fun c => decide (codewordOf c = codewordOf b))).length ≤ 2))

/-- The lane on which byte b of a flit travels: active lane (b div 8) mod L (R234). -/
def laneOfByte (x : Port) (b : Nat) : Nat :=
  let ls := (List.range 4).filter (fun l => bit x.lanes l)
  ls[b / 8 % ls.length]?.getD 0

/-- The corrected bytes of a flit on each lane, where there are any (R240). -/
def laneCorrections (x : Port) (f : Flit) : List (Nat × Nat) :=
  ((List.range 4).map (fun l => (l, ((correctedBytes f).filter (fun b => decide (laneOfByte x b = l))).length))).filter (fun e => decide (0 < e.2))

/-- The corrected bytes of a flit are counted by lane; a failing flit counts one replay against each lane that carried one. -/
def countCorrections (s : State) (p : Nat) (f : Flit) : State :=
  modPort s p (fun x =>
    let es := laneCorrections x f
    { x with
      corr := es.foldl (fun t e => tset t 0 e.1 (satAdd 32 (tget t 0 e.1) e.2)) x.corr
      window := (x.window.filter (fun w => decide (s.now < w.1 + 1000000000))) ++ es.map (fun e => (s.now, e.1, e.2, b2n (!flitSound f))) })

/-- The sender takes an acknowledgement up to a sequence number. -/
def takeAck (x : Port) (ack : Nat) : Port :=
  let n := seqDist ack x.ackedSeq
  if n ≤ x.buffer.length then { x with ackedSeq := ack % 4096, buffer := x.buffer.drop n } else x

/-- The sender resends what its buffer holds after an acknowledgement. -/
def resendFrom (s : State) (p ack : Nat) : State := sendOn (resendAll (modPort s p (fun x => takeAck x ack)) p) p

/-! ### The bytes of a flit (R234, R243) -/

/-- A message header (R243). -/
def messageHeader (typ dst src ttl len : Nat) (spec : List Byte) : List Byte :=
  toBytes 1 typ ++ [0] ++ toBytes 2 dst ++ toBytes 2 src ++ toBytes 1 ttl ++ [0] ++ toBytes 4 len ++ spec.take 20 ++
    List.replicate (20 - spec.length) (0 : Byte)

/-- A SLICE_CTL message: header only; kind 0 acknowledgement, 1 resend request, 2 credit (R216, R243; DESIGN CHOICE, log 24). -/
def sliceCtlBytes (s : State) (p kind : Nat) (fields : List Nat) : List Byte :=
  messageHeader 0x11 (portOf s p).partner s.fabId Config.hopTtl.toNat 0 (Config.controlBytes (0x11 + 2 ^ 8 * kind) fields)

/-- The bytes that something sent on a port puts into the DATA of its flits, from the first on: a message with its header, or a control
flit's fields (R217, R234, R243, R252, R254, R256, R287; DESIGN CHOICE, log 24). -/
def wireData (s : State) (o : Out) : List Byte :=
  match o with
  | .fab _ m => messageHeader m.typ m.dst m.src m.ttl m.payload.length m.spec ++ m.payload
  | .slice _ m => messageHeader 0x10 m.dst m.src m.ttl (64 + m.rlen + m.len) [] ++ sliceHeader m ++ toBytes m.rlen m.roster ++
      m.data.flatMap (fun w => toBytes 4 w.toNat)
  | .sliceAck p id idx => sliceCtlBytes s p 0 [id, idx]
  | .sliceAgain p id idx => sliceCtlBytes s p 1 [id, idx]
  | .sliceCredit p n => sliceCtlBytes s p 2 [n]
  | .beacon _ b => [0x05, 0, 0, 0] ++ toBytes 4 b.wire ++ toBytes 4 b.lenUs ++ toBytes 5 b.elapsed ++ toBytes 2 b.master ++ toBytes 1 b.fwd ++
      toBytes 4 b.budget
  | .presence _ data => data
  | .absent _ wire dev reason => Config.controlBytes 0 [] ++ toBytes 4 wire ++ toBytes 2 dev ++ toBytes 1 reason
  | .caps _ c => Config.controlBytes 1 [c.gen, c.lanes, b2n c.three, c.dev]
  | .ready _ => Config.controlBytes 2 []
  | .echo _ t => Config.controlBytes 3 [t]
  | .laneRetire _ l => Config.controlBytes 4 [l]
  | .laneAnswer _ l ok => Config.controlBytes 5 [l, b2n ok]
  | _ => []

/-- A flit of the replay buffer as it goes on the wire now: its part of the bytes, LINK with the latest sequence received good, the CRC
(R234, R238). -/
def wireFlit (s : State) (p : Nat) (k : Kept) : Flit :=
  let f : Flit :=
    { data := ((wireData s k.out).drop (272 * k.part)).take 272, seq := k.seq, ack := (portOf s p).recvSeq, vc := if k.vc = 4 then 0 else k.vc
      som := k.som, eom := k.eom, ctrl := decide (k.vc = 4), nak := (match k.out with | .nak .. => true | _ => false), crc := 0 }
  { f with crc := flitCrc f }

/-- The 288 bytes of a flit, and the bytes that lane l carries of them (R234). -/
def flitBytes (f : Flit) : List Byte :=
  let body := f.data.take 272 ++ List.replicate (272 - f.data.length) (0 : Byte) ++ toBytes 4 (linkWord f) ++ toBytes 4 f.crc.toNat
  body ++ Config.fecBytes body
def laneBytes (x : Port) (f : Flit) (l : Nat) : List Byte :=
  ((List.range 288).zip (flitBytes f)).filterMap (fun e => if laneOfByte x e.1 = l then some e.2 else none)

/-! ### Receiving flits (R238, R239) -/

/-- A flit that is discarded: NAK names the last good sequence; the third failure in a row retrains the port. -/
def refuseFlit (s : State) (p : Nat) (bad : Bool) : State :=
  let s := modPort s p (fun x => { x with fails := x.fails + b2n bad, discarding := true })
  if 3 ≤ (portOf s p).fails then retrain s p else sendCtl s p (.nak p (portOf s p).recvSeq)

/-- FLIT_RECEIVE (R234, R238 to R240; DESIGN CHOICE, log 20; DEDUCED, log 34). -/
def execFlitReceive (p : Nat) (f : Flit) (s : State) : Answer :=
  let x := portOf s p
  if carries x = false then .next s
  else
    let s := modPort (countCorrections s p f) p (fun x => { x with rx := x.rx + 272, crcFail := satAdd 32 x.crcFail (b2n (!flitSound f)) })
    let next := f.seq % 4096 = (x.recvSeq + 1) % 4096
    let s :=
      if flitSound f = false then (if x.discarding ∧ ¬ next then s else refuseFlit s p true)
      else if next then
        let s := modPort s p (fun x => { takeAck x f.ack with
          recvSeq := f.seq % 4096, discarding := false, fails := 0, lastValid := s.now })
        if f.nak then resendFrom s p f.ack else sendOn s p
      else if x.discarding then s
      else refuseFlit s p false
    .next (checkLanes s p)

/-- NAK (R238). -/
def execNak (p ack : Nat) (s : State) : Answer := if carries (portOf s p) then .next (resendFrom s p ack) else .next s

/-- LINK_SILENCE (R239). -/
def execLinkSilence (p : Nat) (s : State) : Answer :=
  let x := portOf s p
  if x.state = .up then .next (retrain (advance s (x.lastValid + 10000)) p) else .next s

/-- UAS_LINK_DOWN: not up again within 160 ms (R239; DEDUCED, log 34). -/
def execUasLinkDown (p : Nat) (s : State) : Answer :=
  let x := portOf s p
  if x.state = .retraining then .next (linkDown (advance s (x.trainAt + 160000000)) p) else .next s

/-! ### ECHO and WAKE (R250, R251) -/

/-- ECHO_SEND: due 10 ms after the last (R251; DESIGN CHOICE, log 34). -/
def execEchoSend (p : Nat) (s : State) : Answer :=
  let x := portOf s p
  if carries x = false then .next s
  else
    let s := match x.echoAt with | some t => advance s (t + 10000000) | none => s
    .next (sendCtl (modPort s p (fun x => { x with echoOut := true, echoAt := some s.now })) p (.echo p 0))

/-- ECHO: half of the round trip without the partner's turnaround is the one-way delay; one that answers no ECHO of the device's own is
answered with the device's turnaround, a free value (R251; DESIGN CHOICE, log 34). -/
def execEcho (p roundTrip turnaround : Nat) (s : State) : Answer :=
  let x := portOf s p
  if carries x = false then .next s
  else
    let s := modPort s p (fun x => { x with delay := (roundTrip - turnaround) / 2 % 2 ^ 20, echoOut := false })
    .next (if x.echoOut then s else sendCtl (useFree s 1) p (.echo p (freeAt s 0 % 2 ^ 20)))

/-- The exit to Full starts: from Doze it takes 25 ms at least, from Vigil the steps of a bring-up (R250, R292, R293, R303; DEDUCED, log
29). -/
def startWake (s : State) : State :=
  if s.power = .vigil then { s with boot := { s.boot with steps := vigilSteps, t0 := s.now } }
  else { s with powerNext := some (.full, s.now + 25000000) }

/-- No transition and no bring-up is under way (R292). -/
def noTransition (s : State) : Bool := s.powerNext.isNone && s.boot.steps.isEmpty

/-- The device is in Vigil or Doze, or on its way into one. -/
def asleep (s : State) : Bool := match s.power with | .doze => true | .vigil => true | _ => false

/-- WAKE (R250). -/
def execWake (p : Nat) (s : State) : Answer :=
  let x := portOf s p
  if carries x ∧ cfgWakeOk x.live ∧ asleep s ∧ noTransition s ∧ tramsOff s = false then .next (startWake s) else .next s

/-! ### Messages (R244, R245) -/

/-- The device consumes messages for its identifier; an unset identifier accepts none (R244). -/
def consumes (s : State) (m : FabMsg) : Bool := decide (s.fabId ≠ 0xFFF ∧ m.dst = s.fabId)

/-- A message reaches the device's own receivers: its port carries its type and no Vigil keeps the headframes off (R236, R249;
DEDUCED, log 42). -/
def received (s : State) (p : Nat) (m : FabMsg) : Bool := carriesType (portOf s p) m.typ && consumes s m && decide (s.power ≠ .vigil)

/-- MESSAGE_ARRIVAL of a message for another device: forwarded with one TTL less, or discarded. One for the device itself that asks
nothing of it is consumed, an answer on a Vigil lane discarded and counted (R244, R249). -/
def execMessageArrival (p : Nat) (m : FabMsg) (s : State) : Answer :=
  let x := portOf s p
  if carries x = false then .next s
  else if consumes s m then (if x.state = .vigil ∧ (m.typ = 0x31 ∨ m.typ = 0x32) then .next (discardMsg s p) else .next s)
  else if s.fabId = 0xFFF ∨ carriesType x m.typ = false ∨ m.ttl = 0 ∨ s.power = .vigil then .next (discardMsg s p)
  else
    match routePort s m.dst with
    | none => .next (discardMsg s p)
    | some q =>
      if takesType (portOf s q) m.typ then .next (sendFab s q { m with ttl := m.ttl - 1 }) else .next (discardMsg s p)

/-- TALLY_MESSAGE (R245). -/
def execTallyMessage (p : Nat) (m : FabMsg) (s : State) : Answer :=
  if m.typ ≠ 0x20 ∨ carries (portOf s p) = false ∨ consumes s m = false then .next s
  else if received s p m = false ∨ cfgTallyRx (portOf s p).live = false then .next (discardMsg s p)
  else
    let f := field m.spec
    .next (signalOne s .device 0 (f 0 2 % 1024) (f 4 4) (decide (f 2 1 = 1)) { source := 8, unit := p, tag := f 8 4 })

/-! ### Bulk transfers (R246 to R248) -/

/-- Entry i of a running command. -/
def bulkAt (s : State) (tag i : Nat) : Option (Cmd × Bulk) :=
  match cmdIn s tag isRunning with
  | some c => (c.bulk[i]?).map (fun b => (c, b))
  | none => none

/-- Entry i of a command takes a new state. -/
def setBulk (s : State) (c : Cmd) (i st : Nat) : State :=
  let c := sameCmd s c
  putCmd s { c with bulk := (List.range c.bulk.length).zip c.bulk |>.map (fun e => if e.1 = i then { e.2 with state := st } else e.2) }

/-- Every earlier entry to the same destination has reached a state (R246). -/
def earlierDone (c : Cmd) (i : Nat) (b : Bulk) (p : Bulk → Bool) : Bool :=
  ((c.bulk.take i).filter (fun e => decide (e.dst = b.dst))).all p

/-- The DONE tally of an entry is signalled (R246). -/
def signalDone (s : State) (c : Cmd) (b : Bulk) (p : Nat) : State :=
  match b.done with
  | some k => signalOne s .device 0 k 1 false { source := 8, unit := p, tag := c.tag, epoch := c.epoch }
  | none => s

/-- A PUT takes its sidecar entries along (R247). -/
def withEntries (b : Bulk) : Bool := decide (b.src % 4096 = 0 ∧ b.offset % 4096 = 0 ∧ b.length % 4096 = 0)

/-- Data bytes of one message of a PUT at most: LEN is 32 bits wide (R243; DESIGN CHOICE, log 24). -/
def putChunk : Nat := 2 ^ 31

/-- Data message k of a PUT: data, then the entries when they go along. Its TYPE-SPECIFIC bytes are the model's own (log 24). -/
def putMessage (s : State) (c : Cmd) (i : Nat) (b : Bulk) (k : Nat) : FabMsg :=
  let n := min putChunk (b.length - k * putChunk)
  let pa := b.src + k * putChunk
  let entries := if withEntries b then (List.range (n / 4096)).flatMap (fun g => toBytes 8 (sideEntry s (pa + 4096 * g)).toNat) else []
  { typ := if b.length ≤ (k + 1) * putChunk then 0x02 else 0x01, dst := b.dst, src := s.fabId, ttl := 0
    spec := bulkSpec c.tag i (toBytes 1 (b.target % 64 + b2n (withEntries b) * 64) ++ toBytes 8 (b.offset / 64) ++ toBytes 4 (b.length / 64) ++ toBytes 1 k)
    payload := readBytes s pa n ++ entries }

/-- The messages of a PUT leave in order. -/
def sendPut (s : State) (p : Nat) (c : Cmd) (i : Nat) (b : Bulk) : State :=
  (List.range ((b.length + putChunk - 1) / putChunk)).foldl (fun s k => sendOwn s p (putMessage s c i b k)) s

/-- BULK_PUT_SEND: an uncorrectable source ends the command (DESIGN CHOICE, log 27); a port that does not carry bulk data sends
nothing yet (R236, R246, R346). -/
def execBulkPutSend (tag : Nat) (i : Fetch) (s : State) : Answer :=
  match bulkAt s tag i.n with
  | none => .next s
  | some (c, b) =>
    match routePort s b.dst with
    | none => .next s
    | some p =>
      if b.put = false ∨ b.state ≠ 0 ∨ s.fabId = 0xFFF ∨ carriesType (portOf s p) 0x01 = false ∨ tramsOff s ∨
        earlierDone c i.n b (fun e => decide (1 ≤ e.state)) = false then .next s
      else
        let s := readEcc s b.src i.ecc
        if (readFault s b.src b.length i.ecc).isSome then .next (failUncorr s c) else .next (setBulk (sendPut s p c i.n b) c i.n 1)

/-- BULK_TALLY_SEND: after every earlier PUT to the destination has been answered. The link's own acknowledgement stands for the
entry's: it is complete when it leaves (R238, R245, R246; DEDUCED, log 28). -/
def execBulkTallySend (tag i : Nat) (s : State) : Answer :=
  match bulkAt s tag i with
  | none => .next s
  | some (c, b) =>
    match routePort s b.dst with
    | none => .next s
    | some p =>
      if b.put ∨ b.state ≠ 0 ∨ s.fabId = 0xFFF ∨ carriesType (portOf s p) 0x20 = false ∨
        earlierDone c i b (fun e => decide (2 ≤ e.state)) = false then .next s
      else
        let m : FabMsg := { typ := 0x20, dst := b.dst, src := s.fabId, ttl := 0
                            spec := toBytes 2 b.target ++ [if b.sub then 1 else 0, 0] ++ toBytes 4 b.n ++ toBytes 4 c.tag ++ toBytes 6 s.rnd.round ++ [0, 0] }
        .next (signalDone (setBulk (sendOwn s p m) c i 2) c b p)

/-- A landing window in effect: base, length, DONE tally, when its filter admits a sender (R247, R267). -/
def landFor (s : State) (w src : Nat) : Option (Nat × Nat × Nat) :=
  let l := tget s.lands {} w
  let c := l.ctl.toNat
  if bit c 0 ∧ (bit c 26 ∨ bits c 32 12 = src) then some (bits l.base.toNat 0 48, 2 ^ bits c 8 8, bits c 16 10) else none

/-- BULK_ACK to a sender (DESIGN CHOICE, log 24). -/
def sendBulkAck (s : State) (p : Nat) (m : FabMsg) (refused : Bool) : State :=
  sendOwn s p { typ := 0x03, dst := m.src, src := s.fabId, ttl := 0, spec := m.spec.take 6 ++ [if refused then 1 else 0] ++ List.replicate 13 (0 : Byte) }

/-- The data of a PUT lands at its place with its entries, or with PRESENT = 0 before them (R95, R247, R428; DESIGN CHOICE,
log 24). -/
def landPut (s : State) (pa : Nat) (data entries : List Byte) : State :=
  let grans := outGranules pa data.length
  if data = [] then s
  else if entries = [] then
    (stackArrive (grans.foldl (fun s g => (physAbsent s .bulk s.rnd.round g).1) s) .bulk s.rnd.round pa data).1
  else
    let s := (stackArrive s .bulk s.rnd.round pa data).1
    ((List.range grans.length).zip grans).foldl (fun s e =>
      (physEntry s .bulk s.rnd.round e.2 (BitVec.ofNat 64 (field entries (8 * e.1) 8))).1) s

/-- BULK_DATA: the whole PUT is held against its window and against the holes and regions of the device map; one that is refused writes
nothing and is answered at its last message (R247, R428; DESIGN CHOICE, log 24). -/
def execBulkData (p : Nat) (m : FabMsg) (last : Bool) (s : State) : Answer :=
  if (m.typ ≠ 0x01 ∧ m.typ ≠ 0x02) ∨ carries (portOf s p) = false ∨ consumes s m = false then .next s
  else if received s p m = false ∨ tramsOff s then .next (discardMsg s p)
  else
    let f := field m.spec
    let carried := bit (f 6 1) 6
    let n := if carried then m.payload.length / 4104 * 4096 else m.payload.length
    let off := 64 * f 7 8
    let len := 64 * f 15 4
    let pos := putChunk * f 19 1
    let id := f 0 6
    match landFor s (f 6 1 % 64) m.src with
    | none => .next (if last then sendBulkAck s p m true else s)
    | some (base, size, done) =>
      if size < off + len ∨ len < pos + n ∨ refusedWrite s .bulk (base + off) len then .next (if last then sendBulkAck s p m true else s)
      else
        let s := landPut s (base + off + pos) (m.payload.take n) (if carried then m.payload.drop n else [])
        let rest := s.puts.filter (fun e => decide (e ≠ (m.src, id)))
        if last then
          let s := signalOne { s with puts := rest } .device 0 done 1 false { source := 8, unit := p, tag := f 0 4 }
          .next (sendBulkAck s p m false)
        else .next { s with puts := rest ++ [(m.src, id)] }

/-- Entry i of a command that runs, or that has ended with the entry on its way (R246, R282). -/
def sentBulk (s : State) (tag i : Nat) : Option (Cmd × Bulk) :=
  match bulkAt s tag i with
  | some e => some e
  | none => ((s.cmds.filter (fun c => decide (c.tag = tag))).reverse.findSome? (fun c => (c.bulk[i]?).map (fun b => (c, b))))

/-- BULK_ACK: the entry is complete and DONE is signalled, or UAS_LAND is reported (R247, R249, R332; DESIGN CHOICE, log 24). -/
def execBulkAck (p tag i : Nat) (refused : Bool) (s : State) : Answer :=
  if carries (portOf s p) = false then .next s
  else if turnedAway s p true then .next (discardMsg s p)
  else
    match sentBulk s tag i with
    | none => .next s
    | some (c, b) =>
      if b.state ≠ 1 then .next s
      else if refused then .next (setBulk (addReport s c.tag 4 (i % 2 ^ 16)) c i 3)
      else .next (signalDone (setBulk s c i 2) c b p)

/-- BULK_ABORT: the PUT in progress ends, nothing is signalled, landed bytes stay (R248, R249). -/
def execBulkAbort (p src id : Nat) (s : State) : Answer :=
  if carries (portOf s p) = false then .next s
  else if turnedAway s p true then .next (discardMsg s p)
  else .next { s with puts := s.puts.filter (fun e => decide (e ≠ (src, id))) }

end Sys2Proof.Machine
end

