-- ==== Sys2Proof/Machine/Query.lean ====
section
/-! DEFINITION. The query port: slot choice, delivery, answers and VOIDs (R257 to R265). -/

namespace Sys2Proof.Machine

/-- Bridge hops from a headframe to a level (R16, R259). -/
def headHops (h n : Nat) : Nat := if h = 0 then n % 4 + 1 else 4 - n % 4

/-- T_out of a slot of reserved stope i for a query that came by port p (R262). -/
def answerTime (p i : Nat) : Nat := 40 + 75 * headHops (headOfPort p) (stopeLevel (reservedNumber i))

/-- Offsets of inbox and outbox slot k in the stope store (R260). -/
def inboxOffset (k : Nat) : Nat := 0x00FF0000 + 2048 * k
def outboxOffset (k : Nat) : Nat := 0x00FF8000 + 2048 * k

/-- The lowest free slot of reserved stope i. -/
def freeQslot (s : State) (i : Nat) : Option Nat := (List.range 16).find? (fun k => !(qslotOf s i k).busy)

/-- Reserved stope i may take a query of class mask `mask` (R259, R265). -/
def mayServe (s : State) (mask i : Nat) : Bool :=
  bit mask i && !tget s.qheld false i && (physHolding s (reservedNumber i)).isSome && (freeQslot s i).isSome

/-- The stope with the fewest hops, ties to the lower reserved index (R259; DEDUCED, log 38). -/
def chooseStope (s : State) (h mask : Nat) : Option Nat :=
  ((List.range s.conf.q).filter (mayServe s mask)).foldl (fun best i =>
    match best with
    | none => some i
    | some j => if headHops h (stopeLevel (reservedNumber i)) < headHops h (stopeLevel (reservedNumber j)) then some i else some j) none

/-- The reason for which an arriving query receives a VOID at once, none when a stope is to be chosen (R264; DEDUCED, log 38).
-/
def voidReason (s : State) (cls len : Nat) : Option Nat :=
  let w := (tget s.qclass 0 cls).toNat
  if s.flt.safeHalt then some 8
  else if s.quench then some 6
  else if asleep s then some 7
  else if 1984 < len then some 4
  else if bit w 16 = false ∨ bits w 0 16 = 0 then some 3
  else none

/-- The inbox slot of a query (R260). -/
def inboxBytes (m : FabMsg) (cls qid arrival voidAt : Nat) : List Byte :=
  toBytes 4 qid ++ toBytes 1 cls ++ [0] ++ toBytes 2 m.src ++ toBytes 2 m.payload.length ++ List.replicate 6 (0 : Byte) ++
  toBytes 8 arrival ++ toBytes 8 voidAt ++ List.replicate 32 (0 : Byte) ++ m.payload

/-- A query is given slot k of reserved stope i: the tram writes the inbox and signals stope tally 32 + k (R260, R261, R263). -/
def deliverQuery (s : State) (p : Nat) (m : FabMsg) (cls i k : Nat) : State :=
  let st := reservedNumber i
  let qid := field m.spec 4 4
  let voidAt := s.now + 5000 - answerTime p i
  let s := putQslot s i k { busy := true, qid := qid, cls := cls, port := p, src := m.src, arrival := s.now, voidAt := voidAt }
  let s := writeBytes (settle s st) (storeAddr st (inboxOffset k)) (inboxBytes m cls qid s.now voidAt)
  signalOne s .stope st (32 + k) 1 false { source := 2, unit := st }

/-- QUERY (R249, R259 to R261, R264, R266). -/
def execQuery (p : Nat) (m : FabMsg) (s : State) : Answer :=
  let x := portOf s p
  if m.typ ≠ 0x30 ∨ carries x = false ∨ consumes s m = false then .next s
  else if carriesType x m.typ = false ∨ cfgQuery x.live = false then .next (discardMsg s p)
  else
    let cls := field m.spec 0 1 % 8
    let qid := field m.spec 4 4
    match voidReason s cls m.payload.length with
    | some r => .next (sendVoid s p m.src qid r)
    | none =>
      match chooseStope s (headOfPort p) (bits (tget s.qclass 0 cls).toNat 0 16) with
      | none => .next (sendVoid s p m.src qid 2)
      | some i =>
        match freeQslot s i with
        | some k => .next (deliverQuery s p m cls i k)
        | none => .next (sendVoid s p m.src qid 2)

/-- The answer message of a slot; the time of departure lies inside T_out of the start of the read (R262; DEDUCED, log 38). -/
def answerMessage (s : State) (i k : Nat) (q : QSlot) : FabMsg :=
  let base := storeAddr (reservedNumber i) (outboxOffset k)
  let t := s.now - q.arrival + freeAt s 0 % (answerTime q.port i + 1)
  { typ := 0x31, dst := q.src, src := s.fabId, ttl := 0
    spec := toBytes 1 (readNat s (base + 2) 1) ++ [0, 0, 0] ++ toBytes 4 q.qid ++ toBytes 4 t ++ List.replicate 8 (0 : Byte)
    payload := readBytes s (base + 64) (readNat s base 2) }

/-- VOID LATE for a slot whose VOID_AT has passed unread (R263). -/
def voidLate (s : State) (i k : Nat) : State := voidSlot s i k 1

/-- ANSWER_COLLECT: the answer tally is taken and the outbox read; an answer after its VOID is discarded; a read that begins
in the VOID_AT cycle wins (R262, R263; DEDUCED, log 38). -/
def execAnswerCollect (i k : Nat) (s : State) : Answer :=
  let st := reservedNumber i
  let q := qslotOf s i k
  if q.busy = false ∨ s.conf.q ≤ i ∨ 16 ≤ k ∨ tramsOff s ∨ (tallyOf s .stope st (48 + k)).count = 0 then .next s
  else
    let s := signalOne (settle s st) .stope st (48 + k) 1 true { source := 2, unit := st }
    let s := if q.voidAt < s.now then voidLate s i k else s
    if (qslotOf s i k).voided then .next (putQslot { s with qLate := satAdd 32 s.qLate 1 } i k {})
    else if 1984 < readNat s (storeAddr st (outboxOffset k)) 2 then .next (putQslot (sendVoid s q.port q.src q.qid 5) i k {})
    else
      let m := answerMessage s i k q
      .next (putQslot { sendOwn (useFree s 1) q.port m with qServed := s.qServed + b2n (sendsFab s q.port m) } i k {})

/-- QUERY_VOID_LATE: no read has begun by the end of the VOID_AT cycle (R263; DEDUCED, log 38). -/
def execQueryVoidLate (i k : Nat) (s : State) : Answer :=
  let q := qslotOf s i k
  if q.busy ∧ q.voided = false then .next (voidLate (advance s q.voidAt) i k) else .next s

end Sys2Proof.Machine
end

