-- ==== Sys2Proof/Machine/Faults.lean ====
section
/-! DEFINITION. Faults and what the controllers do about them: the log (R350), retirement (R351 to R358), double and level faults
(R359, R360), the controllers and the canaries (R362 to R367). -/

namespace Sys2Proof.Machine

/-! ### Records (R349, R350) -/

/-- The logical stope whose store holds address pa. -/
def storeStope (s : State) (pa : Nat) : Option Nat := match locate s pa with | .store st _ => some st | .acc st .. => some st | _ => none

/-- A defect at a location of a physical stope is counted (R351; DEDUCED, log 36). -/
def countHit (s : State) (p : Nat) : State := modPhys s p (fun x => { x with hits := dayTimes s x.hits ++ [s.now] })

/-- A STORE_UNCORR record counts against the stope of its location, or of its UNIT (R351; DEDUCED, log 36). -/
def countRecord (s : State) (r : List Byte) : State :=
  if field r 0 2 ≠ fcStoreUncorr then s
  else
    match physHolding s ((storeStope s (field r 0x20 8)).getD (field r 4 2)) with
    | some p => countHit s p
    | none => s

/-- FAULT_RECORD_APPEND: a record that an overman submitted gets the physical stope and ends FLTREC's busy state; any other is
the controllers' own (R350; DEDUCED, log 36). -/
def execFaultRecordAppend (bs : List Byte) (s : State) : Answer :=
  let r := fixedBytes 64 bs
  if headsUp s = false then .next s
  else match s.flt.subm.find? (fun e => decide (e.2 = r)) with
  | some e =>
    let r := r.take 6 ++ toBytes 2 (physUnit s e.1) ++ r.drop 8
    let s := { s with flt := { s.flt with subm := s.flt.subm.erase e } }
    let s := modStope s e.1 (fun x => { x with fltBusy := s.flt.subm.any (fun g => decide (g.1 = e.1)) })
    .next (countRecord (appendRecord s r) r)
  | none => .next (countRecord (appendRecord s r) r)

/-! ### Stope retirement and remap (R22 to R24, R357, R358) -/

/-- Commands that the dispatcher holds for a logical stope: admitted and not yet running. -/
def heldFor (st : Nat) (c : Cmd) : Bool := bit c.desc.target st && decide (c.state = .admitted ∨ c.state = .preempted)

/-- The logical number becomes absent: held commands end with STOPE_ABSENT, the remap is over (R24, R357). -/
def becomeAbsent (s : State) (st : Nat) : State :=
  stateNote ((s.cmds.filter (heldFor st)).foldl (fun s c => endCommand s (sameCmd s c) fcStopeAbsent true) s) 4 0 st

/-- The lowest-numbered reserve stope of a level (R23). -/
def reserveOf (s : State) (n : Nat) : Option Nat :=
  ((List.range 22).map (fun i => 22 * n + i)).find? (fun p => decide ((physOf s p).state = 2))

/-- The next reserve stope takes over a logical number, or none is left or allowed (R22 to R24, R357). -/
def nextReserve (s : State) (st seq : Nat) : State :=
  match if s.conf.remap then reserveOf s (stopeLevel st) else none with
  | some p => modPhys s p (fun x => { x with logical := st, state := 3, seq := seq, testing := false })
  | none => becomeAbsent s st

/-- A physical stope leaves service for good: its map entry, the retirement list (R34, R352). -/
def markRetired (s : State) (p : Nat) : State :=
  let s := modPhys s p (fun x => { x with logical := 255, state := 4, testing := false })
  { s with flt := { s.flt with retStopes := if s.flt.retStopes.contains p then s.flt.retStopes else s.flt.retStopes ++ [p] } }

/-- What the logical stope holds goes with its physical stope: the new one's store, banks and entries are as never written
(R358, log 4). -/
def emptyStope (s : State) (st : Nat) : State :=
  let s := clearRange (clearRange (clearRange s (storeAddr st 0) (2 ^ 24)) (progAddr st 0) (2 ^ 19)) (ovmAddr st 0) (2 ^ 18)
  modStope s st (fun x => putAgent { x with side := [], micro := none } 16 {})

/-- Steps 1 and 2 of R357 for an active physical stope. -/
def retireStope (s : State) (p : Nat) : State :=
  let st := (physOf s p).logical
  if (physOf s p).state ≠ 1 then s
  else
    let s := endOnStopes (stopeReset s st) [st] 0x0702
    let seq := s.flt.count
    let s := logOpen s { code := 0x0702, source := 10, unit := st, phys := p, action := 4 }
    let s := match reservedIndex s st with | some i => { s with qheld := tset s.qheld false i true } | none => s
    let s := stateNote (markRetired (emptyStope s st) p) 4 1 st
    nextReserve s st seq

/-- One more failed self-test of a physical stope (R33, R348). -/
def testFailed (s : State) (p : Nat) : State :=
  let s := modPhys s p (fun x => { x with fails := min 255 (x.fails + 1), testing := false })
  logOpen s { code := 0x0701, source := 10, phys := p, action := 4 }

/-- A stope fails its self-test: an active one is retired and remapped, a reserve one only leaves service (R22, R357, R359, R360;
DEDUCED, log 36). -/
def failTest (s : State) (p : Nat) : State :=
  if (physOf s p).state = 2 then markRetired (testFailed s p) p else retireStope (testFailed s p) p

/-- Stopes fail their self-test: the reserve ones first, so that none of them takes over a number (R22; DEDUCED, log 36). -/
def failTests (s : State) (ps : List Nat) : State :=
  let reserve := fun (p : Nat) => decide ((physOf s p).state = 2)
  (ps.filter (fun p => !reserve p)).foldl failTest ((ps.filter reserve).foldl failTest s)

/-- The second-occurrence trigger of a stope (R351; DEDUCED, log 36). -/
def stopeTrigger (s : State) (p : Nat) : Bool := decide (2 ≤ (dayTimes s (physOf s p).hits).length)

/-- STOPE_RETIRE: the trigger of R351 stands for an active stope (R357; DEDUCED, log 36). -/
def execStopeRetire (phys : Nat) (s : State) : Answer := if stopeTrigger s phys then .next (retireStope s phys) else .next s

/-- REMAP_COMPLETE: the reserve stope holds the number and its overman starts, or it is retired in turn (R34, R357). -/
def execRemapComplete (phys : Nat) (pass : Bool) (s : State) : Answer :=
  let x := physOf s phys
  if x.state ≠ 3 then .next s
  else if pass then
    let s := modPhys s phys (fun x => { x with state := 1 })
    let s := stopeReset s x.logical
    .next (stateNote (traceRec s x.logical 0x0070 0 0 0x40 (x.seq % 2 ^ 32)) 4 0 x.logical)
  else .next (nextReserve (markRetired (testFailed s phys) phys) x.logical x.seq)

/-- SELF_TEST_DONE of a test in place (R22, R359, R360). -/
def execSelfTestDone (phys : Nat) (pass : Bool) (s : State) : Answer :=
  if (physOf s phys).testing = false then .next s
  else if pass then .next (modPhys s phys (fun x => { x with testing := false }))
  else .next (failTest s phys)

/-! ### Double faults and level faults (R359, R360) -/

/-- STOPE_DOUBLE_FAULT_RESET (R132, R359). -/
def execStopeDoubleFaultReset (st : Nat) (s : State) : Answer :=
  if (stopeOf s st).double = false then .next s
  else
    let s := endOnStopes s [st] 0x0703
    let s := logOpen s { code := 0x020B, source := 1, unit := st, phys := physUnit s st, action := 5 }
    let s := stopeReset s st
    match physHolding s st with
    | none => .next s
    | some p =>
      .next (modPhys s p (fun x =>
        let ts := dayTimes s x.doubles ++ [s.now]
        { x with doubles := ts, testing := x.testing || decide (2 ≤ ts.length) }))

/-- A level reset with its commands ended (R360, R361; DEDUCED, log 44). -/
def resetWholeLevel (s : State) (n : Nat) : State := levelReset (endOnLevel s n 0x0704) n

/-- The physical stopes of a level that a level reset tests: the active and the reserve ones (R22, R360). -/
def testedOn (s : State) (n : Nat) : List Nat :=
  ((List.range 22).map (fun i => 22 * n + i)).filter (fun p => decide ((physOf s p).state = 1 ∨ (physOf s p).state = 2))

/-- LEVEL_FAULT: the record, the level reset, the self-test of each of its stopes (R22, R360). -/
def execLevelFault (n : Nat) (s : State) : Answer :=
  if 8 ≤ n ∨ (levelOf s n).up = false then .next s
  else
    let s := resetWholeLevel (logOpen s { code := 0x0706, source := 10, unit := n, action := 6 }) n
    .next ((testedOn s n).foldl (fun s p => modPhys s p (fun x => { x with testing := true })) s)

/-- MONITOR_RETIRED (R342, R351). -/
def execMonitorRetired (n : Nat) (s : State) : Answer :=
  if 8 ≤ n ∨ (levelOf s n).monRetired ∨ headsUp s = false then .next s
  else
    let s := modLevel s n (fun l => { l with monRetired := true })
    .next (logOpen { s with flt := { s.flt with retMons := s.flt.retMons ++ [n] } } { code := 0x0705, source := 10, unit := n, action := 4 })

/-! ### HBM (R346, R351, R353 to R356) -/

/-- PATROL_SCRUB of a word of a pseudo-channel (R346). -/
def execPatrolScrub (k pc : Nat) (ecc : Ecc) (s : State) : Answer :=
  if 16 ≤ k ∨ 32 ≤ pc ∨ headsUp s = false then .next s
  else
    let s := hbmEcc s k pc ecc
    .next (if ecc = .bad then logOpen s { code := fcMemUncorr, source := 9, unit := k, phys := k + pc * 16, action := 1 } else s)

/-- A trigger has fallen on a pseudo-channel: its migration starts, or waits for the one under way, or no spill is left (R355, R356; DEDUCED,
log 36). -/
def startPcRetire (s : State) (k pc : Nat) : State :=
  let x := stackOf s k
  if bit x.retired pc ∨ x.migrating = some pc ∨ x.due.contains pc then s
  else if spillOf s k ≤ x.moved.length + b2n x.migrating.isSome + x.due.length then
    modStack (logOpen s { code := 0x0305, source := 10, unit := k, phys := k + pc * 16, action := 9 }) k (fun x => { x with exhausted := true })
  else if x.migrating.isSome then modStack s k (fun x => { x with due := x.due ++ [pc] })
  else modStack s k (fun x => { x with migrating := some pc })

/-- The triggers of R351 that counts give (DEDUCED, log 36). -/
def pcTrigger (s : State) (k pc : Nat) : Bool :=
  decide (64 < dayCount s (stackOf s k).pcCorr pc ∨ 2 ≤ dayCount s (stackOf s k).pcBad pc)

/-- PC_RETIRE (R351, R355, R356; DEDUCED, log 36). -/
def execPcRetire (k pc : Nat) (s : State) : Answer :=
  if k < 16 ∧ pc < 32 ∧ pcTrigger s k pc then .next (startPcRetire s k pc) else .next s

/-- PC_MIGRATION_DONE: contents keep their addresses, words that were uncorrectable are poisoned, the bit, the record and the note
follow, and the next pseudo-channel that waits begins (R29, R355). -/
def execPcMigrationDone (k : Nat) (bad : List Nat) (s : State) : Answer :=
  match (stackOf s k).migrating with
  | none => .next s
  | some pc =>
    let words := bad.filter (fun w => decide (pcOf (32 * w) = pc ∧ 32 * w < stackData))
    let s := modStack s k (fun x => { x with
      migrating := x.due.head?, due := x.due.drop 1, moved := x.moved ++ [pc], retired := x.retired ||| 2 ^ pc, poison := (x.poison ++ words).eraseDups })
    let s := { s with flt := { s.flt with retPcs := s.flt.retPcs ++ [(k, pc)] } }
    .next (logOpen s { code := 0x0304, source := 10, unit := k, phys := k + pc * 16, action := 4 })

/-- One granule of a location test: `bad` when its patterns did not read back (R353). -/
def testGranule (s : State) (pa : Nat) (bad : Bool) : State :=
  match locate s pa, bad with
  | .hbm k o, true => startPcRetire s k (pcOf o)
  | .store st _, true => (match physHolding s st with | some p => retireStope s p | none => s)
  | _, _ => s

/-- LOCATION_TEST after a TILE_CHECK record: failing granules retire their unit at once; when all pass the TILE_CHECK counts
toward its unit's trigger. Contents are restored (R353; DEDUCED, log 36). -/
def execLocationTest (pa bytes : Nat) (fails : List Nat) (s : State) : Answer :=
  let n := (pa % 1024 + bytes + 1023) / 1024
  let bad := (List.range n).filter (fun i => fails.contains i)
  if headsUp s = false then .next s
  else if bad = [] then
    match locate s pa with
    | .hbm k o => .next (modStack s k (fun x => { x with pcBad := dayAdd s x.pcBad (pcOf o) }))
    | .store st _ => (match physHolding s st with | some p => .next (countHit s p) | none => .next s)
    | _ => .next s
  else .next (bad.foldl (fun s i => testGranule s (pa / 1024 * 1024 + 1024 * i) true) s)

/-! ### Controllers (R362 to R365) -/

/-- The headframe of the active controller, none when neither is. -/
def activeHead (s : State) : Option Nat := if s.flt.h0Active then some 0 else if s.flt.h1Active then some 1 else none

/-- The longest run of missed heartbeats of controller h (R370). -/
def noteMissed (f : Faults) (h n : Nat) : Faults :=
  if h = 0 then { f with hbMissed0 := max f.hbMissed0 (min n 255) } else { f with hbMissed1 := max f.hbMissed1 (min n 255) }

/-- HEARTBEAT: due 100 µs after the last; a late one ends a run of missed ones (R363, R370). -/
def execHeartbeat (s : State) : Answer :=
  match activeHead s with
  | none => .next s
  | some h =>
    let s := advance s (s.flt.lastBeat + 100000)
    .next { s with flt := { noteMissed s.flt h ((s.now - s.flt.lastBeat) / 100000 - 1) with lastBeat := s.now } }

/-- Controller h fails now: a second failure within 24 h keeps it in reset (R365). -/
def failController (f : Faults) (h now : Nat) : Faults :=
  let again := f.ctlFails.any (fun e => decide (e.1 = h ∧ now ≤ e.2 + 86400000000000))
  { f with ctlFails := f.ctlFails ++ [(h, now)], dead := if again ∧ f.dead.contains h = false then h :: f.dead else f.dead }

/-- A takeover begins: 300 µs after the last heartbeat, or at once when the active controller h stops, and which of the two the row
stands for is a free value; MBX_READY reads 0 until it has ended (R343, R362, R364; DESIGN CHOICE, log 40). -/
def beginTakeover (s : State) (h : Nat) : State :=
  let s := if freeAt s 0 % 2 = 1 then useFree s 1 else advance (useFree s 1) (s.flt.lastBeat + 300000)
  let f := failController (noteMissed s.flt h ((s.now - s.flt.lastBeat) / 100000)) h s.now
  readyChanged s s.ep { f with h0Active := false, h1Active := false, standby := false, takeover := some (h, s.now) }

/-- The takeover has ended: roles, DEPUTY, the two records and the note, then what waited for a controller; a drain starts again (R343,
R364, R383; DEDUCED, log 40). -/
def endTakeover (s : State) (h : Nat) : State :=
  let waiting := s.flt.evq
  let s := readyChanged s { s.ep with deputy := decide (h = 0) } { s.flt with
    h0Active := decide (h = 1), h1Active := decide (h = 0), takeover := none, evq := [], takeovers := satAdd 8 s.flt.takeovers 1, lastBeat := s.now }
  let s := logOpen s { code := 0x0707, source := 11, unit := h, action := 7 }
  let s := logOpen s { code := 0x0709, source := 11, unit := 1 - h, action := 7 }
  restartDrain (waiting.foldl handleEvent (openNote s 5))

/-- CONTROLLER_TAKEOVER: it begins where a synchronised standby exists, and the next one ends it (R364; DESIGN CHOICE, log 40). -/
def execControllerTakeover (s : State) : Answer :=
  match s.flt.takeover, activeHead s with
  | some (h, _), _ => .next (endTakeover s h)
  | none, some h => if s.flt.standby ∧ s.flt.safeHalt = false then .next (beginTakeover s h) else .next s
  | none, none => .next s

/-- STANDBY_RESYNC: the failed controller is back as standby, unless it stays in reset (R365). -/
def execStandbyResync (pass : Bool) (s : State) : Answer :=
  match activeHead s with
  | none => .next s
  | some h => if pass ∧ s.flt.dead.contains (1 - h) = false then .next { s with flt := { s.flt with standby := true } } else .next s

/-- DEPUTY_FAIL: the standby controller stops (R362, R348, R365). -/
def execDeputyFail (s : State) : Answer :=
  match activeHead s with
  | none => .next s
  | some h =>
    if s.flt.standby = false then .next s
    else
      let s := { s with flt := { failController s.flt (1 - h) s.now with standby := false } }
      .next (logOpen s { code := 0x0708, source := 10, unit := 1 - h, action := 1 })

/-! ### Canaries (R366, R367) -/

/-- A canary's cause word after it commanded safe halt. -/
def canaryWord (w : Word32) (cause : Nat) : Word32 :=
  BitVec.ofNat 32 (cause % 16 + 2 ^ 4 + bits w.toNat 5 1 * 2 ^ 5 + (bits w.toNat 16 16 + 1) % 2 ^ 16 * 2 ^ 16)

/-- A port in safe halt: one that is up runs on its Vigil lane, one that trains goes down (R367; DEDUCED, log 36). -/
def haltPort (s : State) (p : Nat) : State :=
  match (portOf s p).state with
  | .up => toVigilLane s p
  | .training => dropPort s p
  | .retraining => dropPort s p
  | _ => s

/-- Safe halt, commanded by canary h with a cause: both cause words, the alert, every stope in hold, dispatch stopped, held
queries answered HALTED, the fatal error, every level in reset, the ports on their Vigil lanes; no controller runs on (R304, R314, R362,
R366, R367; DEDUCED, log 36). -/
def enterHalt (s : State) (h cause : Nat) : State :=
  let w0 := canaryWord s.flt.canary0 (if h = 0 then cause else 5)
  let w1 := canaryWord s.flt.canary1 (if h = 0 then 5 else cause)
  let s := setAlert { s with flt := { s.flt with canary0 := w0, canary1 := w1 } } 2
  let s := voidEvery (haltStopes s) 8
  let s := readyChanged s { s.ep with aerFatal := true, ready := false, cmdReady := false } { s.flt with
    safeHalt := true, haltNoted := false, h0Active := false, h1Active := false, standby := false, takeover := none, evq := [] }
  let s := { s with boot := { s.boot with steps := [], released := none } }
  let s := raiseCause s 9
  let s := (List.range 8).foldl levelReset (snapAbort s)
  (List.range 12).foldl haltPort s

/-- When the condition of a safe-halt cause comes about, none when it does not: no heartbeat for 300 µs once they have begun, a takeover not
ended 2 ms after it began, the active controller's stop without a standby, the mailbox not ready 2.5 s after a reset was released. The
other canary halts under cause 5 in the same command (R366; DEDUCED, log 36). -/
def haltTime (s : State) (cause : Nat) : Option Nat :=
  match cause with
  | 1 => if 0 < s.flt.lastBeat ∧ s.flt.takeover = none then some (s.flt.lastBeat + 300000) else none
  | 2 => s.flt.takeover.map (fun t => t.2 + 2000000)
  | 3 => if (activeHead s).isSome ∧ s.flt.standby = false then some s.now else none
  | 4 => s.boot.released.map (· + 2500000000)
  | _ => none

/-- SAFE_HALT: canary h sees one of its triggers (R366, R367). -/
def execSafeHalt (h cause : Nat) (s : State) : Answer :=
  match haltTime s cause with
  | none => .next s
  | some t => if s.flt.safeHalt ∨ 2 ≤ h ∨ s.pins.vauxOk = false then .next s else .next (enterHalt (advance s t) h cause)

/-- CANARY_LOST (R366, R370). -/
def execCanaryLost (h : Nat) (s : State) : Answer :=
  if 2 ≤ h ∨ s.pins.vauxOk = false then .next s
  else
    let mark := fun (w : Word32) => w ||| 0x20
    let f := s.flt
    let s := { s with flt := if h = 0 then { f with canary0 := mark f.canary0 } else { f with canary1 := mark f.canary1 } }
    .next (if (activeHead s).isSome then logOpen s { code := 0x070B, source := 12, unit := h, action := 1 } else s)

end Sys2Proof.Machine
end

