-- ==== Sys2Proof/Machine/Power.lean ====
section
/-! DEFINITION. Power states (R292, R293, R303), supply events (R294 to R297, R403, R404), thermal trip (R418, R423), the reset
and clock pins (R343, R407, R411, R412). -/

namespace Sys2Proof.Machine

/-! ### Power states (R292, R293) -/

/-- IDLE_ENTRY: after IDLE_DELAY of the condition (R292, R299; DEDUCED, log 29). -/
def execIdleEntry (s : State) : Answer :=
  if s.power ≠ .full ∨ s.powerNext.isSome ∨ tramsOff s ∨ idleHolds s = false then .next s
  else .next (setPower (advance s (s.busyAt + 1000 * bits s.nrg.cfg.toNat 8 16)) .idle)

/-- A port as the device enters Vigil: one that was up keeps its lowest lane and says so, one that trains goes down (R249; DEDUCED,
log 34). -/
def vigilPort (s : State) (p : Nat) : State :=
  match (portOf s p).state with
  | .up => toVigilLane s p
  | .vigil => s
  | .down => s
  | _ => dropPort s p

/-- The round clock in Vigil: it runs on; the commit regions, the notices and the gobs' rounds stand in domains that lose power (R37,
R293; DEDUCED, log 29). -/
def vigilRound (r : Round) : Round :=
  { r with
    cregBase := [], cregSize := [], liveBase := [], liveSize := [], dueBase := [], dueSize := []
    backfill := false, notices := [], fullRounds := [], quenchRound := none }

/-- Vigil is reached: queries held receive VOID FAULT, ports go to their Vigil lanes; AUX with the strap sample, AON and flash keep
what they hold, every other domain starts from reset (R37, R249, R264, R293, R303; DEDUCED, log 29; DESIGN CHOICE, log 4). -/
def vigilState (s : State) : State :=
  let s := (List.range 12).foldl vigilPort (voidEvery (endCycle (setPower s .vigil)) 6)
  let r := resetState s false false
  let r := { r with
    now := s.now, busyAt := s.busyAt, nrg := s.nrg, power := .vigil, fabId := s.fabId, presences := s.presences
    highLatch := s.highLatch, lowHeld := s.lowHeld, ports := s.ports, rnd := vigilRound s.rnd, boot := { aon := true }
    trust := { r.trust with bootSel := s.trust.bootSel } }
  readyChanged { r with ep := s.ep } { s.ep with ready := false, cmdReady := false, deputy := false } r.flt

/-- Doze is reached: the level cores lose power, the stores keep their contents (R37, R292, R293; DEDUCED, log 29). -/
def dozeState (s : State) : State :=
  let s := setPower s .doze
  (List.range 8).foldl levelReset (readyChanged s { s.ep with cmdReady := false } s.flt)

/-- Full is reached from Doze: level cores with microcode reloaded, the mapping unchanged (R293; DEDUCED, log 29). -/
def wakeDoze (s : State) : State :=
  let s := (List.range 8).foldl levelReset (setPower s .full)
  readyChanged s { s.ep with cmdReady := true } s.flt

/-- A Vigil lane goes back to full rate (R249). -/
def wakeLane (s : State) (p : Nat) : State :=
  if (portOf s p).state ≠ .vigil then s
  else
    let s := modPort s p (fun x => { x with state := .retraining, live := x.cfg, trainAt := s.now, capsSeen := false })
    sendRaw s p 1 (.caps p (ownCaps s (portOf s p)))

/-- A step of the bring-up or of an exit from Vigil, under the straps as AUX holds them (R37, R293, R303, R424; DESIGN CHOICE, log 19;
DEDUCED, log 29). -/
def runStep (s : State) (e : BootEnv) (x : BootStep) : State :=
  match x with
  | .aon => startAon s
  | .lanes => (List.range 12).foldl wakeLane s
  | .firmware => startFirmware s e
  | .level n => levelPowerUp e.stopeFails e.monFails s n
  | .mailbox => startMailbox s
  | .calibrate => if s.boot.fresh then e.laneFails.foldl failLane s else s
  | .memory =>
    let s := clearRange s 0 (2 ^ 40)
    if s.boot.fresh then e.pcFails.foldl failPc s else s
  | .drives => enumerateDrives s e
  | .ready =>
    let s := setPower { s with boot := { s.boot with fresh := false } } .full
    readyChanged s { s.ep with cmdReady := true } s.flt

/-- The next step of a bring-up ends at its time, unless SYSCLK has stopped (R407, R424). -/
def bootOn (s : State) (e : BootEnv) (x : BootStep) (rest : List BootStep) : State :=
  if s.boot.clkLost then s else runStep (advance { s with boot := { s.boot with steps := rest } } (stepTime s e x)) e x

/-- POWER_STATE_REACHED: the next step of a bring-up, or else a transition under way, ends (R292, R424; DESIGN CHOICE, log 19). -/
def execPowerStateReached (e : BootEnv) (s : State) : Answer :=
  match s.boot.steps, s.powerNext with
  | x :: rest, _ => .next (bootOn s e x rest)
  | [], none => .next s
  | [], some (p, t) =>
    let s := { advance s t with powerNext := none }
    if tramsOff s then .next s
    else
      match p, s.power with
      | .doze, _ => .next (dozeState s)
      | .vigil, _ => .next (vigilState s)
      | .full, .doze => .next (wakeDoze s)
      | _, _ => .next s

/-! ### Ebb (R294, R295) -/

/-- The supply supervision applies (R404). -/
def supervised (s : State) : Bool := s.pins.served && s.pins.vinOk && s.pins.vauxOk

/-- EBB_ENTER (R295). -/
def execEbbEnter (s : State) : Answer :=
  if supervised s = false ∨ s.ebb ∨ s.quench then .next s
  else
    let s := { s with ebb := true, nrg := { s.nrg with ebbs := satAdd 16 s.nrg.ebbs 1 } }
    let s := setAlert s 4
    if headsUp s then .next (applyDensity (weigh (stateNote (logOpen s { code := 0x0801, source := 13, action := 1 }) 2 1 0)))
    else .next s

/-- EBB_EXIT (R295). -/
def execEbbExit (s : State) : Answer :=
  if s.ebb = false then .next s
  else
    let s := { weigh s with ebb := false }
    .next (if headsUp s then applyDensity (stateNote s 2 0 0) else s)

/-! ### Quench (R296) -/

/-- The newest 64 trace records of a stope, oldest first (R296, R337). -/
def newestTrace (s : State) (st : Nat) : List (Nat × List Byte) :=
  let t := (stopeOf s st).trace
  let n := min 64 (min t.sinceClear t.count)
  (List.range n).map (fun i => (st, readBytes s (traceAddr st (32 * ((t.head + 8192 - n + i) % 8192))) 32))

/-- The records of the fault log, oldest first (R350). -/
def logRecords (s : State) : List (BitVec 512) :=
  let n := min 512 s.flt.count
  (List.range n).map (fun i => tget s.flt.log 0 ((s.flt.count - n + i) % 512))

/-- A quench counts, and the round in progress will drop (R296, R299). -/
def countQuench (s : State) : State :=
  { s with quench := true, rnd := { s.rnd with quenched := s.rnd.quenched || !s.rnd.decided }, nrg := { s.nrg with quenches := satAdd 16 s.nrg.quenches 1 } }

/-- The quench falls in the round in progress unless that is decided (R282, R296). -/
def dropForQuench (s : State) : State :=
  { s with rnd := { s.rnd with quenchRound := if s.rnd.decided then s.rnd.quenchRound else some s.rnd.round } }

/-- The fault log and the newest trace records go to record memory (R296). -/
def fillRecordMemory (s : State) : State :=
  { s with flt := { s.flt with recLog := logRecords s, recTrace := (List.range 160).flatMap (newestTrace s) } }

/-- The stopes halt and the queries end, the record and the alert are set, log and trace go to record memory, an ebb that ends is reported
(R264, R296, R334). -/
def noteQuench (s : State) (code : Nat) : State :=
  let s := fillRecordMemory (setAlert (logOpen (voidEvery (haltStopes s) 6) { code := code, source := 13, action := 1 }) 3)
  if s.ebb then stateNote s 2 0 0 else s

/-- The device is quenched; a bring-up under way ends (R296, R426). -/
def markQuenched (s : State) : State :=
  { s with
    power := .quenched, powerNext := none, ebb := false, boot := { s.boot with steps := [], released := none, again := !s.boot.steps.isEmpty } }

/-- The device stops in order: holds, VOID answers, copies in record memory, every level in reset; the round drops (R296,
R383). The level resets end the commands they meet (R343, R361; DEDUCED, log 42). -/
def quenchDevice (s : State) (code : Nat) : State :=
  let s := markQuenched (snapAbort (noteQuench (dropForQuench (countQuench s)) code))
  (List.range 8).foldl resetWholeLevel (readyChanged s { s.ep with cmdReady := false } s.flt)

/-- A quench before the controllers run: the steps of a bring-up stop (R426). In Vigil nothing is left to stop (R37; DEDUCED, log 42). -/
def quenchDark (s : State) : State :=
  let s := setAlert { countQuench s with powerNext := none, ebb := false } 3
  if s.boot.steps = [] then s
  else { s with power := .quenched, boot := { s.boot with steps := [], released := none, again := true } }

/-- A quench in the state that the device is in. In safe halt nothing is left to stop (R367; DEDUCED, log 42). -/
def startQuench (s : State) (code : Nat) : State :=
  if s.quench then s
  else if s.flt.safeHalt then setAlert (countQuench s) 3
  else if headsUp s then quenchDevice s code
  else quenchDark s

/-- QUENCH: the supply left its range, or the trip latch is set (R294, R296, R423; DEDUCED, log 42). -/
def execQuench (cause : QuenchCause) (s : State) : Answer :=
  if supervised s = false then .next s
  else
    match cause with
    | .trip => if s.pins.tripLatch then .next (startQuench s 0x0803) else .next s
    | _ => .next (startQuench s 0x0802)

/-- VIN_POWER_LOSS: a cold reset without the loss of VAUX (R297, R361). -/
def execVinPowerLoss (s : State) : Answer :=
  if s.pins.vinOk = false then .next s
  else
    let s := resetState s true false
    .next { s with pins := { s.pins with vinOk := false } }

/-- Every stack backfills what it saved for the round that a quench fell into (R297). -/
def backfillQuenched (s : State) : State :=
  match s.rnd.quenchRound with
  | none => s
  | some n =>
    let s := (List.range 16).foldl (fun s k =>
      backfillStack (modStack s k (fun x => { x with drops := if x.drops.contains n then x.drops else x.drops ++ [n] })) k) s
    { s with rnd := { s.rnd with quenchRound := none } }

/-- RETURN_TO_SERVICE: the levels leave reset and are self-tested, HBM comes back, the quenched round's gob is backfilled, commands are
accepted again; after a quench before step 15 the bring-up starts again, under the straps last sampled (R22, R297, R423, R426; DESIGN
CHOICE, log 19). A device that was in Vigil stays there (DEDUCED, log 42). -/
def execReturnToService (fails : List Nat) (s : State) : Answer :=
  if s.quench = false ∨ s.pins.tripLatch ∨ s.flt.safeHalt ∨ supervised s = false then .next s
  else
    let s := { s with quench := false, ebb := false }
    if s.boot.again then .next (beginBoot (resetState s false false) s.trust.bootSel)
    else if headsUp s = false then .next s
    else
      let s := (List.range 8).foldl levelReset (setPower s .full)
      let bad := (s.phys.filter (fun e => decide (e.2.state = 1 ∨ e.2.state = 2) && fails.contains e.1)).map (·.1)
      let s := backfillQuenched (failTests s bad)
      .next (readyChanged s { s.ep with cmdReady := true } s.flt)

/-! ### The supplies (R294, R403, R404) -/

/-- VAUX_LOSS: the whole device resets, AUX with its record memory and latches too (R37, R294, R404; DEDUCED, log 42). -/
def execVauxLoss (s : State) : Answer :=
  if s.pins.vauxOk = false then .next s
  else
    let vin := s.pins.vinOk
    let s := resetState s true true
    .next { s with pins := { s.pins with vinOk := vin, vauxOk := false } }

/-- VAUX_VALID: the AUX domain runs (R404). -/
def execVauxValid (s : State) : Answer := .next { s with pins := { s.pins with vauxOk := true } }

/-- The device waits for its supplies, or for RESET_N to rise. -/
def waitsForSupplies (s : State) : Bool :=
  decide (s.power = .starting) && s.boot.steps.isEmpty && s.boot.released.isNone && !s.boot.aon && !headsUp s && !s.flt.safeHalt

/-- RESET_N low keeps every VIN-derived domain but AON in reset (R411; DEDUCED, log 26). -/
def heldInReset (s : State) : State := startAon { s with pins := { s.pins with vinOk := true, vauxOk := true, served := true } }

/-- SUPPLIES_VALID: the bring-up begins, unless it has begun already or RESET_N is held low (R403, R411, R424; DEDUCED, log 42). -/
def execSuppliesValid (e : BootEnv) (s : State) : Answer :=
  if waitsForSupplies s = false then .next s
  else if s.pins.resetLow then .next (heldInReset s)
  else .next (beginBoot s e.bootSel)

/-- VIN_RANGE (R418; DESIGN CHOICE, log 20; DESIGN CHOICE, log 37). -/
def execVinRange (s : State) : Answer := if supervised s ∧ s.ebb = false ∧ s.quench = false then .next (setAlert s 7) else .next s

/-! ### Temperature (R418, R422, R423) -/

/-- THERM_TRIP: the latch and the alert; THERM_TRIP_N stands while the latch does; the device quenches (R423; DEDUCED, log
42). -/
def execThermTrip (s : State) : Answer :=
  if supervised s = false then .next s
  else .next (startQuench (setAlert { s with pins := { s.pins with tripLatch := true } } 1) 0x0803)

/-- JUNCTION_WARN: a level or headframe junction reads `temp` °C (R418; DESIGN CHOICE, log 20; DESIGN CHOICE, log 37). -/
def execJunctionWarn (level : Option Nat) (temp : Nat) (s : State) : Answer :=
  let known : Bool := match level with | some n => decide (n < 8) | none => true
  if known ∧ supervised s ∧ s.i3c.warn ≤ temp then .next (setAlert s 0) else .next s

/-! ### Pins (R343, R411, R412) -/

/-- RESET_N is low for lowNs more; `held`: it stays low (R411). -/
def pinLow (s : State) (lowNs : Nat) (held : Bool) : State :=
  { s with pins := { s.pins with resetLow := held, lowNs := if held then s.pins.lowNs + lowNs else 0, lowActed := held && s.pins.lowActed } }

/-- The pulse of RESET_N resets the device: 10 µs of it do, less than 1 µs does not, and between the two a free value decides as the pin
rises (R411; DEDUCED, log 42). -/
def pulseActs (s : State) (total : Nat) (held : Bool) : Bool :=
  s.pins.lowActed || decide (10000 ≤ total) || (!held && decide (1000 ≤ total ∧ total < 10000) && bit (freeAt s 0) 0)

/-- RESET_N: a pulse that is long enough resets the device, and the bring-up begins as the pin rises; while it stays low the device stays
in reset; no effect in safe halt (R367, R411; DEDUCED, log 42). -/
def execResetN (lowNs : Nat) (held : Bool) (e : BootEnv) (s : State) : Answer :=
  let total := s.pins.lowNs + lowNs
  let t := pinLow s lowNs held
  if s.flt.safeHalt ∨ supervised s = false then .next t
  else
    let acts := pulseActs s total held
    let t := if held = false ∧ s.pins.lowActed = false ∧ 1000 ≤ total ∧ total < 10000 then useFree t 1 else t
    if acts = false then .next t
    else if held then .next (if s.pins.lowActed then t else heldInReset (resetState { t with pins := { t.pins with lowActed := true } } false false))
    else .next (deviceReset t e)

/-- The endpoint's own state at reset: configuration space and MSI-X (R304, R343, R412). -/
def resetEndpoint (x : Endpoint) : Endpoint :=
  let fresh : Endpoint := {}
  { x with
    msixMask := [], msixEntry := [], pba := 0, aerFatal := false, command := fresh.command, bar0 := fresh.bar0, bar2 := fresh.bar2
    msixCtl := fresh.msixCtl, devCtl := fresh.devCtl }

/-- PERST_N: a reset of the endpoint; configuration space is served after it rises (R301, R412). -/
def execPerstN (s : State) : Answer :=
  if supervised s then .next { s with ep := { resetEndpoint s.ep with cfgServed := true } } else .next s

/-- PCIE_HOT_RESET (R343). -/
def execPcieHotReset (s : State) : Answer := if supervised s then .next { s with ep := resetEndpoint s.ep } else .next s

/-! ### Reference clocks (R407) -/

/-- A port whose clock stops goes down (R239, R407). -/
def clockLost (s : State) (p : Nat) : State :=
  match (portOf s p).state with
  | .down => s
  | .training => dropPort s p
  | _ => linkDown s p

/-- REFCLK_LOSS (R407): SYSCLK stops both controllers and a bring-up, which the canaries answer with safe halt (DESIGN CHOICE, log 20).
-/
def execRefclkLoss (clk : RefClk) (s : State) : Answer :=
  if supervised s = false then .next s
  else
    match clk with
    | .fab h => .next (((List.range 12).filter (fun p => decide (headOfPort p = h))).foldl clockLost s)
    | .pe => .next { s with ep := { s.ep with cfgServed := false } }
    | .sn =>
      let s := snapAbort s
      .next { s with snap := { s.snap with rate := 0, width := 0 } }
    | .sys =>
      .next (readyChanged { s with boot := { s.boot with clkLost := true } } { s.ep with ready := false, cmdReady := false, deputy := false }
        { s.flt with h0Active := false, h1Active := false, standby := false })

end Sys2Proof.Machine
end

