-- ==== Sys2Proof/Machine/Mailbox.lean ====
section
/-! DEFINITION. The mailboxes: indices and rings (R301, R311 to R314), sessions (R318 to R322), requests and their replies (R316,
R317, R330, R352, R368, R369). -/

namespace Sys2Proof.Machine

/-! ### Indices (R301, R311 to R314) -/

/-- The foreman serves the mailboxes: MBX_READY shows READY (R301, R303; DEDUCED, log 29). -/
def mailboxesOn (s : State) : Bool := !s.flt.safeHalt && s.ep.ready && (activeHead s).isSome

/-- A write of a request tail: new slots, or OVERRUN (R301, R313). -/
def writeReqTail (s : State) (m v : Nat) : State :=
  let x := mbxOf s m
  if mailboxesOn s = false then s
  else if 128 < ringDist (v % 2 ^ 16) x.reqHead then putMbx s m { x with overrun := true }
  else putMbx s m { x with reqTail := v % 2 ^ 16 }

/-- MBX_REQ_TAIL_WRITE. -/
def execMbxReqTailWrite (m : Nat) (v : Word32) (s : State) : Answer := if m < 8 then .next (writeReqTail s m v.toNat) else .next s

/-- A write of a response head: slots are freed and what waits is posted; a head outside the published slots is ignored (R313,
R314; DEDUCED, log 30). -/
def writeRspHead (s : State) (m v : Nat) : State :=
  let x := mbxOf s m
  if mailboxesOn s = false ∨ ringDist x.rspTail x.rspHead < ringDist (v % 2 ^ 16) x.rspHead then s
  else postPending (putMbx s m { x with rspHead := v % 2 ^ 16 }) m x.pend.length

/-- MBX_RSP_HEAD_WRITE. -/
def execMbxRspHeadWrite (m : Nat) (v : Word32) (s : State) : Answer := if m < 8 then .next (writeRspHead s m v.toNat) else .next s

/-- The session of a mailbox is closed; notes that wait go with it, replies and COMPLETIONs stay (R314, R318, R333). -/
def closeSession (x : Mbx) : Mbx :=
  { x with isOpen := false, lastSubmit := none, pend := x.pend.filter (fun m => decide (m.typ = 0x40) || !m.note) }

/-- FLUSH of a disabled mailbox: all four indices 0, the session closed (R311, R318). -/
def flushMbx (s : State) (m : Nat) : State :=
  if (mbxOf s m).enable then s
  else modMbx s m (fun x => { closeSession x with reqTail := 0, reqHead := 0, rspHead := 0, rspTail := 0 })

/-- MBX_FLUSH (DESIGN CHOICE, log 43). -/
def execMbxFlush (m : Nat) (s : State) : Answer := if m < 8 then .next (flushMbx s m) else .next s

/-- MBX_COAL_HOLDOFF: the hold-off of the first slot not covered has passed (R312). -/
def execMbxCoalHoldoff (m : Nat) (s : State) : Answer :=
  let x := mbxOf s m
  if m < 8 ∧ 0 < x.uncovered ∧ x.coal.toNat ≠ 0 then .next (coverSlots (advance s (x.uncoveredAt + 1000 * bits x.coal.toNat 0 16)) m)
  else .next s

/-! ### Serving a request (R310, R313, R316, R317) -/

/-- The payload of a request: LEN bytes. -/
def payloadOf (r : Req) : List Byte := fixedBytes r.len r.payload

/-- The header of a request without CHECK (R316). -/
def reqHeader (typ : Nat) (r : Req) : List Byte :=
  toBytes 1 r.version ++ toBytes 1 typ ++ toBytes 2 r.seq ++ toBytes 4 r.len ++ toBytes 2 r.status ++ toBytes 2 r.flags ++
  toBytes 4 r.tag ++ toBytes 2 r.epoch ++ toBytes 6 r.round ++ toBytes 2 r.reqSeq ++ List.replicate 34 (0 : Byte)

/-- The foreman takes a request of mailbox m now: enabled, a slot exposed, fewer than 4,096 messages pending (R311, R313, R314). -/
def served (s : State) (m : Nat) : Bool :=
  let x := mbxOf s m
  decide (m < 8) && mailboxesOn s && x.enable && decide (x.reqHead ≠ x.reqTail) && decide (x.pend.length < 4096)

/-- The request slot is consumed. -/
def consume (s : State) (m : Nat) : State := modMbx s m (fun x => { x with reqHead := (x.reqHead + 1) % 2 ^ 16 })

/-- What the session makes of a request before its type does: NO_SESSION, CHECK, BAD_FIELD, BAD_TYPE; none when it stands (R317,
R319; the order is the model's, log 30). -/
def sessionStatus (x : Mbx) (typ minVer : Nat) (r : Req) : Option Nat :=
  if x.isOpen = false then some 4
  else if x.version = 3 ∧ r.len ≤ 192 ∧ (crc32c (reqHeader typ r ++ payloadOf r)).toNat ≠ r.check then some 8
  else if r.version ≠ x.version ∨ 192 < r.len then some 3
  else if x.version < minVer then some 2
  else none

/-- A reply (R316, R317). -/
def reply (s : State) (m typ version status tag epoch : Nat) (r : Req) (payload : List Byte) : State :=
  post s { mbx := m, typ := typ ||| 0x80, version := version, status := status, tag := tag, epoch := epoch, reqSeq := r.seq, payload := payload }

/-- A request of a type that versions from minVer carry, a reserved one in none: `check` gives status and reply payload, `act` what
an OK one does after its reply. `about`: tag and epoch of the command that the message concerns, 0 where there is none (R316, R317;
DEDUCED, log 30). -/
def request (s : State) (m typ minVer : Nat) (about : Nat × Nat) (r : Req) (check : State → Nat × List Byte) (act : State → State) : State :=
  if served s m = false then s
  else
    let x := mbxOf s m
    let s := consume s m
    let ver := if x.isOpen then x.version else min (max r.version 1) 3
    let typ := r.reserved.getD typ
    match sessionStatus x typ (if r.reserved.isSome then 4 else minVer) r with
    | some st => reply s m typ ver st about.1 about.2 r []
    | none =>
      let c := check s
      let s := reply s m typ ver c.1 about.1 about.2 r c.2
      if c.1 = 0 then act s else s

/-- OK when the request has n payload bytes and p holds, the given status where only p fails. -/
def lenThen (r : Req) (n status : Nat) (p : Bool) : Nat × List Byte :=
  if r.len ≠ n then (3, []) else if p then (0, []) else (status, [])

/-- Field of a request's payload. -/
def pay (r : Req) (lo n : Nat) : Nat := field (payloadOf r) lo n

/-! ### Sessions (R318 to R320) -/

/-- VERSION of the running firmware (R319, R391). -/
def fwVersion (s : State) : Nat := slotVersion (fwSlot s.trust s.trust.runningB)

/-- The HELLO reply (R319). -/
def helloBytes (s : State) (v qid : Nat) : List Byte :=
  toBytes 1 v ++ [3] ++ toBytes 2 qid ++ toBytes 4 (fwVersion s) ++ toBytes 2 0x8160 ++ [128, 3] ++ toBytes 1 (activeStopes s) ++
  toBytes 1 s.conf.q ++ List.replicate 10 (0 : Byte)

/-- The reply of an opening HELLO goes before the notes that waited for a session, unless the ring has no room (R314, R318;
DEDUCED, log 30). -/
def openReply (s : State) (m : Nat) (msg : Msg) : State := postPending (post s msg) m ((mbxOf s m).pend.length + 1)

/-- HELLO: every one is counted; a session opens in the highest common version, or the mailbox stays as it was (R318 to R320;
DEDUCED, log 30). -/
def execHello (m : Nat) (r : Req) (s : State) : Answer :=
  if served s m = false then .next s
  else if r.reserved.isSome then .next (request s m 0x01 1 (0, 0) r (fun _ => (2, [])) (fun s => s))
  else
    let x := mbxOf s m
    let s := putMbx (consume s m) m { x with reqHead := (x.reqHead + 1) % 2 ^ 16, hellos := x.hellos + 1 }
    let lo := pay r 0 1
    let hi := pay r 1 1
    let v := min hi 3
    let old := min (max r.version 1) 3
    if r.len ≠ 24 ∨ lo = 0 ∨ hi < lo ∨ pay r 2 6 ≠ 0 then .next (reply s m 1 old 3 0 0 r [])
    else if v < lo then .next (reply s m 1 old 1 0 0 r [])
    else
      let qid := m * 4096 + x.hellos % 4096
      let s := modMbx s m (fun x => { closeSession x with
        isOpen := true, qid := qid, version := v, nextSeq := 0, epoch := 0, driver := (payloadOf r).drop 8 })
      .next (openReply s m { mbx := m, typ := 0x81, version := v, reqSeq := r.seq, payload := helloBytes s v qid })

/-- BYE (R318). -/
def execBye (m : Nat) (r : Req) (s : State) : Answer :=
  .next (request s m 0x02 1 (0, 0) r (fun _ => lenThen r 0 0 true) (fun s => modMbx s m closeSession))

/-! ### Commands (R317, R320 to R322, R330) -/

/-- Descriptor i of a SUBMIT. -/
def submitted (r : Req) (i : Nat) : Desc := descOf (((payloadOf r).drop (64 * i)).take 64)

/-- The tag of the session's i-th next command (R321). -/
def nextTag (x : Mbx) (i : Nat) : Nat := x.qid * 65536 + (x.nextSeq + i) % 65536

/-- An extended tag: epoch above sequence (R322). -/
def extTag (epoch tag : Nat) : Nat := epoch % 65536 * 65536 + tag % 65536

/-- The latest of several commands of one tag, by serial-number order of their extended tags (R322). -/
def latestOf (cs : List Cmd) : Option Cmd :=
  cs.foldl (fun best c => match best with
    | none => some c
    | some b => if precedes32 (extTag b.epoch b.tag) (extTag c.epoch c.tag) ∨ b.epoch = c.epoch then some c else some b) none

/-- The command that a request names: in version 3 by tag and EPOCH, before it the latest of the tag (R316, R322; DEDUCED, log 30). -/
def cmdNamed (s : State) (m : Nat) (r : Req) (tag : Nat) : Option Cmd :=
  latestOf (s.cmds.filter (fun c => decide (c.tag = tag) && (decide ((mbxOf s m).version ≠ 3) || decide (c.epoch = r.epoch))))

/-- Tag and epoch of the command that a request names, the request's own EPOCH where there is no such command (R316; DESIGN CHOICE, log
30). -/
def namedTag (s : State) (m : Nat) (r : Req) (tag : Nat) : Nat × Nat :=
  (tag, match cmdNamed s m r tag with | some c => c.epoch | none => r.epoch)

/-- Tag and epoch of a SUBMIT: those of its repeated predecessor, or of the session's next command (R316, R321, R322). -/
def submitTag (x : Mbx) (r : Req) : Nat × Nat :=
  (r.tag, if x.lastSubmit.any (fun p => decide (p.1 = r.tag)) then x.lastEpoch else if r.tag = nextTag x 0 then x.epoch else r.epoch)

/-- Answer to a SUBMIT: BUSY before the device accepts commands (DEDUCED, log 30), BAD_FIELD for a format that the version does
not accept, DUP, TAG_SEQ, or OK (R317, R319, R321). -/
def submitStatus (s : State) (m : Nat) (r : Req) : Nat :=
  let x := mbxOf s m
  let n := r.len / 64
  let ds := (List.range n).map (submitted r)
  let first := ((ds.map (·.tag))[0]?).getD 0
  if r.len % 64 ≠ 0 ∨ n = 0 ∨ 3 < n ∨ (x.version = 1 ∧ ds.any (fun d => decide (d.fmt = 3))) then 3
  else if s.ep.cmdReady = false then 7
  else if r.tag = first ∧ x.lastSubmit = some (first, n) then 6
  else if r.tag = first ∧ ds.map (·.tag) = (List.range n).map (nextTag x) then 0
  else 5

/-- One accepted command enters its queue with its extended round and epoch (R270, R321, R322). -/
def acceptCmd (s : State) (m : Nat) (d : Desc) (epoch : Nat) : State :=
  let x := mbxOf s m
  let w := extendRound d.wire s.rnd.round
  let c : Cmd := { desc := d, tag := d.tag, epoch := epoch, mbx := m, session := x.qid, version := x.version, order := s.nextOrder
                   round := (w % (2 ^ 48 : Int)).toNat, past := decide (w < 0) }
  { s with cmds := s.cmds ++ [c], nextOrder := s.nextOrder + 1 }

/-- Every descriptor of an accepted SUBMIT is queued. -/
def acceptAll (s : State) (m : Nat) (r : Req) : State :=
  let x := mbxOf s m
  let n := r.len / 64
  let s := (List.range n).foldl (fun s i => acceptCmd s m (submitted r i) ((x.epoch + (x.nextSeq + i) / 65536) % 65536)) s
  modMbx s m (fun y => { y with
    nextSeq := (x.nextSeq + n) % 65536, epoch := (x.epoch + (x.nextSeq + n) / 65536) % 65536, lastSubmit := some (nextTag x 0, n), lastEpoch := x.epoch })

/-- SUBMIT (R321, R322; DEDUCED, log 30). -/
def execSubmit (m : Nat) (r : Req) (s : State) : Answer :=
  .next (request s m 0x10 1 (submitTag (mbxOf s m) r) r (fun s => (submitStatus s m r, [])) (fun s => acceptAll s m r))

/-- CANCEL (R330). -/
def execCancel (m : Nat) (r : Req) (s : State) : Answer :=
  let tag := pay r 0 4
  .next (request s m 0x11 1 (namedTag s m r tag) r
    (fun s => match cmdNamed s m r tag with
      | none => lenThen r 4 3 false
      | some c => lenThen r 4 7 (decide (c.state = .queued)))
    (fun s => match cmdNamed s m r tag with
      | none => s
      | some c => finishCmd s c 4 0))

/-- The state code of a STATUS reply (R317). -/
def statusCode (c : Cmd) : Nat :=
  match c.state with | .queued => 1 | .admitted => 2 | .running => 3 | .preempting => 3 | .preempted => 2 | .finished => 4

/-- STATUS (R317; DEDUCED, log 30). -/
def execStatus (m : Nat) (r : Req) (s : State) : Answer :=
  let tag := pay r 0 4
  .next (request s m 0x12 1 (namedTag s m r tag) r
    (fun s =>
      if r.len ≠ 4 then (3, [])
      else match cmdNamed s m r tag with
        | none => (0, List.replicate 16 (0 : Byte))
        | some c => (0, toBytes 8 (statusCode c) ++ toBytes 8 (if c.everStarted then c.start else 0)))
    (fun s => s))

/-! ### Budget, identifier, power (R287, R292, R317) -/

/-- A write of NRG_BUDGET_NEXT (R287). -/
def writeBudget (s : State) (v : Nat) : State := { s with nrg := { s.nrg with budgetNext := v % 2 ^ 32, budgetNew := true } }

/-- SET_BUDGET (R317). -/
def execSetBudget (m : Nat) (r : Req) (s : State) : Answer :=
  .next (request s m 0x20 2 (0, 0) r (fun _ => lenThen r 4 0 true) (fun s => writeBudget s (pay r 0 4)))

/-- SET_FAB_ID: 12 bits (R244, R317). -/
def execSetFabId (m : Nat) (r : Req) (s : State) : Answer :=
  .next (request s m 0x22 2 (0, 0) r (fun _ => lenThen r 2 3 (decide (pay r 0 2 < 4096))) (fun s => recountPorts (setFabId s (pay r 0 2))))

/-- A command is admitted or running. -/
def working (s : State) : Bool := s.cmds.any isAdmitted

/-- Why the foreman refuses Doze and Vigil (R292). -/
def mustStay (s : State) : Bool :=
  working s || (List.range 8).any (fun n => decide (0 < slotsLoaded (hoistOf s n))) || !s.puts.isEmpty || decide (s.snap.op = 3) || s.ebb ||
  tramsOff s || !noTransition s || decide (s.power = .vigil)

/-- A POWER request: another row's value is not this row's request; a value that no row has is BAD_FIELD (R292, R317; DEDUCED,
log 29; DEDUCED, log 30; DESIGN CHOICE, log 43). -/
def powerRequest (s : State) (m : Nat) (r : Req) (value : Nat) (check : State → Bool) (act : State → State) : State :=
  if r.len = 1 ∧ pay r 0 1 ≠ value ∧ [0, 2, 3].contains (pay r 0 1) then s
  else
    request s m 0x21 2 (0, 0) r
      (fun s => if r.len = 1 ∧ pay r 0 1 ≠ value then (3, []) else lenThen r 1 7 (check s)) act

/-- POWER_WAKE: a device in Full or Idle has nothing to do. In Vigil no mailbox serves: the request starts the exit, and neither it nor an
index takes effect otherwise (R292, R301, R303; DEDUCED, log 29). -/
def execPowerWake (m : Nat) (r : Req) (s : State) : Answer :=
  if s.power = .vigil then
    .next (if m < 8 ∧ r.reserved = none ∧ r.len = 1 ∧ pay r 0 1 = 0 ∧ noTransition s ∧ tramsOff s = false then startWake s else s)
  else .next (powerRequest s m r 0 (fun _ => true) (fun s => if asleep s ∧ noTransition s ∧ tramsOff s = false then startWake s else s))

/-- POWER_DOZE: Doze is reached 1 ms later at the earliest (R292). -/
def execPowerDoze (m : Nat) (r : Req) (s : State) : Answer :=
  .next (powerRequest s m r 2 (fun s => !mustStay s)
    (fun s => if s.power = .doze then s else { s with powerNext := some (.doze, s.now + 1000000) }))

/-- POWER_VIGIL: Vigil is reached 5 ms later at the earliest (R292). -/
def execPowerVigil (m : Nat) (r : Req) (s : State) : Answer :=
  .next (powerRequest s m r 3 (fun s => !mustStay s) (fun s => { s with powerNext := some (.vigil, s.now + 5000000) }))

/-! ### Faults and resets (R350, R352, R361, R368, R369) -/

/-- Log record of sequence n, while the ring holds it. -/
def logRecord (s : State) (n : Nat) : Option (BitVec 512) :=
  if n < s.flt.count ∧ s.flt.count ≤ n + 512 then some (tget s.flt.log 0 (n % 512)) else none

/-- Record n of the flash history, counted from its first (DESIGN CHOICE, log 30), while it stands. -/
def historyRecord (s : State) (n : Nat) : Option (BitVec 512) :=
  if n < s.flt.histCount then s.flt.history[s.flt.histCount - 1 - n]? else none

/-- The reply of LOG_READ: up to three records from the first sequence on (R368). -/
def logBytes (s : State) (w : Nat) : List Byte :=
  let first := w % 2 ^ 31
  ([first, first + 1, first + 2].filterMap (fun n => if bit w 31 then historyRecord s n else logRecord s n)).flatMap (fun v => toBytes 64 v.toNat)

/-- LOG_READ (DEDUCED, log 30). -/
def execLogRead (m : Nat) (r : Req) (s : State) : Answer :=
  .next (request s m 0x51 2 (0, 0) r (fun s => if r.len ≠ 4 then (3, []) else (0, logBytes s (pay r 0 4))) (fun s => s))

/-- A RESET request of a kind (R368; DEDUCED, log 30). -/
def resetRequest (s : State) (m : Nat) (r : Req) (kind : Nat) (ok : Nat → Bool) (act : State → Nat → State) : State :=
  if r.len = 3 ∧ pay r 0 1 ≠ kind ∧ [1, 2, 3].contains (pay r 0 1) then s
  else
    request s m 0x52 2 (0, 0) r (fun _ => lenThen r 3 3 (decide (pay r 0 1 = kind) && ok (pay r 1 2))) (fun s => act s (pay r 1 2))

/-- RESET_DEVICE (R361, R368). -/
def execResetDevice (m : Nat) (r : Req) (e : BootEnv) (s : State) : Answer :=
  .next (resetRequest s m r 1 (fun _ => true) (fun s _ => deviceReset s e))

/-- A level reset at request, its commands ended, the stopes that fail the test after it retired (R360, R361; DEDUCED, log
44). -/
def resetLevelNow (fails : List Nat) (s : State) (n : Nat) : State :=
  let s := resetWholeLevel s n
  failTests s ((testedOn s n).filter (fun p => fails.contains p))

/-- RESET_LEVEL. -/
def execResetLevel (m : Nat) (r : Req) (fails : List Nat) (s : State) : Answer :=
  .next (resetRequest s m r 2 (fun n => decide (n < 8)) (resetLevelNow fails))

/-- RESET_STOPE: the commands of the stope end with STOPE_RESET (R343, R361). -/
def execResetStope (m : Nat) (r : Req) (s : State) : Answer :=
  .next (resetRequest s m r 3 (fun n => decide (n < 160)) (fun s n => stopeReset (endOnStopes s [n] 0x0703) n))

/-- n bits, the i-th set where p i. -/
def bitmap (n : Nat) (p : Nat → Bool) : Nat := (List.range n).foldl (fun w i => w + b2n (p i) * 2 ^ i) 0

/-- The reply of RETIRE_READ (R368). -/
def retireBytes (s : State) : List Byte :=
  toBytes 6 (bitmap 48 (fun i => s.flt.retLanes.contains i)) ++
  (List.range 16).flatMap (fun k => toBytes 4 (bitmap 32 (fun j => s.flt.retPcs.contains (k, j)))) ++
  toBytes 22 (bitmap 176 (fun i => s.flt.retStopes.contains i))

/-- RETIRE_READ. -/
def execRetireRead (m : Nat) (r : Req) (s : State) : Answer :=
  .next (request s m 0x53 2 (0, 0) r (fun s => if r.len ≠ 0 then (3, []) else (0, retireBytes s)) (fun s => s))

/-- RETIRE_CLEAR (R352, R368). -/
def execRetireClear (m : Nat) (r : Req) (s : State) : Answer :=
  .next (request s m 0x54 3 (0, 0) r (fun _ => lenThen r 0 0 true) (fun s => { s with flt := { s.flt with clearAtReset := true } }))

/-- Recovery mode begins or ends: the monitors' figures stand at their values of now and count from there on (R342, R369). -/
def setRecovery (s : State) (on : Bool) : State :=
  let s := markMonitors s
  markMonitors (readyChanged s s.ep { s.flt with recovery := on })

/-- A RECOVERY request of a value (R368, R369; DEDUCED, log 30). -/
def recoveryRequest (s : State) (m : Nat) (r : Req) (value : Nat) : State :=
  if r.len = 1 ∧ pay r 0 1 ≠ value ∧ pay r 0 1 < 2 then s
  else
    request s m 0x55 3 (0, 0) r
      (fun s => if r.len = 1 ∧ pay r 0 1 ≠ value then (3, []) else lenThen r 1 7 (!working s))
      (fun s => if s.flt.recovery = decide (value = 1) then s else setRecovery s (decide (value = 1)))

/-- RECOVERY_ENTER. -/
def execRecoveryEnter (m : Nat) (r : Req) (s : State) : Answer := .next (recoveryRequest s m r 1)

/-- RECOVERY_LEAVE. -/
def execRecoveryLeave (m : Nat) (r : Req) (s : State) : Answer := .next (recoveryRequest s m r 0)

end Sys2Proof.Machine
end

