-- ==== Sys2Proof/Machine/Snapshot.lean ====
section
/-! DEFINITION. Snapshots: plans (R375 to R377, R381), staging (R378, R379), the drain (R380 to R384), restores (R385, R386); and
what the foreman does for identity and firmware: quotes, certificates, updates (R389, R391 to R396). -/

namespace Sys2Proof.Machine

/-! ### Granules and segments (R376 to R378, R381) -/

/-- The data offsets of stack k that the 4 KiB granules of a range cover: first and length (R27, R378). -/
def granuleSpan (base size k : Nat) : Nat × Nat :=
  if base < 2 ^ 40 then (if base / 2 ^ 36 = k then (base % 2 ^ 36, size) else (0, 0))
  else
    let a := (base - 2 ^ 40) / 4096
    let b := a + size / 4096
    let first := a + (k + 16 - a % 16) % 16
    if first < b then (first / 16 * 4096, (b - first + 15) / 16 * 4096) else (0, 0)

/-- Bytes of a list of ranges in stack k. -/
def stackBytes (rs : List (Nat × Nat)) (k : Nat) : Nat := rs.foldl (fun n r => n + (granuleSpan r.1 r.2 k).2) 0

/-- Every stack's stage holds the granules of a list of ranges (R377, R386). -/
def stageHolds (s : State) (rs : List (Nat × Nat)) : Bool := (List.range 16).all (fun k => decide (stackBytes rs k ≤ s.conf.stage * 2 ^ 30))

/-- The granules of a list of ranges, in ascending data offset of each stack (R378). -/
def granuleList (rs : List (Nat × Nat)) : List (Nat × Nat) :=
  (List.range 16).flatMap (fun k =>
    (((rs.map (fun r => granuleSpan r.1 r.2 k)).filter (fun v => decide (0 < v.2))).foldr insertSpan []).flatMap
      (fun v => (List.range (v.2 / 4096)).map (fun i => (k, v.1 + 4096 * i))))

/-- A region of a plan or manifest lies in HBM data outside stages, spills and gobs (R375, R386). -/
def regionLies (s : State) (r : Nat × Nat) : Bool :=
  decide (0 < r.2) && inHbm s r.1 r.2 &&
  (List.range 16).all (fun k =>
    let v := granuleSpan r.1 r.2 k
    !spansMeet v.1 v.2 (stackOf s k).gobBase (gobSpan (stackOf s k).gobCap))

/-- The segments of a region list: region, offset, length (R376). -/
def segmentsIn (rs : List (Nat × Nat)) : List (Nat × Nat × Nat) :=
  ((List.range rs.length).zip rs).flatMap (fun e =>
    (List.range ((e.2.2 + 2 ^ 26 - 1) / 2 ^ 26)).map (fun j => (e.1, j * 2 ^ 26, min (2 ^ 26) (e.2.2 - j * 2 ^ 26))))

/-- First LBA of segment i in a slot (R380, R381). -/
def segLba (n : Snap) (slot i : Nat) : Nat := slot * n.half + 1024 + i / n.drives * 16416

/-- A snapshot of n segments fits its slot (R381). -/
def slotFits (n : Snap) (count : Nat) : Bool :=
  decide (0 < n.drives) && decide (1024 + (count + n.drives - 1) / n.drives * 16416 ≤ n.half)

/-! ### Plans (R375) -/

/-- Formats whose tensors carry an assay record. -/
def narrowFormat (f : Nat) : Bool := decide (4 ≤ f ∧ f ≤ 8)

/-- A range lies wholly within one region. -/
def withinOne (rs : List (Nat × Nat)) (pa n : Nat) : Bool := rs.any (fun r => decide (r.1 ≤ pa ∧ pa + n ≤ r.1 + r.2))

/-- A tensor keeps the rules of R375. -/
def tensorOk (rs : List (Nat × Nat)) (bs : List Byte) : Bool :=
  let t := tensorOf bs
  decide (t.pa < 2 ^ 48 ∧ t.recPa < 2 ^ 48 ∧ field bs 0x11 7 = 0 ∧ t.recPa % 128 = 0) && withinOne rs t.pa t.bytes &&
  (if narrowFormat t.fmt then decide (t.recPa ≠ 0) && withinOne rs t.recPa 128 else decide (t.recPa = 0))

/-- Two regions share a stack granule. -/
def regionsShare (rs : List (Nat × Nat)) : Bool :=
  (List.range rs.length).any (fun i => (List.range i).any (fun j =>
    match rs[i]?, rs[j]? with
    | some a, some b => (List.range 16).any (fun k => spansMeet (granuleSpan a.1 a.2 k).1 (granuleSpan a.1 a.2 k).2 (granuleSpan b.1 b.2 k).1 (granuleSpan b.1 b.2 k).2)
    | _, _ => false))

/-- The plan at an address: its regions and tensors, or the result with which the foreman refuses it (R375, R377; DEDUCED, log
31). -/
def planOf (s : State) (pa : Nat) : List (Nat × Nat) × List Tensor × Nat :=
  let head := readBytes s pa 64
  let nreg := field head 0 2
  let nten := field head 4 4
  if nreg = 0 ∨ 64 < nreg ∨ 16384 < nten ∨ field head 2 2 ≠ 0 ∨ field head 8 56 ≠ 0 ∨ inHbm s pa (64 + 16 * nreg + 32 * nten) = false then ([], [], 3)
  else
    let entry := fun i => readBytes s (pa + 64 + 16 * i) 16
    let rs := (List.range nreg).map (fun i => (field (entry i) 0 8, field (entry i) 8 8))
    let ts := (List.range nten).map (fun i => readBytes s (pa + 64 + 16 * nreg + 32 * i) 32)
    let ok := rs.all (fun r => decide (r.1 < 2 ^ 48 ∧ r.2 < 2 ^ 40 ∧ r.1 % 4096 = 0 ∧ r.2 % 4096 = 0) && regionLies s r) &&
      !regionsShare rs && ts.all (tensorOk rs) && slotFits s.snap (segCount rs)
    if ok = false then ([], [], 3)
    else if stageHolds s rs = false then ([], [], 2)
    else (rs, ts.map tensorOf, 0)

/-! ### Slots (R382, R385) -/

def slotNo (n : Snap) (i : Nat) : Slot := if i = 0 then n.slotA else n.slotB
def putSlotNo (n : Snap) (i : Nat) (x : Slot) : Snap := if i = 0 then { n with slotA := x } else { n with slotB := x }

/-- The slot is valid: the foreman found it so, or its drain has ended (R382, R385). -/
def slotUsable (n : Snap) (i : Nat) : Bool := if i = 0 then n.okA else n.okB
def putUsable (n : Snap) (i : Nat) (v : Bool) : Snap := if i = 0 then { n with okA := v } else { n with okB := v }

/-- The slot that holds the newer valid snapshot. -/
def newerSlot (n : Snap) : Option Nat :=
  match slotUsable n 0, slotUsable n 1 with
  | true, true => some (if slotSeq n.slotA < slotSeq n.slotB then 1 else 0)
  | true, false => some 0
  | false, true => some 1
  | false, false => none

/-- The slot into which the next snapshot drains (R382). -/
def targetSlot (n : Snap) : Nat := match newerSlot n with | some 0 => 1 | _ => 0

/-- PK of the manifest is the device's own (R386, R396). -/
def slotOwnKey (s : State) (x : Slot) : Bool := !slotUnsigned x && hasKey s && decide (slotKey x = publicKeyBytes s.trust)

/-! ### SNAP and staging (R378, R379, R383) -/

/-- An address that a message names: 64 B aligned, n bytes in HBM data (R396). -/
def addrOk (s : State) (pa n : Nat) : Bool := decide (pa % 64 = 0 ∧ pa < 2 ^ 48) && inHbm s pa n

/-- The engine takes up an operation, its counters and lists afresh (R397). -/
def freshOperation (n : Snap) (op : Nat) (isRestore : Bool) (slot : Nat) : Snap :=
  { n with
    op := op, isRestore := isRestore, slot := slot, todo := [], staged := [], stagedBytes := 0, digested := 0, written := 0, skipped := 0
    segs := [], old := {}, phase := 1, waits := [], restarted := false, segTodo := [], mismatched := [] }

/-- SNAP is accepted: the plan is judged, and staging begins once the round is decided; a refused plan ends the operation (R375, R378;
DEDUCED, log 31). -/
def startSnap (s : State) (pa : Nat) (r : Nat) : State :=
  let p := planOf s pa
  let s := { s with snap := { freshOperation s.snap 1 false (targetSlot s.snap) with
    atRound := r, round := s.rnd.lastCommit, regions := p.1, tensors := p.2.1, todo := granuleList p.1 } }
  if p.2.2 = 0 then beginStaging s else snapEnd s p.2.2 0

/-- SNAP (R378, R383, R396). -/
def execSnap (m : Nat) (r : Req) (s : State) : Answer :=
  let w := fun (s : State) => extendRound (pay r 8 4) s.rnd.round
  .next (request s m 0x60 2 (0, 0) r
    (fun s =>
      if r.len ≠ 12 ∨ addrOk s (pay r 0 8) 64 = false ∨ w s < (s.rnd.round : Int) then (3, [])
      else if s.snap.op ≠ 0 then (7, []) else (0, []))
    (fun s => startSnap s (pay r 0 8) ((w s).toNat % 2 ^ 48)))

/-- SNAPSHOT_STAGING: the next granule, in ascending offset, is copied; its read meets `ecc` (R346, R378, R379; DEDUCED, log 31). -/
def execSnapshotStaging (ecc : Ecc) (s : State) : Answer :=
  if tramsOff s ∨ asleep s then .next s
  else
    let s := beginStaging s
    match s.snap.op, s.snap.todo with
    | 2, (k, o) :: _ => .next (stageGranule s k o 0 ecc)
    | _, _ => .next s

/-! ### The drain (R380 to R384) -/

/-- The stage's copy of the granule that holds pa: its bytes and its entry. -/
def stagedGranule (s : State) (pa : Nat) : List Host.Cell × Word64 :=
  match s.snap.staged.find? (fun e => decide (e.1 = homeAddr s (pa / 4096 * 4096))) with
  | some e => e.2
  | none => ([], 0)

/-- Bytes of the stage's copy from pa. -/
def stagedBytesAt (s : State) (pa n : Nat) : List Byte :=
  (List.range n).map (fun i => cellAt (stagedGranule s (pa + i)).1 (homeAddr s (pa + i)))

/-- A segment's digest (R376). -/
def segDigest (data : List Byte) (entries : List Word64) (base offset : Nat) : List Byte :=
  digest (data ++ entries.flatMap (fun e => toBytes 8 e.toNat) ++ toBytes 8 base ++ toBytes 8 offset)

/-- Segment i of the snapshot as the stage holds it: its entry in the manifest, and what it is on a drive (R376, R381, R384). -/
def buildSegment (s : State) (i : Nat) (g : Nat × Nat × Nat) : Segm × DiskSeg :=
  let n := s.snap
  let base := ((n.regions[g.1]?).getD (0, 0)).1
  let grans := (List.range (g.2.2 / 4096)).map (fun j => stagedGranule s (base + g.2.1 + 4096 * j))
  let at' := (i % n.drives, segLba n n.slot i)
  ({ region := g.1, drive := at'.1, len := g.2.2, offset := g.2.1, lba := at'.2
     digest := segDigest (stagedBytesAt s (base + g.2.1) g.2.2) (grans.map (·.2)) base g.2.1 },
   { drive := at'.1, lba := at'.2, side := grans.map (·.2)
     data := ((List.range grans.length).zip grans).flatMap (fun e =>
       (e.2.1.filter (fun c => decide (c.2 ≠ 0))).map (fun c => (4096 * e.1 + c.1 % 4096, c.2))) })

/-- The old manifest holds the same entry, with the same BASE (R382). -/
def unchanged (n : Snap) (g : Segm) : Bool :=
  n.skipSame && (slotSegs n.old).any (fun o => decide (
    ((slotRegions n.old)[o.region]?).map (·.1) = (n.regions[g.region]?).map (·.1) ∧ o.offset = g.offset ∧ o.len = g.len ∧ o.drive = g.drive ∧
    o.lba = g.lba ∧ o.digest = g.digest))

/-- Bytes of a segment: its data and its sidecar entries. -/
def segBytes (g : Segm) : Nat := g.len + g.len / 512

/-- A segment stands on its drive in place of what was there. -/
def putDiskSeg (x : Slot) (d : DiskSeg) : Slot :=
  { x with segs := d :: x.segs.filter (fun e => decide (¬(e.drive = d.drive ∧ e.lba = d.lba))) }

/-- The next thing the drain does. -/
def drainPhase (s : State) (p : Nat) : State := { s with snap := { s.snap with phase := p } }

/-- First LBA of a manifest's body, after its header (R380; DESIGN CHOICE, log 51). -/
def bodyLba (n : Snap) (slot : Nat) : Nat := slot * n.half + blocksFor headerLen

/-- Step 1 of R382: the entries of a valid old manifest are read. -/
def readOld (s : State) : State :=
  let n := s.snap
  let x := slotNo n n.slot
  let s := drainPhase { s with snap := { n with op := 3, old := if slotUsable n n.slot then x else {} } } 2
  if slotUsable n n.slot then sendNvme s 0 (.read (bodyLba n n.slot) (blocksFor (slotBodyLen x))) none else s

/-- Step 2 of R382: a header of zeros; the slot is empty from now on. -/
def zeroHeader (s : State) : State :=
  let n := s.snap
  sendNvme (drainPhase { s with snap := putUsable (putSlotNo n n.slot { slotNo n n.slot with header := [] }) n.slot false } 3)
    0 (.write (n.slot * n.half) (blocksFor headerLen) true) none

/-- Step 3 of R382 for one segment. -/
def drainSegment (s : State) (g : Segm × DiskSeg) : State :=
  let n := s.snap
  let same := unchanged n g.1
  let s := { s with snap := { n with
    segs := n.segs ++ [g.1], digested := n.digested + segBytes g.1, skipped := n.skipped + b2n same
    written := n.written + (if same then 0 else segBytes g.1) } }
  if same then s
  else sendNvme { s with snap := putSlotNo s.snap n.slot (putDiskSeg (slotNo n n.slot) g.2) } g.1.drive (.write g.1.lba 16416 false) none

/-- Step 4 of R382: Flush to every drive. -/
def flushDrives (s : State) : State := (List.range s.snap.drives).foldl (fun s d => sendNvme s d .flush none) (drainPhase s 5)

/-- The tensors of a manifest, with their records from the stage (R384). -/
def manifestTensors (s : State) : List Tensor :=
  s.snap.tensors.map (fun t => { t with recData := if t.recPa = 0 then [] else stagedBytesAt s t.recPa 128 })

/-- Step 5 of R382: the body. -/
def writeBody (s : State) : State :=
  let n := s.snap
  let bs := bodyBytes n.regions (manifestTensors s) n.segs
  sendNvme (drainPhase { s with snap := putSlotNo n n.slot { slotNo n n.slot with body := bs } } 6)
    0 (.write (bodyLba n n.slot) (blocksFor bs.length) false) none

/-- SEQ of the snapshot that drains (R384; DESIGN CHOICE for the first one, log 31). -/
def nextSeq (n : Snap) : Nat := match newerSlot n with | some i => slotSeq (slotNo n i) + 1 | none => 1

/-- Bytes 0x000 to 0x05F of the header; a device without an identity has a free value for DEVICE_ID (R384, R389; DESIGN CHOICE, log 31). -/
def headerStart (s : State) (body : List Byte) : List Byte :=
  let n := s.snap
  toBytes 4 0x53768160 ++ toBytes 2 1 ++ toBytes 1 (b2n (!hasKey s) + 2 * b2n n.committed) ++ toBytes 1 n.drives ++
  toBytes 8 (nextSeq n) ++ toBytes 6 n.round ++ toBytes 2 n.regions.length ++
  (if hasKey s then deviceIdBytes s.trust else toBytes 8 (freeAt s 1) ++ toBytes 8 (freeAt s 2)) ++
  toBytes 4 n.tensors.length ++ toBytes 4 n.segs.length ++ toBytes 4 body.length ++ toBytes 12 0 ++ digest body

/-- The header of the snapshot that drains (R384, R389); the signature is hedged (log 18). -/
def headerBytes (s : State) : List Byte :=
  let start := headerStart s (slotNo s.snap s.snap.slot).body ++ (List.range 4).flatMap (fun d => toBytes 20 ((s.snap.serials[d]?).getD 0))
  let pk := publicKeyBytes s.trust
  if hasKey s then
    let signed := fixedBytes 0x100 (start ++ digest pk) ++ pk
    signed ++ fixedBytes 3309 (Config.signature s.freeCtr signed)
  else fixedBytes headerLen start

/-- Step 6 of R382: the header, with FUA. -/
def writeHeader (s : State) : State :=
  let n := s.snap
  sendNvme (drainPhase s 8) 0 (.write (n.slot * n.half) (blocksFor headerLen) true) none

/-- The header has been written: the slot is valid, the stage free, SNAP_NOTE posted (R382). -/
def finishDrain (s : State) : State :=
  let n := s.snap
  let x := { slotNo n n.slot with header := headerBytes s }
  snapEnd { useFree s 3 with snap := putUsable (putSlotNo n n.slot x) n.slot true } 0 0

/-- The next step of a drain for which nothing is outstanding (R382). -/
def nextDrain (s : State) : State :=
  match s.snap.phase with
  | 1 => readOld s
  | 2 => zeroHeader s
  | 3 => flushDrives s
  | 4 => flushDrives s
  | 5 => writeBody s
  | 6 => sendNvme (drainPhase s 7) 0 .flush none
  | 7 => writeHeader s
  | _ => s

/-- The segment that a drain in step 3 comes to next; the first one awaits the header of zeros (R382). -/
def segDue (n : Snap) : Option (Nat × Nat × Nat) :=
  if n.phase = 3 ∧ (n.segs ≠ [] ∨ n.waits = []) then (segmentsIn n.regions)[n.segs.length]? else none

/-- The drain goes on: segments follow one another, every other step awaits the completion of what was sent (R382). -/
def drainStep (s : State) : State :=
  match segDue s.snap with
  | some g => drainSegment s (buildSegment s s.snap.segs.length g)
  | none => if s.snap.waits = [] then nextDrain s else s

/-- SNAPSHOT_DRAIN: the next step of the drain, once every granule is staged (R382; DEDUCED, log 49). -/
def execSnapshotDrain (s : State) : Answer :=
  let n := s.snap
  if tramsOff s ∨ headsUp s = false ∨ s.flt.takeover.isSome ∨ n.rate = 0 then .next s
  else if n.op = 3 ∨ (n.op = 2 ∧ n.todo = []) then .next (drainStep s) else .next s

/-! ### Restores (R386) -/

/-- Region i is selected. -/
def regionPicked (n : Snap) (i : Nat) : Bool := bit n.mask i

/-- The selected regions of the manifest that a restore reads. -/
def pickedRegions (n : Snap) : List (Nat × Nat) :=
  (((List.range n.regions.length).zip n.regions).filter (fun e => regionPicked n e.1)).map (·.2)

/-- The selected tensors. -/
def pickedTensors (n : Snap) : List Tensor := n.tensors.filter (fun t => withinOne (pickedRegions n) t.pa t.bytes)

/-- The selected segments, by their numbers. -/
def pickedSegs (n : Snap) (x : Slot) : List Nat :=
  (List.range (slotSegCount x)).filter (fun i => match (slotSegs x)[i]? with | some g => regionPicked n g.region | none => false)

/-- A manifest's record passes step 3 of R386. -/
def recordFits (t : Tensor) : Bool :=
  !narrowFormat t.fmt || (recordOk t.recData && bit (field t.recData 3 1) 0 && decide (bits (field t.recData 1 1) 0 5 = t.fmt))

/-- A segment is a part of its region that a drive in use holds; another manifest than the device's own may say otherwise (DESIGN CHOICE, log
31). -/
def segmentLies (n : Snap) (g : Segm) : Bool :=
  decide (g.drive < n.drives ∧ g.len % 4096 = 0 ∧ g.offset % 4096 = 0 ∧ g.len ≤ 2 ^ 26) &&
  (match n.regions[g.region]? with | some r => decide (g.offset + g.len ≤ r.2) | none => false)

/-- The result of steps 1 to 3 of R386, none when they pass. -/
def restoreRefusal (s : State) (x : Slot) : Option Nat :=
  let n := s.snap
  let rs := pickedRegions n
  if slotHolds n x = false then some 7
  else if slotUnsigned x ∧ n.unsignedOk = false then some 7
  else if slotUnsigned x = false ∧ slotOwnKey s x = false ∧ n.foreignOk = false then some 7
  else if rs.all (regionLies s) = false ∨ (pickedSegs n x).any (fun i => !((slotSegs x)[i]?).any (segmentLies n)) then some 9
  else if stageHolds s rs = false then some 2
  else if (pickedTensors n).all recordFits = false then some 8
  else none

/-- A save that a gob holds of the granule is void: no drop undoes what a restore writes (R386). -/
def dropSaves (s : State) (k g : Nat) : State := modStack s k (fun x => { x with saved := x.saved.filter (fun v => decide (v.offset ≠ g)) })

/-- One granule and its entry go back to their place, past the gob (R386). -/
def restoreCell (s : State) (e : Nat × List Host.Cell × Word64) : State :=
  let s := match locate s e.1 with | .hbm k o => dropSaves s k (o / 4096 * 4096) | _ => s
  let s := (stackArrive s .foreman 0 e.1 ((List.range 4096).map (fun i => cellAt e.2.1 (e.1 + i)))).1
  (physEntry s .foreman 0 e.1 e.2.2).1

/-- Steps 5 and 6 of R386: the stage goes to the regions, then the records, SNAP_NOTE (DEDUCED, log 31). -/
def finishRestore (s : State) : State :=
  let n := s.snap
  let s := n.staged.foldl restoreCell s
  let s := ((pickedTensors n).filter (fun t => decide (t.recPa ≠ 0))).foldl (fun s t => (stackArrive s .foreman 0 t.recPa t.recData).1) s
  snapEnd s 0 0

/-- The read of segment i is sent (R386). -/
def sendSegRead (x : Slot) (s : State) (i : Nat) : State :=
  match (slotSegs x)[i]? with
  | some g => sendNvme s g.drive (.read g.lba 16416) (some i)
  | none => s

/-- The manifest has been read again: steps 1 to 3, then the reads of step 4 (R386). -/
def judgeRestore (s : State) : State :=
  let x := slotNo s.snap s.snap.slot
  let s := { s with snap := { s.snap with round := slotRound x, regions := slotRegions x, tensors := slotTensors x } }
  match restoreRefusal s x with
  | some res => snapEnd s res 0
  | none =>
    let todo := pickedSegs s.snap x
    if todo = [] then finishRestore s else todo.foldl (sendSegRead x) { s with snap := { s.snap with segTodo := todo } }

/-- RESTORE is accepted: the manifest is read again (R386). -/
def startRestore (s : State) (slot mask : Nat) (foreignOk unsignedOk : Bool) : State :=
  let x := slotNo s.snap slot
  let s := { s with snap := { freshOperation s.snap 4 true slot with
    round := slotRound x, regions := slotRegions x, tensors := slotTensors x, mask := mask, foreignOk := foreignOk, unsignedOk := unsignedOk } }
  sendNvme (sendNvme s 0 (.read (slot * s.snap.half) (blocksFor headerLen)) none) 0 (.read (bodyLba s.snap slot) (blocksFor (slotBodyLen x))) none

/-- RESTORE (R386). -/
def execRestore (m : Nat) (r : Req) (s : State) : Answer :=
  .next (request s m 0x62 2 (0, 0) r
    (fun s =>
      if r.len ≠ 10 ∨ 1 < pay r 0 1 ∨ 3 < pay r 1 1 then (3, [])
      else if working s ∨ s.rnd.backfill ∨ s.snap.op ≠ 0 then (7, [])
      else if slotUsable s.snap (pay r 0 1) = false then (3, [])
      else (0, []))
    (fun s => startRestore s (pay r 0 1) (pay r 2 8) (bit (pay r 1 1) 0) (bit (pay r 1 1) 1)))

/-- What a drive holds of a segment. -/
def diskSegOf (x : Slot) (g : Segm) : DiskSeg :=
  (x.segs.find? (fun d => decide (d.drive = g.drive ∧ d.lba = g.lba))).getD { drive := g.drive, lba := g.lba }

/-- The n bytes of a segment on a drive. -/
def diskBytes (d : DiskSeg) (n : Nat) : List Byte :=
  (List.range n).map (fun i => match d.data.find? (fun c => decide (c.1 = i)) with | some c => c.2 | none => 0)

/-- The granules of a segment as the stage takes them. -/
def stageSegment (s : State) (base : Nat) (g : Segm) (data : List Byte) (side : List Word64) : List (Nat × List Host.Cell × Word64) :=
  (List.range (g.len / 4096)).map (fun j =>
    let pa := homeAddr s (base + g.offset + 4096 * j)
    (pa, cellsAt pa ((data.drop (4096 * j)).take 4096), (side[j]?).getD 0))

/-- Segment i has been read into the stage, on its way disturbed or not; a digest that mismatches is read once more, a second time it ends
the restore (R386). -/
def readSegment (s : State) (i : Nat) (disturbed : Bool) : State :=
  let n := s.snap
  let x := slotNo n n.slot
  match (slotSegs x)[i]? with
  | none => s
  | some g =>
    let d := diskSegOf x g
    let base := ((n.regions[g.region]?).getD (0, 0)).1
    let data := diskBytes d g.len
    let side := (List.range (g.len / 4096)).map (fun j => (d.side[j]?).getD 0)
    let s := { s with snap := { n with digested := n.digested + segBytes g } }
    if disturbed ∨ segDigest data side base g.offset ≠ g.digest then
      if n.mismatched.contains i then snapEnd s 6 i
      else sendSegRead x { s with snap := { s.snap with mismatched := n.mismatched ++ [i] } } i
    else
      let s := { s with snap := { s.snap with
        segTodo := n.segTodo.erase i, staged := n.staged ++ stageSegment s base g data side, stagedBytes := n.stagedBytes + g.len } }
      if s.snap.segTodo = [] then finishRestore { s with snap := { s.snap with op := 5 } } else s

/-- An operation whose NVMe command failed ends with MEDIA (R374). -/
def mediaError (s : State) : State := snapEnd s 5 0

/-- The oldest command that drive d has not completed (R374). -/
def oldestJob (n : Snap) (d : Nat) : Option NvmeJob := n.waits.find? (fun w => decide (w.drive = d))

/-- What follows a command that completed well: the header ends a drain, the manifest's reads lead on to a restore's steps, a segment goes
into the stage (R382, R386). -/
def nvmeDone (s : State) (w : NvmeJob) (disturbed : Bool) : State :=
  match s.snap.op, w.seg with
  | 3, _ => if s.snap.phase = 8 then finishDrain s else s
  | 4, some i => readSegment s i disturbed
  | 4, none => if s.snap.waits = [] then judgeRestore s else s
  | _, _ => s

/-- NVME_COMPLETION: the oldest command of the drive completes; `disturbed` says that what a read brings was altered on its way (R374,
R386; DEDUCED, log 31). -/
def execNvmeCompletion (drive : Nat) (ok disturbed : Bool) (s : State) : Answer :=
  if headsUp s = false ∨ s.flt.takeover.isSome ∨ tramsOff s then .next s
  else
    match oldestJob s.snap drive with
    | none => .next s
    | some w =>
      let s := { s with snap := { s.snap with waits := s.snap.waits.erase w } }
      if ok then .next (nvmeDone s w disturbed) else .next (mediaError s)

/-- NVME_TIMEOUT: the oldest command of the drive has not completed in ten seconds (R374; DEDUCED, log 31). -/
def execNvmeTimeout (drive : Nat) (s : State) : Answer :=
  if headsUp s = false then .next s
  else
    match oldestJob s.snap drive with
    | none => .next s
    | some w => .next (mediaError (advance s (w.since + 10000000000)))

/-- SNAPSHOT_LINK_LOSS (R383, R397). -/
def execSnapshotLinkLoss (s : State) : Answer :=
  let s := snapAbort s
  .next { s with snap := { s.snap with rate := 0, width := 0 } }

/-- One slot of the SLOT_INFO reply: six bytes of flags, SEQ, ROUND, NSEG (R396; the layout's gap is the model's, log 31). -/
def slotInfoBytes (s : State) (i : Nat) : List Byte :=
  let x := slotNo s.snap i
  if slotUsable s.snap i then
    toBytes 6 (1 + 2 * b2n (!slotUnsigned x) + 4 * b2n (slotOwnKey s x)) ++ toBytes 8 (slotSeq x) ++ toBytes 6 (slotRound x) ++
    toBytes 4 (slotSegCount x)
  else List.replicate 24 (0 : Byte)

/-- SLOT_INFO (R396). -/
def execSlotInfo (m : Nat) (r : Req) (s : State) : Answer :=
  .next (request s m 0x63 2 (0, 0) r (fun s => if r.len ≠ 0 then (3, []) else (0, slotInfoBytes s 0 ++ slotInfoBytes s 1)) (fun s => s))

/-! ### Identity (R388, R389, R395) -/

/-- The foreman writes bytes to HBM, past the gob (R396). -/
def foremanWrite (s : State) (pa : Nat) (bs : List Byte) : State := (physWrite s .foreman 0 pa bs).1

/-- FLAGS of a quote (R395). -/
def quoteFlags (s : State) : Nat :=
  let t := s.trust
  b2n s.flt.recovery + 2 * b2n (decide (bits s.flt.canary0.toNat 16 16 ≠ 0 ∨ bits s.flt.canary1.toNat 16 16 ≠ 0)) + 4 * b2n s.flt.standby +
  8 * b2n (decide (t.bootConf = [])) + 16 * (t.bootSel % 4) + 64 * b2n t.runningB + 128 * b2n (fwSlot t t.runningB).pending

/-- Bytes 0x000 to 0x1FF of a quote (R395; DESIGN CHOICE, log 18). -/
def quoteBytes (s : State) (nonce : List Byte) : List Byte :=
  let t := s.trust
  let x := fwSlot t t.runningB
  fixedBytes 512 (toBytes 2 1 ++ toBytes 2 3821 ++ toBytes 4 (quoteFlags s) ++ deviceIdBytes t ++ fixedBytes 32 nonce ++
    toBytes 6 s.rnd.round ++ toBytes 2 t.fuses ++ toBytes 8 s.now ++ toBytes 4 (slotVersion x) ++ toBytes 4 Config.romVersion ++
    fixedBytes 32 Config.romDigest ++ slotFw x ++ slotMicro x ++
    (if t.bootConf = [] then List.replicate 32 (0 : Byte) else digest t.bootConf) ++ digest t.bootRetire ++ digest (publicKeyBytes t))

/-- QUOTE: refused without an identity; the signature is hedged, so each one is its own (R389, R395, R396; DESIGN CHOICE, log
18). -/
def execQuote (m : Nat) (r : Req) (s : State) : Answer :=
  let pa := pay r 32 8
  .next (request s m 0x64 2 (0, 0) r
    (fun s => if r.len ≠ 40 ∨ addrOk s pa 3821 = false then (3, []) else if hasKey s then (0, toBytes 2 3821) else (7, []))
    (fun s =>
      let bs := quoteBytes s ((payloadOf r).take 32)
      foremanWrite (useFree s 1) pa (bs ++ fixedBytes 3309 (Config.signature s.freeCtr bs))))

/-- CERT_READ (R389, R396; DESIGN CHOICE, log 18). -/
def execCertRead (m : Nat) (r : Req) (s : State) : Answer :=
  let n := Config.certificates.length
  .next (request s m 0x65 2 (0, 0) r
    (fun s => if r.len ≠ 8 ∨ addrOk s (pay r 0 8) (max n 1) = false then (3, []) else (0, toBytes 2 n))
    (fun s => foremanWrite s (pay r 0 8) Config.certificates))

/-! ### Firmware and configuration (R391 to R394) -/

/-- A firmware image passes steps 4 and 5 of R392 (DESIGN CHOICE, log 18). -/
def imagePasses (fuses : Nat) (bs : List Byte) : Bool :=
  let f := field bs
  let fw := f 0x0C 4
  let micro := f 0x10 4
  decide (f 0 4 = 0x46578160 ∧ f 4 2 ≤ 64 ∧ fuses ≤ f 4 2 ∧ f 6 2 = 0 ∧ f 0x14 12 = 0 ∧ f 0x60 160 = 0 ∧ 0x1000 + fw + micro ≤ bs.length) &&
  Config.verifies Config.vendorKey (bs.take 0x100) ((bs.drop 0x100).take 3309) &&
  decide (digest ((bs.drop 0x1000).take fw) = (bs.drop 0x20).take 32) &&
  decide (digest ((bs.drop (0x1000 + fw)).take micro) = (bs.drop 0x40).take 32)

/-- The slot that holds an image, as FW_UPDATE leaves it (R394). -/
def imageSlot (bs : List Byte) : FwSlot :=
  { valid := true, pending := true, svn := field bs 4 2, version := field bs 8 4, fwDigest := (bs.drop 0x20).take 32
    microDigest := (bs.drop 0x40).take 32, verifies := true }

/-- FW_UPDATE (R394, R396). -/
def execFwUpdate (m : Nat) (r : Req) (s : State) : Answer :=
  let pa := pay r 0 8
  let n := pay r 8 4
  .next (request s m 0x66 2 (0, 0) r
    (fun s =>
      if r.len ≠ 12 ∨ n = 0 ∨ 28 * 2 ^ 20 - 4096 < n ∨ addrOk s pa n = false then (3, [])
      else if s.trust.fwA.pending ∨ s.trust.fwB.pending then (7, [])
      else if imagePasses s.trust.fuses (readBytes s pa n) then (0, []) else (3, []))
    (fun s => { s with trust := putFwSlot s.trust (!s.trust.runningB) (imageSlot (readBytes s pa n)) }))

/-- FW_COMMIT: only a CONFIRMED image (R394; DEDUCED, log 31). -/
def execFwCommit (m : Nat) (r : Req) (s : State) : Answer :=
  .next (request s m 0x67 2 (0, 0) r
    (fun s => lenThen r 0 7 (fwSlot s.trust s.trust.runningB).confirmed)
    (fun s => { s with trust := { s.trust with fuses := max s.trust.fuses (slotSvn (fwSlot s.trust s.trust.runningB)) } }))

/-- The record verifies and its SEQ exceeds that of every accepted copy (R393, R394). -/
def recordNewer (s : State) (bs : List Byte) : Bool :=
  recordAccepted s.trust (hasKey s) bs && (acceptedCopies s.trust (hasKey s)).all (fun c => decide (field c 4 4 < field bs 4 4))

/-- The older copy: one that is not accepted, or that with the lower SEQ (R394). -/
def olderCopy (s : State) : Bool :=
  let ok := recordAccepted s.trust (hasKey s)
  if ok s.trust.conf0 = false then false
  else if ok s.trust.conf1 = false then true
  else decide (field s.trust.conf1 4 4 < field s.trust.conf0 4 4)

/-- CFG_UPDATE (R394, R396). -/
def execCfgUpdate (m : Nat) (r : Req) (s : State) : Answer :=
  let pa := pay r 0 8
  .next (request s m 0x68 2 (0, 0) r
    (fun s =>
      if r.len ≠ 12 ∨ pay r 8 4 ≠ 3597 ∨ addrOk s pa 3597 = false ∨ recordNewer s (readBytes s pa 3597) = false then (3, []) else (0, []))
    (fun s =>
      let bs := readBytes s pa 3597
      { s with trust := if olderCopy s then { s.trust with conf1 := bs } else { s.trust with conf0 := bs } }))

end Sys2Proof.Machine
end

