-- ==== Sys2Proof/Machine/Registers.lean ====
section
/-! DEFINITION. The register blocks (R7 to R11, R31 to R34): what every register reads (R33, R70, R98, R135, R161, R167, R189,
R190, R201, R231, R266, R267, R299, R311, R340 to R342, R370, R397), and what a write does, from the device or from the host
through BAR0 and the register window (R305 to R307). -/

namespace Sys2Proof.Machine

/-- The blocks of the table "Block bases" (R32). -/
inductive Blk where
  | stp (st : Nat) | trm (st : Nat) | trc (st : Nat) | lvl (n : Nat) | hst (n : Nat) | lmark (n : Nat) | hdf (h : Nat)
  | uas (p : Nat) | rnd | nrg | mbx | snp | flt | dtal
  deriving DecidableEq, Repr

/-- Block and offset of a byte of the register-block row, by its distance from 0x0300_0000_0000 (R31, R32). -/
def blockAt (o : Nat) : Option (Blk × Nat) :=
  if o < 160 * 2 ^ 16 then
    let u := o / 2 ^ 16
    let r := o % 2 ^ 16
    if r < 0x8000 then some (.stp u, r) else if r < 0xC000 then some (.trm u, r - 0x8000) else some (.trc u, r - 0xC000)
  else if 0x100000000 ≤ o ∧ o < 0x100000000 + 8 * 2 ^ 20 then
    let u := (o - 0x100000000) / 2 ^ 20
    let r := o % 2 ^ 20
    if r < 0x80000 then some (.lvl u, r) else if r < 0xC0000 then some (.hst u, r - 0x80000) else some (.lmark u, r - 0xC0000)
  else if 0x200000000 ≤ o ∧ o < 0x200000000 + 2 * 2 ^ 24 then some (.hdf ((o - 0x200000000) / 2 ^ 24), o % 2 ^ 24)
  else if 0x300000000 ≤ o ∧ o < 0x300000000 + 12 * 2 ^ 16 then some (.uas ((o - 0x300000000) / 2 ^ 16), o % 2 ^ 16)
  else if 0x300300000 ≤ o ∧ o < 0x300400000 then some (.mbx, o - 0x300300000)
  else if o % 2 ^ 20 < 2 ^ 16 then
    (match o / 2 ^ 20 with
      | 0x3001 => some (.rnd, o % 2 ^ 20)
      | 0x3002 => some (.nrg, o % 2 ^ 20)
      | 0x3004 => some (.snp, o % 2 ^ 20)
      | 0x3005 => some (.flt, o % 2 ^ 20)
      | 0x3006 => some (.dtal, o % 2 ^ 20)
      | _ => none)
  else none

/-- Block and offset at a device physical address. -/
def blockOf (pa : Nat) : Option (Blk × Nat) :=
  if 0x030000000000 ≤ pa ∧ pa < 0x030400000000 then blockAt (pa - 0x030000000000) else none

/-- The access codes of R9. -/
inductive Acc where
  | ro | rw | wo | w1c | rc
  deriving DecidableEq, Repr

/-- A register as it stands: access code, 64 bits wide, the value that a read returns. -/
structure Reg where
  acc : Acc
  wide : Bool
  val : Nat
  deriving DecidableEq, Repr

def ro (v : Nat) : Option Reg := some { acc := .ro, wide := false, val := v }
def ro64 (v : Nat) : Option Reg := some { acc := .ro, wide := true, val := v }
def rw (v : Nat) : Option Reg := some { acc := .rw, wide := false, val := v }
def rw64 (v : Nat) : Option Reg := some { acc := .rw, wide := true, val := v }
def wo (wide : Bool) : Option Reg := some { acc := .wo, wide := wide, val := 0 }
def w1c (v : Nat) : Option Reg := some { acc := .w1c, wide := false, val := v }
def w1c64 (v : Nat) : Option Reg := some { acc := .w1c, wide := true, val := v }
def rc (v : Nat) : Option Reg := some { acc := .rc, wide := false, val := v }
def rc64 (v : Nat) : Option Reg := some { acc := .rc, wide := true, val := v }

/-- Register k of an indexed group of n at base + stride × k. -/
def group (o base stride n : Nat) (f : Nat → Option Reg) : Option Reg :=
  if base ≤ o ∧ (o - base) % stride = 0 ∧ (o - base) / stride < n then f ((o - base) / stride) else none

/-- The first of several alternatives. -/
def firstReg : List (Option Reg) → Option Reg
  | [] => none
  | some r :: _ => some r
  | none :: rs => firstReg rs

/-- Bit k for each k below n that p holds of. -/
def maskOf (n : Nat) (p : Nat → Bool) : Nat := (List.range n).foldl (fun m k => if p k then m + 2 ^ k else m) 0

/-! ### Tallies (R189, R190) -/

/-- Bits of a tally flag register: tally 32 j + k at bit k, n of them. -/
def tallyFlags (s : State) (sc : Scope) (unit first n : Nat) (p : Tally → Bool) : Nat :=
  maskOf n (fun k => p (tallyOf s sc unit (first + k)))

def hasWaiter (x : Tally) : Bool := !x.waiters.isEmpty

/-! ### Stope registers -/

/-- Value of a figure that the level's monitor block holds (R342). -/
def monitored (s : State) (st v : Nat) : Nat := stallOf s st v

/-- STP_ARR_CFG_a (R70). -/
def arrCfg (a : Arr) (c : Nat) : Nat :=
  b2n (wideAt a c) + 2 * activeAt a c + 4 * b2n a.plane0.valid + 8 * b2n a.plane1.valid + a.plane0.fmt * 2 ^ 8 + a.plane1.fmt * 2 ^ 16

/-- The stope is in hold at device cycle t: a check hold, a lasting hold, a cycle that the density skips (R49, R67, R68, R296). -/
def inHold (x : Stope) (t : Nat) : Bool := decide (x.hold ≠ []) || x.halted || (!x.gated && decide (t % x.clk.div ≠ 0))

/-- STP_ARR_STAT, with the density that the stope runs at; the load path writes a WLD until its completion (R44, R70, R291). -/
def arrStat (s : State) (x : Stope) (c : Nat) : Nat :=
  b2n (decide (c < x.arr0.feedFree)) + 2 * b2n (decide (c < x.arr1.feedFree)) + 4 * b2n (decide (c < x.wldFree)) +
  8 * b2n (inHold x s.now) + 16 * Nat.log2 x.clk.div

/-- RUN of STP_OVM_STAT (R135). -/
def overmanRun (k : CrewState) : Nat := match k with | .idle => 0 | .running => 1 | .waiting => 2 | _ => 3

/-- A claim window's registers (R159, R161). -/
def claimCtl (c : Claim) : Nat :=
  if c.valid then 1 + 2 * b2n c.rd + 4 * b2n c.wr + 8 * c.mode + c.log2 * 2 ^ 8 else 0

/-- Registers of an STP_ block (R70, R98, R135, R161, R189). -/
def stpReg (s : State) (st o : Nat) : Option Reg :=
  let s := settle s st
  let x := stopeOf s st
  let c := cnt x.clk s.now
  match o with
  | 0x0100 => ro (x.bank + 2 * b2n x.swapPending + 4 * b2n (inactiveWrite s st) + 8 * b2n x.cancelled + x.swaps % 2 ^ 16 * 2 ^ 16)
  | 0x0104 => ro (overmanRun (shownState (agentOf x 16) s.now) + 4 * b2n x.double)
  | 0x01C0 => ro64 (monitored s st x.issued)
  | 0x0400 => ro (arrCfg x.arr0 c)
  | 0x0404 => ro (arrCfg x.arr1 c)
  | 0x0408 => ro (arrStat s x c)
  | 0x040C => rc (x.wldTransient + x.wldPersistent * 2 ^ 16)
  | 0x0410 => ro64 (monitored s st x.arr0.rowsIn)
  | 0x0418 => ro64 (monitored s st x.arr1.rowsIn)
  | 0x0420 => ro64 (monitored s st (holdCycles s st))
  | 0x0440 => rc x.cvtSat
  | 0x0444 => rc x.cvtUnder
  | 0x0448 => rc x.cvtNan
  | 0x044C => rc (x.asTransient + x.asFailed * 2 ^ 16 + x.asFormat * 2 ^ 24)
  | 0x0450 => ro x.srKey.toNat
  | 0x0900 => w1c64 (tallyFlags s .stope st 0 64 (·.sat))
  | 0x0908 => w1c64 (tallyFlags s .stope st 0 64 (·.under))
  | 0x0910 => ro64 (tallyFlags s .stope st 0 64 hasWaiter)
  | 0x0918 => ro (b2n x.gated + 2 * b2n x.lvlBell + 4 * b2n x.devBell)
  | 0x091C => rc x.bellWakes
  | 0x0920 => ro64 (monitored s st (x.sleepCyc + (if x.gated then s.now - x.gatedAt else 0)))
  | _ => firstReg [
    group o 0x0140 4 16 (fun cr =>
      let k := agentOf x cr
      ro (stateCode (shownState k s.now) + 8 * b2n (crewQuiet x cr s.now) + 16 * k.loops.length + k.pc * 2 ^ 8)),
    group o 0x0180 4 16 (fun cr => ro ((agentOf x cr).faultCode + (agentOf x cr).faultPc * 2 ^ 16)),
    group o 0x0800 4 64 (fun k => rw (tallyOf s .stope st k).count),
    group o 0x0A00 4 64 (fun k => ro (tallyOf s .stope st k).base),
    group o 0x4000 32 512 (fun w => let k := tget x.claims {} w; ro64 (if k.valid then k.vbase else 0)),
    group o 0x4008 32 512 (fun w => let k := tget x.claims {} w; ro64 (if k.valid then k.pbase else 0)),
    group o 0x4010 32 512 (fun w => ro (claimCtl (tget x.claims {} w)))]

/-- TRM_SLOT_i (R167). -/
def heldSlot (f : Option Xfer) : Nat :=
  match f with
  | none => 0
  | some f => f.crew + f.q * 2 ^ 4 + f.prog * 2 ^ 16 + (match f.fault with | some (code, _) => code | none => 0) * 2 ^ 48

/-- Registers of a TRM_ block (R167; DEDUCED, log 32). -/
def trmReg (s : State) (st o : Nat) : Option Reg :=
  let x := stopeOf s st
  match o with
  | 0x00 => ro (x.queue.length + (x.queue.filter isTram).length * 2 ^ 7 + activeCount x * 2 ^ 12 + b2n (quiesced x) * 2 ^ 17)
  | 0x04 => ro (readsInFlight x + writesInFlight x * 2 ^ 16)
  | 0x08 => rc (x.chkTransient + x.chkPersistent * 2 ^ 16 + x.chkMismatch * 2 ^ 24)
  | 0x0C => rc (x.discarded + x.resumed * 2 ^ 16)
  | 0x10 => ro (slotMask x)
  | 0x18 => ro64 (monitored s st x.rdBytes)
  | 0x20 => ro64 (monitored s st x.wrBytes)
  | _ => group o 0x0100 8 16 (fun i => ro64 (heldSlot (tget x.heldSlots none i)))

/-- Tally-wait cycles of a crew up to now (R135, R190). -/
def tallyWait (s : State) (c : Crew) : Nat :=
  c.stallTally + (match c.wait with | some w => if c.state = .waiting then s.now - max w.issued w.since else 0 | none => 0)

/-- Tram-wait cycles of a crew up to now. -/
def tramWait (x : Stope) (s : State) (c : Crew) : Nat :=
  c.stallTram + (match c.tramSince with | some t => cnt x.clk s.now - max t c.tramCounted | none => 0)

/-- TRC_CTL with DEAD (R340). -/
def trcCtl (s : State) (st : Nat) : Nat :=
  (stopeOf s st).trace.ctl.toNat + 8 * b2n (monitorOff s (stopeLevel st))

/-- Registers of a TRC_ block (R340, R341); all but DEAD read 0 without the monitor (R342; DEDUCED, log 32; DEDUCED, log 48).
-/
def trcReg (s : State) (st o : Nat) : Option Reg :=
  let s := settle s st
  let x := stopeOf s st
  let t := x.trace
  match o with
  | 0x0000 => rw (if monitorOff s (stopeLevel st) then 8 else trcCtl s st)
  | 0x0004 => ro (monitored s st ((t.head + 8192 - traceUnwritten t s.now) % 8192))
  | 0x0008 => ro64 (monitored s st (t.count - traceUnwritten t s.now))
  | 0x0010 => rc (monitored s st t.lost)
  | 0x0300 => ro64 (monitored s st x.arr0.stallWeight)
  | 0x0308 => ro64 (monitored s st x.arr0.stallAct)
  | 0x0310 => ro64 (monitored s st x.arr0.stallPort)
  | 0x0320 => ro64 (monitored s st x.arr1.stallWeight)
  | 0x0328 => ro64 (monitored s st x.arr1.stallAct)
  | 0x0330 => ro64 (monitored s st x.arr1.stallPort)
  | 0x0340 => ro64 (monitored s st (t.stallClaim + (match t.claimAt with | some a => s.now - a | none => 0)))
  | 0x0348 => ro64 (monitored s st t.stallHbm)
  | 0x0350 => ro64 (monitored s st t.stallLink)
  | _ => firstReg [
    group o 0x0100 32 16 (fun cr => ro64 (monitored s st (tallyWait s (agentOf x cr)))),
    group o 0x0108 32 16 (fun cr => ro64 (monitored s st (tramWait x s (agentOf x cr)))),
    group o 0x0110 32 16 (fun cr => ro64 (monitored s st (agentOf x cr).stallIssue))]

/-! ### Level registers -/

/-- Value of a figure that level n's monitor block holds (R342). -/
def lvlMonitored (s : State) (n v : Nat) : Nat := if monitorOff s n then 0 else v

/-- LVL_PMAP_k (R33, R34). -/
def pmapWord (x : Phys) : Nat := x.logical + x.state * 2 ^ 8 + min x.fails 255 * 2 ^ 16

/-- Physical stopes of level n in a state. -/
def physCount (s : State) (n st : Nat) : Nat := ((List.range 22).filter (fun k => decide ((physOf s (22 * n + k)).state = st))).length

/-- Registers of an LVL_ block (R33, R190, R201, R341). -/
def lvlReg (s : State) (n o : Nat) : Option Reg :=
  let l := levelOf s n
  let v := l.sieve
  match o with
  | 0x0000 => ro (if l.up then n + n / 4 * 2 ^ 3 + n % 4 * 2 ^ 4 else 0)
  | 0x0004 => ro (if l.assigned then physCount s n 1 + physCount s n 2 * 2 ^ 5 + b2n s.conf.remap * 2 ^ 7 else 0)
  | 0x0080 => ro (maskOf 32 (fun j => (retiredPcs s (2 * n)).contains j))
  | 0x0084 => ro (maskOf 32 (fun j => (retiredPcs s (2 * n + 1)).contains j))
  | 0x2000 => ro (b2n v.busy + v.func * 2 + v.job * 2 ^ 16)
  | 0x2004 => rc v.diff
  | 0x2008 => ro64 (match v.first with | some (row, e, job) => row + e * 2 ^ 18 + job * 2 ^ 32 + 2 ^ 63 | none => 0)
  | 0x2010 => ro64 v.rows
  | 0x3000 => ro64 (lvlMonitored s n (countStall s.now l.hoist.stallDeadline l.hoist.deadlineAt true).1)
  | 0x3008 => ro64 (lvlMonitored s n (countStall s.now l.hoist.stallWindow l.hoist.windowAt true).1)
  | 0x3010 => ro64 (lvlMonitored s n v.stallSide)
  | _ => firstReg [
    group o 0x0010 4 22 (fun k => ro (pmapWord (physOf s (22 * n + k)))),
    group o 0x1000 4 256 (fun k => rw (tallyOf s .level n k).count),
    group o 0x1400 4 8 (fun j => w1c (tallyFlags s .level n (32 * j) 32 (·.sat))),
    group o 0x1420 4 8 (fun j => w1c (tallyFlags s .level n (32 * j) 32 (·.under))),
    group o 0x1440 4 8 (fun j => ro (tallyFlags s .level n (32 * j) 32 hasWaiter)),
    group o 0x1800 4 256 (fun k => ro (tallyOf s .level n k).base)]

/-- HST_SLOT_k (R231): loaded, reduce phase once local rows or partials are here, result phase once a result is (DEDUCED, log
32). -/
def slotWord (x : HSlot) : Nat :=
  if x.loaded then
    let done := (x.slices.filter (fun e => e.2.finished)).length
    x.entry.id % 2 ^ 32 + (if done ≠ 0 then 3 else if x.segs.isEmpty && x.slices.isEmpty then 1 else 2) * 2 ^ 32 + done * 2 ^ 40
  else 0

/-- Registers of an HST_ block (R231). -/
def hstReg (s : State) (n o : Nat) : Option Reg :=
  let h := hoistOf s n
  match o with
  | 0x00 => rw (slotsLoaded h + windowsFree h * 2 ^ 16 + b2n h.cfgIgn * 2 ^ 23)
  | 0x04 => rw h.size
  | 0x08 => rc (h.lateLocal + h.latePartial * 2 ^ 16)
  | 0x0C => rc (h.orphan + h.dup * 2 ^ 16)
  | 0x10 => rc (h.chkTransient + h.chkFailed * 2 ^ 16)
  | 0x18 => ro64 (lvlMonitored s n h.tx)
  | 0x20 => ro64 (lvlMonitored s n h.rx)
  | 0x28 => ro64 (lvlMonitored s n h.sent)
  | _ => group o 0x1000 8 256 (fun k => ro64 (slotWord (slotOf h k)))

/-- RND_MARK_CTL_k (R299). -/
def markCtl (m : Mark) : Nat :=
  m.phase + m.action * 2 ^ 40 + m.tally * 2 ^ 42 + b2n m.fired * 2 ^ 62 + b2n m.armed * 2 ^ 63

/-- Level mark registers (R299). -/
def lmarkReg (s : State) (n o : Nat) : Option Reg :=
  let m := fun k => tget (levelOf s n).marks {} k
  match o with
  | 0x0400 => ro64 s.rnd.round
  | 0x0408 => ro64 (phaseNs s % 2 ^ 40)
  | 0x0410 => ro (marksFree s n)
  | _ => firstReg [
    group o 0x0000 16 64 (fun k => rw64 (m k).round),
    group o 0x0008 16 64 (fun k => rw64 (markCtl (m k)))]

/-- A mark armed as a reduction deadline: only the dispatcher writes it (R277, R307). -/
def deadlineArmed (s : State) (n k : Nat) : Bool :=
  let m := tget (levelOf s n).marks {} k
  m.armed && decide (m.action = 3)

/-! ### Headframe, ports, rounds, ledger -/

/-- Fabric and query registers of H0's block (R267). -/
def hdfReg (s : State) (h o : Nat) : Option Reg :=
  if h ≠ 0 then none
  else
    match o with
    | 0x00100000 => rw s.fabId
    | 0x00100004 => ro ((cadencePort s).getD 15 + min s.rnd.missed 3 * 2 ^ 4 + b2n s.rnd.cadLost * 2 ^ 6)
    | 0x00100008 => ro s.presences
    | 0x00100050 => ro ((s.absentCount + 15) % 16 * b2n (decide (s.absentCount ≠ 0)) + s.absentCount % 2 ^ 16 * 2 ^ 16)
    | 0x00110000 => ro s.conf.q
    | 0x00110040 => ro64 s.qServed
    | 0x00110048 => rc64 ((List.range 8).foldl (fun n i => n + tget s.qVoid 0 i * 2 ^ (8 * i)) 0)
    | 0x00110050 => rc s.qLate
    | _ => firstReg [
      group o 0x00100010 4 16 (fun k => ro (tget s.absentRing 0 k).toNat),
      group o 0x00101000 4 4096 (fun d => rw (tget s.routes 0 d).toNat),
      group o 0x00108000 16 64 (fun w => rw64 (tget s.lands {} w).base.toNat),
      group o 0x00108008 16 64 (fun w => rw64 (tget s.lands {} w).ctl.toNat),
      group o 0x00110004 4 8 (fun c => rw (tget s.qclass 0 c).toNat),
      group o 0x00110100 4 16 (fun i => ro (maskOf 16 (fun k => (tget s.qslots {} (16 * i + k)).busy)))]

/-- The state code of UAS_STAT (R266). -/
def portCode (k : PortState) : Nat := match k with | .down => 0 | .training => 1 | .up => 2 | .vigil => 3 | .retraining => 4

/-- Registers of a UAS_ block (R266). -/
def uasReg (s : State) (p o : Nat) : Option Reg :=
  let x := portOf s p
  match o with
  | 0x00 => rw x.cfg.toNat
  | 0x04 => ro (portCode x.state + x.gen * 2 ^ 3 + x.lanes * 2 ^ 5 + x.retired * 2 ^ 9 + x.partner * 2 ^ 16)
  | 0x08 => rc (x.downs + x.retrains * 2 ^ 8 + x.lanesRetired * 2 ^ 16 + x.discarded * 2 ^ 24)
  | 0x0C => rw x.retireCfg.toNat
  | 0x20 => rc x.replay
  | 0x24 => rc x.crcFail
  | 0x28 => ro x.delay
  | 0x30 => ro64 (x.tx + 272 * capsDue x s.now)
  | 0x38 => ro64 x.rx
  | _ => group o 0x10 4 4 (fun k => rc (tget x.corr 0 k))

/-- RND_STAT (R299). -/
def rndStat (s : State) : Nat :=
  let r := s.rnd
  b2n r.locked + 2 * b2n r.freeRun + 4 * b2n r.cadLost + 8 * min r.missed 3 + 32 * b2n r.backfill + 64 * b2n r.gobFull +
  128 * b2n r.cregIgn + 256 * b2n r.phaseIgn + 512 * b2n r.gobIgn

/-- Device round registers (R299). Of RND_SET_ROUND, once its value has been taken, a write of the high half alone finds a low half of
0 (R11; DESIGN CHOICE, log 32). -/
def rndReg (s : State) (o : Nat) : Option Reg :=
  let r := s.rnd
  match o with
  | 0x0000 => rw (r.source + 4 * b2n r.acceptAny)
  | 0x0004 => ro (rndStat s)
  | 0x0008 => ro64 r.round
  | 0x0010 => ro64 (phaseNs s % 2 ^ 40)
  | 0x0018 => rw (if r.source = 0 then r.lenUs else r.lenNew)
  | 0x001C => rw r.release
  | 0x0020 => rw r.commit
  | 0x0024 => wo false
  | 0x0028 => some { acc := .wo, wide := true, val := r.setRound.getD 0 }
  | 0x0030 => ro64 r.last.toNat
  | 0x0038 => ro64 r.commits
  | 0x0040 => ro64 r.drops
  | 0x0048 => rc (r.skipped + r.backward * 2 ^ 16 + r.misses * 2 ^ 24)
  | 0x004C => ro (r.step % (2 : Int) ^ 32).toNat
  | _ => firstReg [
    group o 0x0100 16 16 (fun k => rw64 (tget r.cregBase 0 k).toNat),
    group o 0x0108 16 16 (fun k => rw64 (tget r.cregSize 0 k).toNat),
    group o 0x0200 16 16 (fun k => rw64 (stackOf s k).gobBaseNew),
    group o 0x0208 16 16 (fun k => rw64 ((stackOf s k).gobCapNew + (stackOf s k).saved.length * 2 ^ 32))]

/-- Commands held for energy or in ebb (R289; DEDUCED, log 41). -/
def heldCommands (s : State) : Nat := (s.cmds.filter (fun c => c.heldEnergy && unfinished c)).length

/-- A figure of the ledger as a register of w bits shows it. -/
def clampTo (w n : Nat) : Nat := min n (2 ^ w - 1)

/-- Whole units of a figure of the ledger, saturating at 32 bits. -/
def unitsShown (q : Rat) : Nat := clampTo 32 q.floor.toNat

/-- Sensor numbers of Config.reading. -/
def sensorVin : Nat := 0
def sensorVaux : Nat := 1
def sensorPower : Nat := 2
def sensorTemp : Nat := 3
def sensorWhich : Nat := 6

/-- NRG_VIN: VIN in 10 mV units while it is valid, VAUX in mV while it is (R299, R418; DESIGN CHOICE, log 37). -/
def supplyWord (s : State) : Nat :=
  (if s.pins.vinOk then (Config.reading sensorVin s.now).toNat % 2 ^ 16 else 0) +
  (if s.pins.vauxOk then (Config.reading sensorVaux s.now).toNat % 2 ^ 16 else 0) * 2 ^ 16

/-- Ledger registers (R299; DESIGN CHOICE, log 37). -/
def nrgReg (s : State) (o : Nat) : Option Reg :=
  let n := s.nrg
  match o with
  | 0x0000 => rw n.cfg.toNat
  | 0x0004 => ro n.budget
  | 0x0008 => rw n.budgetNext
  | 0x000C => ro (clampTo 32 (n.spent / unitWns))
  | 0x0010 => ro (clampTo 32 n.reserved)
  | 0x0014 => ro (clampTo 32 n.projected)
  | 0x0018 => ro (n.density + 4 * b2n n.short + 8 * b2n n.exhausted + 16 * b2n s.ebb + min (heldCommands s) 255 * 2 ^ 8)
  | 0x001C => rw n.floor
  | 0x0020 => ro n.lastBudget
  | 0x0024 => ro n.lastSpent
  | 0x0028 => ro64 (n.total / unitWns)
  | 0x0030 => ro (supplyWord s)
  | 0x0034 => ro (clampTo 16 n.power)
  | 0x0038 => rc (n.ebbs + n.quenches * 2 ^ 16)
  | _ => group o 0x0100 8 16 (fun k => rw64 (tget n.classes 0 k).toNat)

/-! ### Host interface, faults, snapshots -/

/-- MBX_READY (R311). -/
def readyWord (s : State) : Nat := readyBits s.ep s.flt

/-- Host interface registers at BAR0 offset o (R311). -/
def hostReg (s : State) (o : Nat) : Option Reg :=
  let e := s.ep
  let x := fun m => mbxOf s m
  match o with
  | 0x00 => ro 0x00018160
  | 0x04 => ro (readyWord s)
  | 0x08 => w1c e.intStat.toNat
  | 0x0C => rw e.intMask.toNat
  | 0x10 => rw64 e.winBase.toNat
  | 0x18 => rc (b2n e.winErr + e.winHoles * 2 ^ 16)
  | _ => firstReg [
    group o 0x0040 8 15 (fun w => rw64 (tget e.cbw 0 w).toNat),
    group o 0x0100 32 8 (fun m => rw (b2n (x m).enable + 4 * b2n (x m).overrun)),
    group o 0x0104 32 8 (fun m => rw (x m).reqTail),
    group o 0x0108 32 8 (fun m => ro (x m).reqHead),
    group o 0x010C 32 8 (fun m => rw (x m).rspHead),
    group o 0x0110 32 8 (fun m => ro (x m).rspTail),
    group o 0x0114 32 8 (fun m => rw (x m).coal.toNat),
    group o 0x0118 32 8 (fun m => ro (if (x m).isOpen then (x m).qid + (x m).version * 2 ^ 16 + 2 ^ 18 else 0))]

/-- FLT_STAT (R370; DEDUCED, log 36). -/
def fltStat (f : Faults) : Nat :=
  b2n f.h0Active + 2 * b2n f.h1Active + 4 * b2n f.standby + 8 * b2n f.safeHalt + 16 * b2n f.recovery + 32 * b2n f.evqLost

/-- FLT_SPILL_k (R354, R370). -/
def spillWord (s : State) (k : Nat) : Nat :=
  let x := stackOf s k
  spillOf s k + 4 * x.moved.length + 16 * x.moved.getD 0 0 + 2 ^ 9 * x.moved.getD 1 0 + 2 ^ 14 * b2n x.exhausted

/-- Registers of the FLT_ block (R370). -/
def fltReg (s : State) (o : Nat) : Option Reg :=
  let f := s.flt
  match o with
  | 0x00 => ro (fltStat f)
  | 0x04 => ro (f.count % 512)
  | 0x08 => ro64 f.count
  | 0x10 => rc (f.hbMissed0 + f.hbMissed1 * 2 ^ 8 + f.takeovers * 2 ^ 16)
  | 0x14 => ro f.canary0.toNat
  | 0x18 => ro f.canary1.toNat
  | 0x1C => rc (f.memCured + f.storeCured * 2 ^ 16)
  | 0x20 => ro (f.retLanes.length % 64 + f.retPcs.length % 256 * 2 ^ 8 + f.retStopes.length % 256 * 2 ^ 16 + f.retMons.length % 16 * 2 ^ 24)
  | _ => firstReg [
    group o 0x0040 4 16 (fun k => rc (stackOf s k).corrected),
    group o 0x0080 4 16 (fun k => ro (spillWord s k)),
    group o 0x00C0 4 6 (fun j => ro (maskOf 32 (fun k => f.retStopes.contains (32 * j + k)))),
    group o 0x8000 4 8192 (fun i => ro (bits (tget f.log 0 (i / 16)).toNat (32 * (i % 16)) 32))]

/-- Registers of the SNP_ block (R397; DEDUCED, log 32). -/
def snpReg (s : State) (o : Nat) : Option Reg :=
  let n := s.snap
  match o with
  | 0x00 => ro (n.op + 8 * n.slot + 16 * b2n (hasKey s))
  | 0x04 => rw (b2n n.skipSame)
  | 0x08 => ro (n.rate + n.width * 2 ^ 3 + n.drives * 2 ^ 7 + n.refused * 2 ^ 10)
  | 0x10 => ro64 n.stagedBytes
  | 0x18 => ro64 n.digested
  | 0x20 => ro64 n.written
  | 0x28 => ro n.skipped
  | 0x2C => rc n.delayed
  | 0x30 => ro64 n.last.toNat
  | _ => firstReg [
    group o 0x0040 16 2 (fun i => ro64 (if slotUsable n i then slotRound (slotNo n i) + 2 ^ 63 else 0)),
    group o 0x0048 16 2 (fun i => ro64 (if slotUsable n i then slotSeq (slotNo n i) else 0))]

/-- Device tally registers (R190). -/
def dtalReg (s : State) (o : Nat) : Option Reg := firstReg [
  group o 0x0000 4 1024 (fun k => rw (tallyOf s .device 0 k).count),
  group o 0x1000 4 32 (fun j => w1c (tallyFlags s .device 0 (32 * j) 32 (·.sat))),
  group o 0x1080 4 32 (fun j => w1c (tallyFlags s .device 0 (32 * j) 32 (·.under))),
  group o 0x1100 4 32 (fun j => ro (tallyFlags s .device 0 (32 * j) 32 hasWaiter)),
  group o 0x2000 4 1024 (fun k => ro (tallyOf s .device 0 k).base)]

/-- The register at offset o of a block, if a register map lists it. -/
def regAt (s : State) (b : Blk) (o : Nat) : Option Reg :=
  match b with
  | .stp st => stpReg s st o
  | .trm st => trmReg s st o
  | .trc st => trcReg s st o
  | .lvl n => lvlReg s n o
  | .hst n => hstReg s n o
  | .lmark n => lmarkReg s n o
  | .hdf h => hdfReg s h o
  | .uas p => uasReg s p o
  | .rnd => rndReg s o
  | .nrg => nrgReg s o
  | .mbx => if 0x80000 ≤ o ∧ o < 0x80200 then hostReg s (o - 0x80000) else none
  | .snp => snpReg s o
  | .flt => fltReg s o
  | .dtal => dtalReg s o

/-- The register that a 32-bit word at offset o belongs to: its own offset, the register, and whether the word is its high
half. -/
def regWord (s : State) (b : Blk) (o : Nat) : Option (Nat × Reg × Bool) :=
  match regAt s b o with
  | some r => some (o, r, false)
  | none =>
    if 4 ≤ o then
      (match regAt s b (o - 4) with
        | some r => if r.wide then some (o - 4, r, true) else none
        | none => none)
    else none

/-! ### What a write does -/

/-- Tally flags cleared by the ones of v (R9, R189, R190). -/
def clearFlags (s : State) (sc : Scope) (unit first n v : Nat) (under : Bool) : State :=
  (List.range n).foldl (fun s k =>
    if bit v k then
      putTally s sc unit (first + k) (clearFlag s (tallyOf s sc unit (first + k)) under)
    else s) s

/-- A cause that stands has its vector due: an RSP bit once the slots that it covers reach the count or the hold-off has passed (R312). -/
def vectorDue (s : State) (b : Nat) : Bool :=
  let x := mbxOf s b
  let n := bits x.coal.toNat 16 8
  decide (8 ≤ b) || decide (x.coal.toNat = 0 ∨ x.uncovered = 0) || decide (n ≠ 0 ∧ n ≤ x.uncovered) ||
  decide (x.uncoveredAt + 1000 * bits x.coal.toNat 0 16 ≤ s.now)

/-- MBX_INT_MASK: a cause that is unmasked while it stands sends its vector, once that is due (R312; DEDUCED, log 32). -/
def writeIntMask (s : State) (v : Nat) : State :=
  let old := s.ep.intMask.toNat
  let s := { s with ep := { s.ep with intMask := BitVec.ofNat 32 (v % 2 ^ 10) } }
  (List.range 10).foldl (fun s b => if bit old b ∧ bit v b = false ∧ bit s.ep.intStat.toNat b ∧ vectorDue s b then (if b < 8 then coverSlots s b else sendVector s b) else s) s

/-- MBX_CTL_m: ENABLE, FLUSH of a mailbox that was and stays disabled, OVERRUN (R311; DEDUCED, log 32). -/
def writeMbxCtl (s : State) (m v : Nat) : State :=
  let s := if bit v 1 ∧ bit v 0 = false then flushMbx s m else s
  modMbx s m (fun x => { x with enable := bit v 0, overrun := x.overrun && !bit v 2 })

/-- A write of a host interface register (R311). -/
def hostPut (s : State) (o v : Nat) : State :=
  let m := (o - 0x100) / 32
  match o with
  | 0x08 => { s with ep := { s.ep with intStat := s.ep.intStat &&& ~~~ (BitVec.ofNat 32 v) } }
  | 0x0C => writeIntMask s v
  | 0x10 => { s with ep := { s.ep with winBase := BitVec.ofNat 64 (v / 2 ^ 15 % 2 ^ 33 * 2 ^ 15) } }
  | _ =>
    if o < 0x100 then
      { s with ep := { s.ep with cbw := tset s.ep.cbw 0 ((o - 0x40) / 8) (BitVec.ofNat 64 (v % 4 + v / 2 ^ 20 % 2 ^ 28 * 2 ^ 20)) } }
    else
      match (o - 0x100) % 32 with
      | 0x00 => writeMbxCtl s m v
      | 0x04 => writeReqTail s m v
      | 0x0C => writeRspHead s m v
      | 0x14 => modMbx s m (fun x => { x with coal := BitVec.ofNat 32 (v % 2 ^ 24) })
      | _ => s

/-- Mark k as a write of v to its control register leaves it (R276, R299). -/
def putMarkCtl (s : State) (m : Mark) (v : Nat) : Mark :=
  let m := { m with phase := v % 2 ^ 40, action := bits v 40 2, tally := bits v 42 10, fired := m.fired && !bit v 62 }
  if bit v 63 then armNow s m else { m with armed := false }

/-- A level mark register; one armed as a deadline is the dispatcher's (R277, R299). -/
def markPut (s : State) (n o v : Nat) : State :=
  let k := o / 16
  if deadlineArmed s n k then s
  else
    modLevel s n (fun l =>
      let m := tget l.marks {} k
      { l with marks := tset l.marks {} k (
          if o % 16 ≠ 0 then putMarkCtl s m v
          else if m.armed then armNow s { m with round := v % 2 ^ 48 } else { m with round := v % 2 ^ 48 }) })

/-- HDF_LAND_CTL_w: a size or a base that does not fit leaves the window invalid (R267; DEDUCED, log 32). -/
def landCtl (s : State) (w v : Nat) : State :=
  let l := tget s.lands {} w
  let size := bits v 8 8
  let base := l.base.toNat
  let ok := decide (16 ≤ size ∧ size ≤ 36 ∧ base % 2 ^ size = 0) && (match locate s base with | .hbm .. => true | _ => false)
  let v := b2n (bit v 0 && ok) + size * 2 ^ 8 + bits v 16 11 * 2 ^ 16 + bits v 32 12 * 2 ^ 32
  { s with lands := tset s.lands {} w { l with ctl := BitVec.ofNat 64 v } }

/-- A write of a fabric or query register (R267). -/
def hdfPut (s : State) (o v : Nat) : State :=
  if o = 0x00100000 then recountPorts (setFabId s (v % 2 ^ 12))
  else if o < 0x00108000 then { s with routes := tset s.routes 0 ((o - 0x00101000) / 4) (BitVec.ofNat 32 (v % 32)) }
  else if o < 0x00110000 then
    let w := (o - 0x00108000) / 16
    if o % 16 = 0 then { s with lands := tset s.lands {} w { tget s.lands {} w with base := BitVec.ofNat 64 (v % 2 ^ 48) } }
    else landCtl s w v
  else { s with qclass := tset s.qclass 0 ((o - 0x00110004) / 4) (BitVec.ofNat 32 (v % 2 ^ 17)) }

/-- RND_CFG: SOURCE 3 is reserved and changes nothing of SOURCE (R269; log 32; DEDUCED, log 17). -/
def writeRndCfg (s : State) (v : Nat) : State :=
  { s with rnd := { s.rnd with source := if v % 4 = 3 then s.rnd.source else v % 4, acceptAny := bit v 2 } }

/-- RND_LENGTH: ignored with SOURCE 0; a round lasts 1 ms to 60 s (R268, R273, R299; log 32). -/
def writeLength (s : State) (v : Nat) : State :=
  let n := v % 2 ^ 26
  if s.rnd.source = 0 ∨ n < 1000 ∨ 60000000 < n then s else { s with rnd := { s.rnd with lenNew := n } }

/-- RND_CTL (R299). -/
def writeRndCtl (s : State) (v : Nat) : State :=
  if bit v 0 ∧ s.rnd.decided = false then { s with rnd := { s.rnd with dropReq := true } } else s

/-- A write of a device round register (R273, R275, R278, R279, R299). -/
def rndPut (s : State) (o v : Nat) : State :=
  match o with
  | 0x0000 => writeRndCfg s v
  | 0x0004 => { s with rnd := { s.rnd with
      cadLost := s.rnd.cadLost && !bit v 2, cregIgn := s.rnd.cregIgn && !bit v 7
      phaseIgn := s.rnd.phaseIgn && !bit v 8, gobIgn := s.rnd.gobIgn && !bit v 9 } }
  | 0x0018 => writeLength s v
  | 0x001C => { s with rnd := { s.rnd with release := v % 2 ^ 26 } }
  | 0x0020 => { s with rnd := { s.rnd with commit := v % 2 ^ 26 } }
  | 0x0024 => writeRndCtl s v
  | 0x0028 => { s with rnd := { s.rnd with setRound := some (v % 2 ^ 48) } }
  | _ =>
    if o < 0x200 then writeRegion s ((o - 0x100) / 16) (decide (o % 16 ≠ 0)) v
    else writeGob s ((o - 0x200) / 16) (decide (o % 16 ≠ 0)) v

/-- A write of a ledger register (R287, R299). -/
def nrgPut (s : State) (o v : Nat) : State :=
  match o with
  | 0x0000 => { s with nrg := { s.nrg with cfg := BitVec.ofNat 32 v &&& 0x00FFFF03 } }
  | 0x0008 => writeBudget s v
  | 0x001C => { s with nrg := { s.nrg with floor := v % 2 ^ 16 } }
  | _ => { s with nrg := { s.nrg with classes := tset s.nrg.classes 0 ((o - 0x100) / 8) (BitVec.ofNat 64 (v % 2 ^ 58)) } }

/-- A write of v to the register at its own offset o: its effect, reserved fields left out (R8, R9). Registers that take no
write are left alone. -/
def regPut (s : State) (b : Blk) (o v : Nat) : State :=
  match b with
  | .stp st =>
    if o = 0x0900 then clearFlags s .stope st 0 64 v false
    else if o = 0x0908 then clearFlags s .stope st 0 64 v true
    else if 0x0800 ≤ o ∧ o < 0x0900 then writeCount s .stope st ((o - 0x0800) / 4) v
    else s
  | .trc st =>
    if o = 0 then
      let s := modStope s st (fun x => { x with trace := { x.trace with ctl := BitVec.ofNat 32 v &&& 0x01FF0003 } })
      if bit v 2 then clearTrace s st else s
    else s
  | .lvl n =>
    if 0x1000 ≤ o ∧ o < 0x1400 then writeCount s .level n ((o - 0x1000) / 4) v
    else if 0x1400 ≤ o ∧ o < 0x1440 then clearFlags s .level n (32 * ((o - 0x1400) / 4 % 8)) 32 v (decide (0x1420 ≤ o))
    else s
  | .hst n =>
    if o = 0 then modHoist s n (fun h => { h with cfgIgn := h.cfgIgn && !bit v 23 })
    else if o = 4 then writeWinCfg s n v
    else s
  | .lmark n => if o < 0x400 then markPut s n o v else s
  | .hdf h => if h = 0 then hdfPut s o v else s
  | .uas p =>
    if o = 0 then writeUasCfg s p (BitVec.ofNat 32 v)
    else if o = 0x0C then modPort s p (fun x => { x with retireCfg := BitVec.ofNat 32 v })
    else s
  | .rnd => rndPut s o v
  | .nrg => nrgPut s o v
  | .mbx => hostPut s (o - 0x80000) v
  | .snp => if o = 4 then { s with snap := { s.snap with skipSame := bit v 0 } } else s
  | .flt => if o = 0 then { s with flt := { s.flt with evqLost := s.flt.evqLost && !bit v 5 } } else s
  | .dtal =>
    if o < 0x1000 then writeCount s .device 0 (o / 4) v
    else if o < 0x1100 then clearFlags s .device 0 (32 * ((o - 0x1000) / 4 % 32)) 32 v (decide (0x1080 ≤ o))
    else s
  | .trm _ => s

/-- A register whose map holds W1C fields though the register itself is RO: its flags are cleared by writes (R274, R299, R370;
DEDUCED, log 32). -/
def flagsInside (b : Blk) (o : Nat) : Bool := decide ((b = .rnd ∧ o = 0x0004) ∨ (b = .flt ∧ o = 0))

/-- A register takes writes by its access code (R9). -/
def takesWrite (b : Blk) (o : Nat) (r : Reg) : Bool :=
  flagsInside b o || (match r.acc with | .rw => true | .wo => true | .w1c => true | _ => false)

/-- The registers that the host cannot write (R307). -/
def hostExcepted (s : State) (b : Blk) (o : Nat) : Bool :=
  match b with
  | .hdf _ => decide (o = 0x00100000)
  | .hst _ => decide (o = 4)
  | .uas _ => decide (o = 0x0C)
  | .lmark n => decide (o < 0x400) && deadlineArmed s n (o / 16)
  | _ => false

/-- A write that the window refuses (R306, R307). -/
def winError (s : State) : State := { s with ep := { s.ep with winErr := true } }

/-- Every listed register may be written by this writer: access code for all, the table of R307 for the host's window
(DEDUCED, log 32). -/
def mayPut (s : State) (window : Bool) (b : Blk) (o : Nat) (r : Reg) : Bool :=
  takesWrite b o r && !(window && hostExcepted s b o)

/-- The key under which a 64-bit register's held and latched halves stand: its device physical address (R11). -/
def blockBase (b : Blk) : Nat :=
  0x030000000000 + (match b with
    | .stp st => st * 2 ^ 16
    | .trm st => st * 2 ^ 16 + 0x8000
    | .trc st => st * 2 ^ 16 + 0xC000
    | .lvl n => 0x100000000 + n * 2 ^ 20
    | .hst n => 0x100080000 + n * 2 ^ 20
    | .lmark n => 0x1000C0000 + n * 2 ^ 20
    | .hdf h => 0x200000000 + h * 2 ^ 24
    | .uas p => 0x300000000 + p * 2 ^ 16
    | .rnd => 0x300100000
    | .nrg => 0x300200000
    | .mbx => 0x300300000
    | .snp => 0x300400000
    | .flt => 0x300500000
    | .dtal => 0x300600000)

/-- Low halves held, by key. -/
def heldLow (s : State) (key : Nat) : Option Word32 := (s.lowHeld.find? (fun e => decide (e.1 = key))).map (·.2)

/-- A 32-bit write at offset o of a block (R11, R306, R307). -/
def writeWord (s : State) (window : Bool) (b : Blk) (o v : Nat) : State :=
  match regWord s b o with
  | none => s
  | some (base, r, high) =>
    if mayPut s window b base r = false then (if window then winError s else s)
    else if r.wide = false then regPut s b base v
    else
      let key := blockBase b + base
      if high then
        let low := match heldLow s key with | some x => x.toNat | none => r.val % 2 ^ 32
        regPut { s with lowHeld := tdel s.lowHeld key } b base (low + v * 2 ^ 32)
      else { s with lowHeld := tput s.lowHeld key (BitVec.ofNat 32 v) }

/-- A 64-bit write at offset o of a block: one 64-bit register, or two 32-bit accesses, the lower first (R11). A low half that the
register held is dropped, which the spec leaves open (DESIGN CHOICE, log 32). -/
def writeDouble (s : State) (window : Bool) (b : Blk) (o v : Nat) : State :=
  match regAt s b o with
  | some r =>
    if r.wide then
      (if mayPut s window b o r = false then (if window then winError s else s)
      else regPut { s with lowHeld := tdel s.lowHeld (blockBase b + o) } b o v)
    else writeWord (writeWord s window b o (v % 2 ^ 32)) window b (o + 4) (v / 2 ^ 32)
  | none => writeWord (writeWord s window b o (v % 2 ^ 32)) window b (o + 4) (v / 2 ^ 32)

/-- The domain in which a block's registers stand is powered and out of reset (R37, R403, R411; DEDUCED, log 26). -/
def blockLive (s : State) (b : Blk) : Bool :=
  match b with
  | .stp st => !levelHeld s (stopeLevel st)
  | .trm st => !levelHeld s (stopeLevel st)
  | .trc st => !levelHeld s (stopeLevel st)
  | .lvl n => !levelHeld s n
  | .hst n => !levelHeld s n
  | .lmark n => !levelHeld s n
  | .rnd => aonOn s
  | .nrg => aonOn s
  | .mbx => aonOn s
  | _ => headsUp s

/-- Width 4 or 8 and naturally aligned. -/
def aligned (a width : Nat) : Bool := decide ((width = 4 ∨ width = 8) ∧ a % width = 0)

/-- A write of `width` bytes at device physical address pa of the register-block row (R31); `none` for ADDR_HOLE. The mailbox
rings behave as memory (R308). -/
def blockWrite (s : State) (window : Bool) (pa width v : Nat) : Option State :=
  if aligned pa width = false then none
  else
    match blockOf pa with
    | none => none
    | some (b, o) =>
      if blockLive s b = false then some s
      else if b = .mbx ∧ o < 0x80000 then some (writeCells s (cellsAt pa (toBytes width v)))
      else some (if width = 8 then writeDouble s window b o v else writeWord s window b o (v % 2 ^ 32))

/-- The register window's base is legal (R306). -/
def winOk (base : Nat) : Bool := decide (base % 2 ^ 15 = 0 ∧ 0x030000000000 ≤ base ∧ base ≤ 0x0303FFFFFFFF)

/-- A window access that reached a hole counts (R311; DEDUCED, log 46). -/
def countHole (s : State) : State := { s with ep := { s.ep with winHoles := satAdd 16 s.ep.winHoles 1 } }

/-- A host write through the register window (R306, R307; DEDUCED, log 46). -/
def windowWrite (s : State) (o width v : Nat) : State :=
  let base := s.ep.winBase.toNat
  if winOk base = false then winError s
  else match blockWrite s true (base + o) width v with | some t => t | none => countHole s

/-- A 32-bit word of the MSI-X table: message words 0 to 2, the mask in word 3; unmasking sends a pending vector (R312). -/
def msixWrite (s : State) (o v : Nat) : State :=
  let k := o / 16
  let e := s.ep
  if o % 16 = 12 then
    freeVector { s with ep := { e with msixMask := tset e.msixMask true k (bit v 0) } } k
  else
    let lo := 8 * (o % 16)
    let row : BitVec 96 := BitVec.ofNat 96 (blend (tget e.msixEntry 0 k).toNat (v * 2 ^ lo) ((2 ^ 32 - 1) * 2 ^ lo))
    { s with ep := { e with msixEntry := tset e.msixEntry 0 k row } }

/-- A host write at BAR0 offset o (R305); the endpoint accepts aligned accesses of 4 and 8 bytes only (DEDUCED, log 46). -/
def barWrite (s : State) (o width v : Nat) : State :=
  if aligned o width = false then s
  else if o < 0x200 then
    (if width = 8 then writeDouble s false .mbx (0x80000 + o) v else writeWord s false .mbx (0x80000 + o) (v % 2 ^ 32))
  else if 0x6000 ≤ o ∧ o < 0x6400 then
    (if width = 8 then msixWrite (msixWrite s (o - 0x6000) (v % 2 ^ 32)) (o - 0x6000 + 4) (v / 2 ^ 32)
    else msixWrite s (o - 0x6000) (v % 2 ^ 32))
  else if 0x8000 ≤ o ∧ o < 0x10000 then windowWrite s (o - 0x8000) width v
  else s

/-- A host write of bytes at BAR2 offset o: the mailbox rings, the command-buffer windows, else ignored (R308, R309). The rows of the
requests and STACK_WRITE carry what the host writes there; the function says what a write does. -/
def bar2Write (s : State) (o : Nat) (bs : List Byte) : State :=
  if o + bs.length ≤ 0x80000 then writeCells s (cellsAt (ringAddr 0 o) bs)
  else if 0x100000 ≤ o ∧ o < 0x1000000 then
    let v := (tget s.ep.cbw 0 ((o - 0x100000) / 2 ^ 20)).toNat
    if bit v 0 ∧ bit v 1 then hostWrite s (bits v 20 28 * 2 ^ 20 + o % 2 ^ 20) bs else s
  else s

/-- A host read of n bytes at BAR2 offset o: 0 outside the rings and the valid windows onto HBM data or a trace ring (R308, R309). -/
def bar2Read (s : State) (o n : Nat) : List Byte :=
  let zeros := List.replicate n (0 : Byte)
  if o + n ≤ 0x80000 then (List.range n).map (fun i => cellAt s.mem (ringAddr 0 o + i))
  else if 0x100000 ≤ o ∧ o < 0x1000000 then
    let v := (tget s.ep.cbw 0 ((o - 0x100000) / 2 ^ 20)).toNat
    let pa := bits v 20 28 * 2 ^ 20 + o % 2 ^ 20
    if bit v 0 = false then zeros
    else match locate s pa with | .hbm .. => readBytes s pa n | .trace .. => readBytes s pa n | _ => zeros
  else zeros

/-- The endpoint serves accesses: its responder runs and PERST_N has risen since the supplies became valid (R301, R304, R424). -/
def barServed (s : State) : Bool := s.ep.cfgServed && aonOn s

/-- Software's access comes in a cycle of its own: what the blocks did up to now is past, and an event of the access's own cycle
follows it, so that no clear takes an event away (R10; DESIGN CHOICE, log 32). -/
def ownCycle (s : State) : State := advance s (s.now + 1)

/-- REGISTER_WRITE: a host write at a BAR0 offset, or a foreman write at a device physical address; one of a controller that has failed is
dropped (R9 to R11, R305 to R307, R364). -/
def execRegisterWrite (host : Bool) (pa width : Nat) (v : Word64) (s : State) : Answer :=
  let v := v.toNat % 2 ^ (8 * width)
  let s := ownCycle s
  if host then (if barServed s then .next (barWrite s pa width v) else .next s)
  else if (activeHead s).isNone then .next s
  else match blockWrite s false pa width v with | some t => .next t | none => .next s

/-! ### Configuration space (R300, R301, R343) -/

/-- A configuration word of the endpoint: the identification, BARs and capabilities of R300 at the places of the PCIe header, with PCI
Express at 0x40 (its Link Capabilities: 64.0 GT/s, x4, ASPM L1; the supported rates at 0x6C), MSI-X at 0x80, AER at 0x100 and Device 3
with L0p at 0x140; the reset values of the writable fields are PCIe's (PRESUMED, log 20). -/
def cfgWord (e : Endpoint) (o : Nat) : Nat :=
  match o with
  | 0x00 => 0x81601FD6
  | 0x04 => e.command.toNat + 0x00100000
  | 0x08 => 0x12000001
  | 0x10 => e.bar0.toNat
  | 0x18 => e.bar2.toNat % 2 ^ 32 + 0xC
  | 0x1C => e.bar2.toNat / 2 ^ 32
  | 0x2C => 0x00001FD6
  | 0x34 => 0x40
  | 0x40 => 0x00028010
  | 0x44 => 0x10000002
  | 0x48 => e.devCtl.toNat
  | 0x4C => 0x00000846
  | 0x6C => 0x0000007E
  | 0x80 => 0x003F0011 + e.msixCtl.toNat * 2 ^ 16
  | 0x84 => 0x6000
  | 0x88 => 0x6400
  | 0x100 => 0x14010001
  | 0x104 => b2n e.aerFatal * 2 ^ 22
  | 0x10C => 2 ^ 22
  | 0x140 => 0x0001002F
  | 0x144 => 0x00000008
  | _ => 0

/-- A host read of a configuration word, served once PERST_N has risen (R301). No row of the command table accesses configuration space;
the functions say what an access does (DEDUCED, log 20). -/
def cfgRead (s : State) (o : Nat) : Nat := if barServed s then cfgWord s.ep (o / 4 * 4) else 0

/-- A host write of a configuration word: the command register, the BARs, Device Control with Function Level Reset, MSI-X enable and function mask, the AER status
of the fatal error by writing one (R300, R304, R343; PRESUMED, log 20). -/
def cfgWrite (s : State) (o v : Nat) : State :=
  let e := s.ep
  if barServed s = false then s
  else
    let put := fun (x : Endpoint) => { s with ep := x }
    match o with
    | 0x04 => put { e with command := BitVec.ofNat 16 v &&& 0x0546 }
    | 0x10 => put { e with bar0 := BitVec.ofNat 32 (v / 2 ^ 16 * 2 ^ 16) }
    | 0x18 => put { e with bar2 := BitVec.ofNat 64 (e.bar2.toNat / 2 ^ 32 * 2 ^ 32 + v % 2 ^ 32 / 2 ^ 24 * 2 ^ 24) }
    | 0x1C => put { e with bar2 := BitVec.ofNat 64 (e.bar2.toNat % 2 ^ 32 + v % 2 ^ 32 * 2 ^ 32) }
    | 0x48 => if bit v 15 then put (resetEndpoint e) else put { e with devCtl := BitVec.ofNat 16 v }
    | 0x80 => (List.range 64).foldl freeVector (put { e with msixCtl := BitVec.ofNat 16 (v / 2 ^ 16) &&& 0xC000 })
    | 0x104 => put { e with aerFatal := e.aerFatal && !bit v 22 }
    | _ => s

/-! ### Reads -/

/-- What a read of an RC register clears (R9, R10). -/
def regClear (s : State) (b : Blk) (o : Nat) : State :=
  match b, o with
  | .stp st, 0x040C => modStope s st (fun x => { x with wldTransient := 0, wldPersistent := 0 })
  | .stp st, 0x0440 => modStope s st (fun x => { x with cvtSat := 0 })
  | .stp st, 0x0444 => modStope s st (fun x => { x with cvtUnder := 0 })
  | .stp st, 0x0448 => modStope s st (fun x => { x with cvtNan := 0 })
  | .stp st, 0x044C => modStope s st (fun x => { x with asTransient := 0, asFailed := 0, asFormat := 0 })
  | .stp st, 0x091C => modStope s st (fun x => { x with bellWakes := 0 })
  | .trm st, 0x08 => modStope s st (fun x => { x with chkTransient := 0, chkPersistent := 0, chkMismatch := 0 })
  | .trm st, 0x0C => modStope s st (fun x => { x with discarded := 0, resumed := 0 })
  | .trc st, 0x10 => modStope s st (fun x => { x with trace := { x.trace with lost := 0 } })
  | .lvl n, 0x2004 => modLevel s n (fun l => { l with sieve := { l.sieve with diff := 0 } })
  | .hst n, 0x08 => modHoist s n (fun h => { h with lateLocal := 0, latePartial := 0 })
  | .hst n, 0x0C => modHoist s n (fun h => { h with orphan := 0, dup := 0 })
  | .hst n, 0x10 => modHoist s n (fun h => { h with chkTransient := 0, chkFailed := 0 })
  | .hdf _, 0x00110048 => { s with qVoid := [] }
  | .hdf _, 0x00110050 => { s with qLate := 0 }
  | .uas p, 0x08 => modPort s p (fun x => { x with downs := 0, retrains := 0, lanesRetired := 0, discarded := 0 })
  | .uas p, 0x20 => modPort s p (fun x => { x with replay := 0 })
  | .uas p, 0x24 => modPort s p (fun x => { x with crcFail := 0 })
  | .uas p, o => modPort s p (fun x => { x with corr := tset x.corr 0 ((o - 0x10) / 4) 0 })
  | .rnd, _ => { s with rnd := { s.rnd with skipped := 0, backward := 0, misses := 0 } }
  | .nrg, _ => { s with nrg := { s.nrg with ebbs := 0, quenches := 0 } }
  | .mbx, _ => { s with ep := { s.ep with winErr := false, winHoles := 0 } }
  | .snp, _ => { s with snap := { s.snap with delayed := 0 } }
  | .flt, 0x10 => { s with flt := { s.flt with hbMissed0 := 0, hbMissed1 := 0, takeovers := 0 } }
  | .flt, 0x1C => { s with flt := { s.flt with memCured := 0, storeCured := 0 } }
  | .flt, o => modStack s ((o - 0x40) / 4) (fun x => { x with corrected := 0 })
  | _, _ => s

/-- A block's state at the present cycle: what is due in a stope has happened. -/
def settledFor (s : State) (b : Blk) : State := match b with | .stp st => settle s st | .trc st => settle s st | _ => s

/-- A register read: its value, 0 for one that is only written, and an RC register cleared (R9; DEDUCED, log 32). -/
def readReg (s : State) (b : Blk) (o : Nat) (r : Reg) : Nat × State :=
  (match r.acc with | .wo => 0 | _ => r.val, if r.acc = .rc then regClear s b o else s)

/-- A 32-bit read: the low half of a 64-bit register latches its high half, which the next read of the high half returns (R11). A
high half read with no latch returns the register's present high half and clears nothing: the spec leaves it open (DESIGN
CHOICE, log 32). -/
def readWord (s : State) (b : Blk) (o : Nat) : Nat × State :=
  match regWord s b o with
  | none => (0, s)
  | some (base, r, high) =>
    let key := blockBase b + base
    if r.wide = false then readReg s b base r
    else if high then
      match (s.highLatch.find? (fun e => decide (e.1 = key))).map (·.2) with
      | some x => (x.toNat, { s with highLatch := tdel s.highLatch key })
      | none => ((readReg s b base r).1 / 2 ^ 32, s)
    else
      let q := readReg s b base r
      (q.1 % 2 ^ 32, { q.2 with highLatch := tput q.2.highLatch key (BitVec.ofNat 32 (q.1 / 2 ^ 32)) })

/-- A 64-bit read (R11). -/
def readDouble (s : State) (b : Blk) (o : Nat) : Nat × State :=
  match regAt s b o with
  | some r =>
    if r.wide then readReg s b o r
    else
      let a := readWord s b o
      let c := readWord a.2 b (o + 4)
      (a.1 + c.1 * 2 ^ 32, c.2)
  | none =>
    let a := readWord s b o
    let c := readWord a.2 b (o + 4)
    (a.1 + c.1 * 2 ^ 32, c.2)

/-- A read of `width` bytes in the register-block row: the value, and the state after it; a hole reads 0 (R9, R11, R31). No
row of the command table reads; the function says what a read returns (DEDUCED, log 32). -/
def blockRead (s : State) (pa width : Nat) : Nat × State :=
  if aligned pa width = false then (0, s)
  else
    match blockOf pa with
    | none => (0, s)
    | some (b, o) =>
      if b = .mbx ∧ o < 0x80000 then (ofBytes ((List.range width).map (fun i => cellAt s.mem (pa + i))), s)
      else
        let s := settledFor s b
        let q := if width = 8 then readDouble s b o else readWord s b o
        (q.1, ownCycle q.2)

/-- A foreman read of n bytes of memory: sieve side memory, whose port it takes, and what else physical addresses reach (R195, R428; DEDUCED,
log 48). -/
def foremanRead (s : State) (pa n : Nat) : List Byte × State :=
  if wholly (fun a => mayRead s a || (match locate s a with | .sieve .. => true | _ => false)) pa n then (readBytes s pa n, sidePort s .foreman pa n)
  else (List.replicate n (0 : Byte), s)

/-- A host read at BAR0 offset o (R305, R306; DEDUCED, log 32). -/
def barRead (s : State) (o width : Nat) : Nat × State :=
  if aligned o width = false then (0, s)
  else if o < 0x200 then blockRead s (0x030300380000 + o) width
  else if 0x6000 ≤ o ∧ o < 0x6400 then
    let e := tget s.ep.msixEntry 0 ((o - 0x6000) / 16)
    let row := e.toNat + b2n (tget s.ep.msixMask true ((o - 0x6000) / 16)) * 2 ^ 96
    (bits row (8 * (o % 16)) (8 * width), s)
  else if 0x6400 ≤ o ∧ o < 0x6408 then (bits s.ep.pba (8 * (o - 0x6400)) (8 * width), s)
  else if 0x8000 ≤ o ∧ o < 0x10000 then
    let base := s.ep.winBase.toNat
    let pa := base + (o - 0x8000)
    if winOk base = false then (0, winError s)
    else if (blockOf pa).isNone then (0, countHole s)
    else blockRead s pa width
  else (0, s)

end Sys2Proof.Machine
end

