-- ==== Sys2Proof/Machine/Sideband.lean ====
section
/-! DEFINITION. The sideband: the I3C target (R416 to R419), JTAG (R420), and what the open-drain pins show (R414, R423). -/

namespace Sys2Proof.Machine

/-! ### The I3C target: addressing (R416, R417; log 33) -/

/-- The target answers: VAUX is valid (R416). -/
def targetOn (s : State) : Bool := s.pins.vauxOk

/-- The target with another dynamic address. -/
def setDyn (s : State) (a : Option Nat) : State := { s with i3c := { s.i3c with dyn := a } }

/-- The address that an assignment gives: the target takes one while it answers and `may` holds. -/
def assignDyn (s : State) (may : Bool) (addr : Nat) : State := if targetOn s && may then setDyn s (some (addr % 2 ^ 7)) else s

/-- I3C_ENTDAA: a target without a dynamic address takes the one offered (PRESUMED, log 33). -/
def execI3cEntdaa (addr : Nat) (s : State) : Answer := .next (assignDyn s s.i3c.dyn.isNone addr)

/-- I3C_SETDASA, directed to the static address 0x52: a target without a dynamic address takes the one named (PRESUMED, log
33). -/
def execI3cSetdasa (addr : Nat) (s : State) : Answer := .next (assignDyn s s.i3c.dyn.isNone addr)

/-- I3C_SETNEWDA: a target with a dynamic address changes it (PRESUMED, log 33). -/
def execI3cSetnewda (addr : Nat) (s : State) : Answer := .next (assignDyn s s.i3c.dyn.isSome addr)

/-- I3C_RSTDAA: the dynamic address is gone (PRESUMED, log 33). -/
def execI3cRstdaa (s : State) : Answer := if targetOn s then .next (setDyn s none) else .next s

/-- In-band interrupts on or off. -/
def setEnec (s : State) (on : Bool) : State := if targetOn s then { s with i3c := { s.i3c with enec := on } } else s

/-- I3C_ENEC (R419). -/
def execI3cEnec (s : State) : Answer := .next (setEnec s true)

/-- I3C_DISEC (R416). -/
def execI3cDisec (s : State) : Answer := .next (setEnec s false)

/-- The target returns bytes. -/
def answerI3c (s : State) (bs : List Byte) : State := if targetOn s then emit s (.i3c bs) else s

/-- I3C_GETPID: the Provisioned ID, whose value the spec does not give (R417; PRESUMED, log 33). -/
def execI3cGetpid (s : State) : Answer := .next (answerI3c s (toBytes 6 Config.provisionedId))

/-- I3C_GETBCR. -/
def execI3cGetbcr (s : State) : Answer := .next (answerI3c s (toBytes 1 Config.busCharacteristics))

/-- I3C_GETDCR. -/
def execI3cGetdcr (s : State) : Answer := .next (answerI3c s (toBytes 1 Config.deviceCharacteristics))

/-- I3C_GETSTATUS: two bytes that the spec does not give, a free value (PRESUMED, log 33). -/
def execI3cGetstatus (s : State) : Answer :=
  if targetOn s then .next (answerI3c (useFree s 1) (toBytes 2 (freeAt s 0))) else .next s

/-! ### The I3C target: registers (R418, R419) -/

/-- STATE of HDF_I3C_STATE. -/
def i3cStateCode (s : State) : Nat :=
  if s.flt.safeHalt then 5 else if s.quench then 7
  else match s.power with
    | .starting => 6
    | .quenched => 7
    | .vigil => 3
    | .doze => if s.ebb then 4 else 2
    | .idle => if s.ebb then 4 else 1
    | .full => if s.ebb then 4 else 0

/-- HDF_I3C_STATE. -/
def i3cStateWord (s : State) : Nat :=
  let r := readyBits s.ep s.flt
  i3cStateCode s + 8 * b2n s.pins.vinOk + 16 * b2n (bit r 0) + 32 * b2n (bit r 4) + 64 * b2n s.pins.tripLatch

/-- Some level core is powered (R37, R418). -/
def levelsPowered (s : State) : Bool := decide (s.power ≠ .doze) && (List.range 8).any (fun n => (levelOf s n).up)

/-- The headframe mains are powered: a controller runs, or safe halt stands (R37, R418). -/
def mainsPowered (s : State) : Bool := headsUp s || s.flt.safeHalt

/-- HBM is trained and powered; self-refresh in Doze is power (R37, R418; DEDUCED, log 37). -/
def stacksPowered (s : State) : Bool :=
  match s.power with
  | .vigil => !s.boot.steps.isEmpty && !s.boot.steps.contains .memory
  | .starting => !s.boot.steps.isEmpty && !s.boot.steps.contains .memory
  | .quenched => !s.boot.again
  | _ => true

/-- A temperature of 8 bits, 0x80 while its domain is unpowered (R418). -/
def tempField (s : State) (powered : Bool) (k : Nat) : Nat :=
  if s.pins.vinOk && powered then (Config.reading (sensorTemp + k) s.now).toNat % 2 ^ 8 else 0x80

/-- HDF_I3C_TEMP: three temperatures and the hottest level, unavailable while their domains are unpowered (R418; DESIGN CHOICE, log 37). -/
def i3cTemps (s : State) : Nat :=
  tempField s (levelsPowered s) 0 + tempField s (mainsPowered s) 1 * 2 ^ 8 + tempField s (stacksPowered s) 2 * 2 ^ 16 +
  (if s.pins.vinOk && levelsPowered s then (Config.reading sensorWhich s.now).toNat % 8 * 2 ^ 24 else 0)

/-- The register at index i; an unlisted one reads 0 (PRESUMED, log 33). -/
def i3cReg (s : State) (i : Nat) : Nat :=
  match i with
  | 0x00 => 0x00018160
  | 0x04 => i3cStateWord s
  | 0x08 => i3cTemps s
  | 0x0C => supplyWord s
  | 0x10 => if s.pins.vinOk then (Config.reading sensorPower s.now).toNat % 2 ^ 16 else 0
  | 0x14 => s.i3c.alert.toNat
  | 0x18 => s.i3c.mask.toNat
  | 0x1C => s.i3c.warn
  | _ => 0

/-- A write of the register at index i: causes cleared, bits 1 and 2 not maskable, a threshold of 80 to 110. -/
def i3cPut (s : State) (i v : Nat) : State :=
  match i with
  | 0x14 => { s with i3c := { s.i3c with alert := s.i3c.alert &&& ~~~ (BitVec.ofNat 32 v) } }
  | 0x18 => { s with i3c := { s.i3c with mask := BitVec.ofNat 32 v &&& 0xF9 } }
  | 0x1C => if 80 ≤ v % 2 ^ 8 ∧ v % 2 ^ 8 ≤ 110 then { s with i3c := { s.i3c with warn := v % 2 ^ 8 } } else s
  | _ => s

/-- The index register takes a new value (PRESUMED, log 33). -/
def setIndex (s : State) (i : Nat) : State := { s with i3c := { s.i3c with index := i % 2 ^ 8 } }

/-- I3C_PRIVATE_WRITE: one byte sets the index; the index and 4 bytes write one register (R416; other lengths: log 33). -/
def execI3cPrivateWrite (bytes : List Byte) (s : State) : Answer :=
  let i := field bytes 0 1
  if targetOn s = false then .next s
  else if bytes.length = 1 then .next (setIndex s i)
  else if bytes.length = 5 then .next (i3cPut (setIndex (ownCycle s) i) i (field bytes 1 4))
  else .next s

/-- I3C_PRIVATE_READ of count registers: 4 bytes each, the index 4 further after each (R416). -/
def execI3cPrivateRead (count : Nat) (s : State) : Answer :=
  if targetOn s then
    let bs := (List.range count).flatMap (fun k => toBytes 4 (i3cReg s ((s.i3c.index + 4 * k) % 2 ^ 8)))
    .next (answerI3c (setIndex s (s.i3c.index + 4 * count)) bs)
  else .next s

/-! ### JTAG (R420) -/

/-- The instruction that the TAP executes: EXTEST, CLAMP and HIGHZ only while RESET_N is low. -/
def tapRuns (s : State) (i : JInstr) : JInstr :=
  match i with
  | .extest => if s.pins.resetLow then .extest else .bypass
  | .clamp => if s.pins.resetLow then .clamp else .bypass
  | .highz => if s.pins.resetLow then .highz else .bypass
  | i => i

/-- The boundary register's levels on the lands, while EXTEST or CLAMP drives them; every output is high-impedance without VAUX (R409). -/
def landsDriven (s : State) : Option (List Bool) :=
  if s.pins.vauxOk then
    match tapRuns s s.pins.instr with
    | .extest => some s.pins.boundary
    | .clamp => some s.pins.boundary
    | _ => none
  else none

/-- An open-drain output is low: the device sinks it, or the boundary register drives it; HIGHZ and the absence of VAUX release it (R408,
R409, R420). -/
def sinks (s : State) (land : Nat) (own : Bool) : Bool :=
  match landsDriven s with
  | some b => (b[land]?).any (!·)
  | none => s.pins.vauxOk && own && decide (tapRuns s s.pins.instr ≠ .highz)

/-- ALERT_N is asserted (R409, R414, R420). -/
def alertAsserted (s : State) : Bool := sinks s 2 (s.flt.safeHalt || decide (s.i3c.alert &&& ~~~ s.i3c.mask ≠ 0))

/-- THERM_TRIP_N is asserted (R409, R420, R423). -/
def tripAsserted (s : State) : Bool := sinks s 3 s.pins.tripLatch

/-- The TAP takes an instruction; it runs while VAUX stands (R409; PRESUMED, log 33). -/
def tapTake (s : State) (i : JInstr) : State := if s.pins.vauxOk then { s with pins := { s.pins with instr := i } } else s

/-- Bits that leave on TDO. -/
def tdo (s : State) (bs : List Bool) : State := if s.pins.vauxOk then emit s (.tdo bs) else s

/-- The levels of the 26 lands that the boundary register covers, in the order of R420: RESET_N, PERST_N, ALERT_N, THERM_TRIP_N, BOOT_SEL,
the I3C, xSPI and JTAG lands, SYSCLK; those that the device does not hold are free values (R399, R420; PRESUMED, log 33). -/
def captured (s : State) : List Bool :=
  (List.range 26).map (fun i =>
    match i with
    | 0 => !s.pins.resetLow
    | 2 => !alertAsserted s
    | 3 => !tripAsserted s
    | i => bit (freeAt s i) 0)

/-- JTAG_BYPASS: the one-bit register captures 0. -/
def execJtagBypass (s : State) : Answer := .next (tdo (tapTake s .bypass) [false])

/-- JTAG_IDCODE: version 1, part 0x8160, manufacturer 0x535, least significant bit first. -/
def execJtagIdcode (s : State) : Answer :=
  .next (tdo (tapTake s .idcode) ((List.range 32).map (fun i => bit 0x18160A6B i)))

/-- JTAG_SAMPLE_PRELOAD: the lands are captured, and the bits shifted in push them out: the boundary register keeps the last 26. -/
def execJtagSamplePreload (shift : List Bool) (s : State) : Answer :=
  if s.pins.vauxOk then
    let chain := captured s ++ shift
    let t := tapTake (useFree s 26) .sample
    .next (tdo { t with pins := { t.pins with boundary := (chain.drop shift.length).take 26 } } (chain.take shift.length))
  else .next s

/-- JTAG_EXTEST: the lands are captured while the boundary register drives them; BYPASS unless RESET_N is low (PRESUMED, log
33). -/
def execJtagExtest (s : State) : Answer :=
  if s.pins.vauxOk && s.pins.resetLow then
    let t := tapTake (useFree s 26) .extest
    .next (tdo t (captured { t with freeCtr := s.freeCtr }))
  else .next (tdo (tapTake s .extest) [false])

/-- JTAG_CLAMP: the bypass register between TDI and TDO. -/
def execJtagClamp (s : State) : Answer := .next (tdo (tapTake s .clamp) [false])

/-- JTAG_HIGHZ. -/
def execJtagHighz (s : State) : Answer := .next (tdo (tapTake s .highz) [false])

/-! ### One cycle without a command -/

/-- A pending in-band interrupt leaves while ENEC holds, with the alert causes of that moment (R419; DESIGN CHOICE, log 33). -/
def sendIbi (s : State) : State :=
  if s.i3c.ibi && s.i3c.enec then emit { s with i3c := { s.i3c with ibi := false } } (.ibi (BitVec.ofNat 8 s.i3c.alert.toNat)) else s

/-- One device cycle passes without a command (DESIGN CHOICE, log 2). -/
def idle (s : State) : State := sendIbi (advance s (s.now + 1))

end Sys2Proof.Machine
end

