-- ==== Sys2Proof/Machine/Dispatch.lean ====
section
/-! DEFINITION. The dispatch: one arm per command, each one direct call of its meaning. -/

namespace Sys2Proof.Machine

/-- The effect of a command on everything but the queue. -/
def exec (i : Instr) (s : State) : Host.Outcome State Fault Refusal :=
  match i with
  | .wait st ag w => Sys2Proof.Machine.execWait st ag w s
  | .sadd st ag w => Sys2Proof.Machine.execSadd st ag w s
  | .ssub st ag w => Sys2Proof.Machine.execSsub st ag w s
  | .smul st ag w => Sys2Proof.Machine.execSmul st ag w s
  | .sand st ag w => Sys2Proof.Machine.execSand st ag w s
  | .sor st ag w => Sys2Proof.Machine.execSor st ag w s
  | .sxor st ag w => Sys2Proof.Machine.execSxor st ag w s
  | .sshl st ag w => Sys2Proof.Machine.execSshl st ag w s
  | .sshr st ag w => Sys2Proof.Machine.execSshr st ag w s
  | .ssra st ag w => Sys2Proof.Machine.execSsra st ag w s
  | .sli st ag w => Sys2Proof.Machine.execSli st ag w s
  | .slih st ag w => Sys2Proof.Machine.execSlih st ag w s
  | .saddi st ag w => Sys2Proof.Machine.execSaddi st ag w s
  | .sld st ag w e => Sys2Proof.Machine.execSld st ag w e s
  | .sst st ag w => Sys2Proof.Machine.execSst st ag w s
  | .varith st ag w => Sys2Proof.Machine.execVarith st ag w s
  | .vint st ag w => Sys2Proof.Machine.execVint st ag w s
  | .vcmp st ag w => Sys2Proof.Machine.execVcmp st ag w s
  | .vsfu st ag w => Sys2Proof.Machine.execVsfu st ag w s
  | .vred st ag w => Sys2Proof.Machine.execVred st ag w s
  | .vperm st ag w => Sys2Proof.Machine.execVperm st ag w s
  | .vbcst st ag w => Sys2Proof.Machine.execVbcst st ag w s
  | .vmovs st ag w => Sys2Proof.Machine.execVmovs st ag w s
  | .vld st ag w e => Sys2Proof.Machine.execVld st ag w e s
  | .vst st ag w => Sys2Proof.Machine.execVst st ag w s
  | .plogic st ag w => Sys2Proof.Machine.execPlogic st ag w s
  | .cvt st ag w => Sys2Proof.Machine.execCvt st ag w s
  | .tcfg st ag w => Sys2Proof.Machine.execTcfg st ag w s
  | .trel st ag w => Sys2Proof.Machine.execTrel st ag w s
  | .tld st ag w => Sys2Proof.Machine.execTld st ag w s
  | .tst st ag w => Sys2Proof.Machine.execTst st ag w s
  | .cvtt st ag w => Sys2Proof.Machine.execCvtt st ag w s
  | .cvtw st ag w => Sys2Proof.Machine.execCvtw st ag w s
  | .trd st ag w => Sys2Proof.Machine.execTrd st ag w s
  | .twr st ag w => Sys2Proof.Machine.execTwr st ag w s
  | .srseed st ag w => Sys2Proof.Machine.execSrseed st ag w s
  | .tram st ag w e => Sys2Proof.Machine.execTram st ag w e s
  | .wld st ag w m => Sys2Proof.Machine.execWld st ag w m s
  | .wsw st ag w => Sys2Proof.Machine.execWsw st ag w s
  | .mcfg st ag w => Sys2Proof.Machine.execMcfg st ag w s
  | .mfwd st ag w => Sys2Proof.Machine.execMfwd st ag w s
  | .mstrt st ag w => Sys2Proof.Machine.execMstrt st ag w s
  | .ard st ag w e => Sys2Proof.Machine.execArd st ag w e s
  | .awr st ag w => Sys2Proof.Machine.execAwr st ag w s
  | .aclr st ag w => Sys2Proof.Machine.execAclr st ag w s
  | .hoist st ag w => Sys2Proof.Machine.execHoist st ag w s
  | .br st ag w => Sys2Proof.Machine.execBr st ag w s
  | .call st ag w => Sys2Proof.Machine.execCall st ag w s
  | .ret st ag w => Sys2Proof.Machine.execRet st ag w s
  | .loop st ag w => Sys2Proof.Machine.execLoop st ag w s
  | .slc st ag w => Sys2Proof.Machine.execSlc st ag w s
  | .lix st ag w => Sys2Proof.Machine.execLix st ag w s
  | .fence st ag w => Sys2Proof.Machine.execFence st ag w s
  | .halt st ag w => Sys2Proof.Machine.execHalt st ag w s
  | .tsig st ag w => Sys2Proof.Machine.execTsig st ag w s
  | .ttake st ag w => Sys2Proof.Machine.execTtake st ag w s
  | .twatch st ag w => Sys2Proof.Machine.execTwatch st ag w s
  | .tread st ag w => Sys2Proof.Machine.execTread st ag w s
  | .sysrd st ag w => Sys2Proof.Machine.execSysrd st ag w s
  | .syswr st ag w => Sys2Proof.Machine.execSyswr st ag w s
  | .crstart st ag w => Sys2Proof.Machine.execCrstart st ag w s
  | .crstop st ag w => Sys2Proof.Machine.execCrstop st ag w s
  | .crres st ag w => Sys2Proof.Machine.execCrres st ag w s
  | .crrd st ag w => Sys2Proof.Machine.execCrrd st ag w s
  | .crwr st ag w => Sys2Proof.Machine.execCrwr st ag w s
  | .clmld st ag w => Sys2Proof.Machine.execClmld st ag w s
  | .clminv st ag w => Sys2Proof.Machine.execClminv st ag w s
  | .pswap st ag w => Sys2Proof.Machine.execPswap st ag w s
  | .evwait st ag w => Sys2Proof.Machine.execEvwait st ag w s
  | .eret st ag w => Sys2Proof.Machine.execEret st ag w s
  | .fltrec st ag w => Sys2Proof.Machine.execFltrec st ag w s
  | .resultReady st ag => Sys2Proof.Machine.execResultReady st ag s
  | .streamRowWrite st arr => Sys2Proof.Machine.execStreamRowWrite st arr s
  | .wldTileCheck st glitch => Sys2Proof.Machine.execWldTileCheck st glitch s
  | .wldCheckHoldEnd st glitch => Sys2Proof.Machine.execWldCheckHoldEnd st glitch s
  | .bankSwap st => Sys2Proof.Machine.execBankSwap st s
  | .overmanEventEntry st => Sys2Proof.Machine.execOvermanEventEntry st s
  | .stopeDoubleFaultReset st => Sys2Proof.Machine.execStopeDoubleFaultReset st s
  | .tramTransferStart st => Sys2Proof.Machine.execTramTransferStart st s
  | .tileRowTranslate st id => Sys2Proof.Machine.execTileRowTranslate st id s
  | .tileRowRetire st id trip => Sys2Proof.Machine.execTileRowRetire st id trip s
  | .transferHold st id => Sys2Proof.Machine.execTransferHold st id s
  | .tldTileCheck st id glitch => Sys2Proof.Machine.execTldTileCheck st id glitch s
  | .sidecarEntryAck st id => Sys2Proof.Machine.execSidecarEntryAck st id s
  | .assayRecordUpdate st id m => Sys2Proof.Machine.execAssayRecordUpdate st id m s
  | .transferComplete st id => Sys2Proof.Machine.execTransferComplete st id s
  | .trmResume st v => Sys2Proof.Machine.execTrmResume st v s
  | .trmDiscard st v => Sys2Proof.Machine.execTrmDiscard st v s
  | .tramQuiesce st => Sys2Proof.Machine.execTramQuiesce st s
  | .quiesceRelease st => Sys2Proof.Machine.execQuiesceRelease st s
  | .contextSave st v => Sys2Proof.Machine.execContextSave st v s
  | .contextRestore st v => Sys2Proof.Machine.execContextRestore st v s
  | .contextDone st => Sys2Proof.Machine.execContextDone st s
  | .swapCancel st => Sys2Proof.Machine.execSwapCancel st s
  | .ovmTrace st v => Sys2Proof.Machine.execOvmTrace st v s
  | .traceClear st => Sys2Proof.Machine.execTraceClear st s
  | .tsigEffect agents => Sys2Proof.Machine.execTsigEffect agents s
  | .tallyWaitArrival st cr => Sys2Proof.Machine.execTallyWaitArrival st cr s
  | .waiterRelease st cr => Sys2Proof.Machine.execWaiterRelease st cr s
  | .waitWithdrawal st cr => Sys2Proof.Machine.execWaitWithdrawal st cr s
  | .withdrawalAnswer st cr => Sys2Proof.Machine.execWithdrawalAnswer st cr s
  | .tallyCountWrite sc unit num v => Sys2Proof.Machine.execTallyCountWrite sc unit num v s
  | .stopeSleep st => Sys2Proof.Machine.execStopeSleep st s
  | .hoistSegmentRead st ecc => Sys2Proof.Machine.execHoistSegmentRead st ecc s
  | .localContribution n st => Sys2Proof.Machine.execLocalContribution n st s
  | .slice n port sl fails => Sys2Proof.Machine.execSlice n port sl fails s
  | .sliceForward n slot idx => Sys2Proof.Machine.execSliceForward n slot idx s
  | .sliceCredit n port => Sys2Proof.Machine.execSliceCredit n port s
  | .sliceAck n port id idx => Sys2Proof.Machine.execSliceAck n port id idx s
  | .sliceCutoff n slot idx => Sys2Proof.Machine.execSliceCutoff n slot idx s
  | .hstWinCfgWrite n v => Sys2Proof.Machine.execHstWinCfgWrite n v s
  | .markFire n k => Sys2Proof.Machine.execMarkFire n k s
  | .roundStart => Sys2Proof.Machine.execRoundStart s
  | .releaseMark => Sys2Proof.Machine.execReleaseMark s
  | .commitMark => Sys2Proof.Machine.execCommitMark s
  | .commitNotice b => Sys2Proof.Machine.execCommitNotice b s
  | .dropNotice b => Sys2Proof.Machine.execDropNotice b s
  | .backfill k => Sys2Proof.Machine.execBackfill k s
  | .backfillDone => Sys2Proof.Machine.execBackfillDone s
  | .dropCurrent => Sys2Proof.Machine.execDropCurrent s
  | .commitRegionWrite r size v => Sys2Proof.Machine.execCommitRegionWrite r size v s
  | .gobRegisterWrite k ctl v => Sys2Proof.Machine.execGobRegisterWrite k ctl v s
  | .stackWrite who tag pa bytes => Sys2Proof.Machine.execStackWrite who tag pa bytes s
  | .beacon p b => Sys2Proof.Machine.execBeacon p b s
  | .beaconMiss => Sys2Proof.Machine.execBeaconMiss s
  | .roundInEdge => Sys2Proof.Machine.execRoundInEdge s
  | .presence p data => Sys2Proof.Machine.execPresence p data s
  | .absent p wire dev reason => Sys2Proof.Machine.execAbsent p wire dev reason s
  | .ledgerTick watts => Sys2Proof.Machine.execLedgerTick watts s
  | .commandAdmit tag => Sys2Proof.Machine.execCommandAdmit tag s
  | .commandStart tag => Sys2Proof.Machine.execCommandStart tag s
  | .stopeFreeReport st => Sys2Proof.Machine.execStopeFreeReport st s
  | .fillTimeout tag => Sys2Proof.Machine.execFillTimeout tag s
  | .run tag => Sys2Proof.Machine.execRun tag s
  | .loadProg tag => Sys2Proof.Machine.execLoadProg tag s
  | .sieve tag => Sys2Proof.Machine.execSieve tag s
  | .sieveRow n ecc => Sys2Proof.Machine.execSieveRow n ecc s
  | .queryInstall tag => Sys2Proof.Machine.execQueryInstall tag s
  | .commandFinish tag => Sys2Proof.Machine.execCommandFinish tag s
  | .mbxReqTailWrite m v => Sys2Proof.Machine.execMbxReqTailWrite m v s
  | .mbxRspHeadWrite m v => Sys2Proof.Machine.execMbxRspHeadWrite m v s
  | .mbxFlush m => Sys2Proof.Machine.execMbxFlush m s
  | .hello m r => Sys2Proof.Machine.execHello m r s
  | .bye m r => Sys2Proof.Machine.execBye m r s
  | .submit m r => Sys2Proof.Machine.execSubmit m r s
  | .cancel m r => Sys2Proof.Machine.execCancel m r s
  | .status m r => Sys2Proof.Machine.execStatus m r s
  | .setBudget m r => Sys2Proof.Machine.execSetBudget m r s
  | .powerWake m r => Sys2Proof.Machine.execPowerWake m r s
  | .powerDoze m r => Sys2Proof.Machine.execPowerDoze m r s
  | .powerVigil m r => Sys2Proof.Machine.execPowerVigil m r s
  | .setFabId m r => Sys2Proof.Machine.execSetFabId m r s
  | .logRead m r => Sys2Proof.Machine.execLogRead m r s
  | .resetDevice m r e => Sys2Proof.Machine.execResetDevice m r e s
  | .resetLevel m r fails => Sys2Proof.Machine.execResetLevel m r fails s
  | .resetStope m r => Sys2Proof.Machine.execResetStope m r s
  | .retireRead m r => Sys2Proof.Machine.execRetireRead m r s
  | .retireClear m r => Sys2Proof.Machine.execRetireClear m r s
  | .recoveryEnter m r => Sys2Proof.Machine.execRecoveryEnter m r s
  | .recoveryLeave m r => Sys2Proof.Machine.execRecoveryLeave m r s
  | .snap m r => Sys2Proof.Machine.execSnap m r s
  | .snapshotStaging ecc => Sys2Proof.Machine.execSnapshotStaging ecc s
  | .snapshotDrain => Sys2Proof.Machine.execSnapshotDrain s
  | .nvmeCompletion drive ok disturbed => Sys2Proof.Machine.execNvmeCompletion drive ok disturbed s
  | .nvmeTimeout drive => Sys2Proof.Machine.execNvmeTimeout drive s
  | .restore m r => Sys2Proof.Machine.execRestore m r s
  | .slotInfo m r => Sys2Proof.Machine.execSlotInfo m r s
  | .quote m r => Sys2Proof.Machine.execQuote m r s
  | .certRead m r => Sys2Proof.Machine.execCertRead m r s
  | .fwUpdate m r => Sys2Proof.Machine.execFwUpdate m r s
  | .fwCommit m r => Sys2Proof.Machine.execFwCommit m r s
  | .cfgUpdate m r => Sys2Proof.Machine.execCfgUpdate m r s
  | .registerWrite host pa width v => Sys2Proof.Machine.execRegisterWrite host pa width v s
  | .uasCfgWrite p v => Sys2Proof.Machine.execUasCfgWrite p v s
  | .portTrain p => Sys2Proof.Machine.execPortTrain p s
  | .trainRetry p => Sys2Proof.Machine.execTrainRetry p s
  | .caps p c => Sys2Proof.Machine.execCaps p c s
  | .ready p => Sys2Proof.Machine.execReady p s
  | .flitReceive p f => Sys2Proof.Machine.execFlitReceive p f s
  | .nak p ack => Sys2Proof.Machine.execNak p ack s
  | .linkSilence p => Sys2Proof.Machine.execLinkSilence p s
  | .uasLinkDown p => Sys2Proof.Machine.execUasLinkDown p s
  | .laneRetire p lane accept => Sys2Proof.Machine.execLaneRetire p lane accept s
  | .echoSend p => Sys2Proof.Machine.execEchoSend p s
  | .echo p roundTrip turnaround => Sys2Proof.Machine.execEcho p roundTrip turnaround s
  | .wake p => Sys2Proof.Machine.execWake p s
  | .messageArrival p msg => Sys2Proof.Machine.execMessageArrival p msg s
  | .tallyMessage p msg => Sys2Proof.Machine.execTallyMessage p msg s
  | .bulkPutSend tag k => Sys2Proof.Machine.execBulkPutSend tag k s
  | .bulkTallySend tag k => Sys2Proof.Machine.execBulkTallySend tag k s
  | .bulkData p msg last => Sys2Proof.Machine.execBulkData p msg last s
  | .bulkAck p tag k refused => Sys2Proof.Machine.execBulkAck p tag k refused s
  | .bulkAbort p src id => Sys2Proof.Machine.execBulkAbort p src id s
  | .query p msg => Sys2Proof.Machine.execQuery p msg s
  | .answerCollect q k => Sys2Proof.Machine.execAnswerCollect q k s
  | .queryVoidLate q k => Sys2Proof.Machine.execQueryVoidLate q k s
  | .idleEntry => Sys2Proof.Machine.execIdleEntry s
  | .powerStateReached e => Sys2Proof.Machine.execPowerStateReached e s
  | .ebbEnter => Sys2Proof.Machine.execEbbEnter s
  | .ebbExit => Sys2Proof.Machine.execEbbExit s
  | .quench cause => Sys2Proof.Machine.execQuench cause s
  | .vinPowerLoss => Sys2Proof.Machine.execVinPowerLoss s
  | .returnToService fails => Sys2Proof.Machine.execReturnToService fails s
  | .vauxLoss => Sys2Proof.Machine.execVauxLoss s
  | .suppliesValid e => Sys2Proof.Machine.execSuppliesValid e s
  | .thermTrip => Sys2Proof.Machine.execThermTrip s
  | .junctionWarn level temp => Sys2Proof.Machine.execJunctionWarn level temp s
  | .resetN lowNs held e => Sys2Proof.Machine.execResetN lowNs held e s
  | .perstN => Sys2Proof.Machine.execPerstN s
  | .pcieHotReset => Sys2Proof.Machine.execPcieHotReset s
  | .refclkLoss clk => Sys2Proof.Machine.execRefclkLoss clk s
  | .patrolScrub k pc ecc => Sys2Proof.Machine.execPatrolScrub k pc ecc s
  | .locationTest pa bytes fails => Sys2Proof.Machine.execLocationTest pa bytes fails s
  | .pcRetire k pc => Sys2Proof.Machine.execPcRetire k pc s
  | .pcMigrationDone k bad => Sys2Proof.Machine.execPcMigrationDone k bad s
  | .stopeRetire phys => Sys2Proof.Machine.execStopeRetire phys s
  | .remapComplete phys pass => Sys2Proof.Machine.execRemapComplete phys pass s
  | .levelFault n => Sys2Proof.Machine.execLevelFault n s
  | .faultRecordAppend rec => Sys2Proof.Machine.execFaultRecordAppend rec s
  | .heartbeat => Sys2Proof.Machine.execHeartbeat s
  | .controllerTakeover => Sys2Proof.Machine.execControllerTakeover s
  | .standbyResync pass => Sys2Proof.Machine.execStandbyResync pass s
  | .safeHalt h cause => Sys2Proof.Machine.execSafeHalt h cause s
  | .canaryLost h => Sys2Proof.Machine.execCanaryLost h s
  | .i3cEntdaa addr => Sys2Proof.Machine.execI3cEntdaa addr s
  | .i3cSetdasa addr => Sys2Proof.Machine.execI3cSetdasa addr s
  | .i3cSetnewda addr => Sys2Proof.Machine.execI3cSetnewda addr s
  | .i3cRstdaa => Sys2Proof.Machine.execI3cRstdaa s
  | .i3cEnec => Sys2Proof.Machine.execI3cEnec s
  | .i3cDisec => Sys2Proof.Machine.execI3cDisec s
  | .i3cGetpid => Sys2Proof.Machine.execI3cGetpid s
  | .i3cGetbcr => Sys2Proof.Machine.execI3cGetbcr s
  | .i3cGetdcr => Sys2Proof.Machine.execI3cGetdcr s
  | .i3cGetstatus => Sys2Proof.Machine.execI3cGetstatus s
  | .i3cPrivateWrite bytes => Sys2Proof.Machine.execI3cPrivateWrite bytes s
  | .i3cPrivateRead count => Sys2Proof.Machine.execI3cPrivateRead count s
  | .jtagBypass => Sys2Proof.Machine.execJtagBypass s
  | .jtagIdcode => Sys2Proof.Machine.execJtagIdcode s
  | .jtagSamplePreload shift => Sys2Proof.Machine.execJtagSamplePreload shift s
  | .jtagExtest => Sys2Proof.Machine.execJtagExtest s
  | .jtagClamp => Sys2Proof.Machine.execJtagClamp s
  | .jtagHighz => Sys2Proof.Machine.execJtagHighz s
  | .monitorRetired n => Sys2Proof.Machine.execMonitorRetired n s
  | .deputyFail => Sys2Proof.Machine.execDeputyFail s
  | .selfTestDone phys pass => Sys2Proof.Machine.execSelfTestDone phys pass s
  | .vinRange => Sys2Proof.Machine.execVinRange s
  | .mbxCoalHoldoff m => Sys2Proof.Machine.execMbxCoalHoldoff m s
  | .vauxValid => Sys2Proof.Machine.execVauxValid s
  | .snapshotLinkLoss => Sys2Proof.Machine.execSnapshotLinkLoss s

end Sys2Proof.Machine
end

