-- ==== Sys2Proof/Machine/Step.lean ====
section
/-! DEFINITION. One step of the machine: the command at the front of the queue, or one device cycle without a
command. -/

namespace Sys2Proof.Machine

/-- The front command runs on the state with the queue's rest; on an empty queue one device cycle (1 ns) passes, in which a pending
in-band interrupt leaves (DESIGN CHOICE, log 2; DESIGN CHOICE, log 33). -/
def step (s : State) : Host.Outcome State Fault Refusal :=
  match s.pending with
  | c :: rest => exec c { s with pending := rest }
  | [] => .next (idle s)

/-- The state with the command that a table word spells put at the front of its queue; the table gives no row a word,
so nothing is put there. -/
def State.withFetchWord (s : State) (nbits w : Nat) : State :=
  match decodeTableWord nbits w with
  | some c => { s with pending := c :: s.pending }
  | none => s

end Sys2Proof.Machine
end

