-- ==== Sys2Proof/WellFormed.lean ====
section
/-! DEFINITION. Well-formed commands: every operand within the range that the spec gives it. -/

namespace Sys2Proof

/-! ### Ranges of the operands -/

/-- A value of an n-bit field (R6). -/
def fieldOf (x n : Nat) : Bool := decide (x < 2 ^ n)

/-- A logical stope (R12). -/
def stopeNo (st : Nat) : Bool := decide (st < 160)

/-- An agent of a stope: a crew 0 to 15 or the overman, 16 (R104, R105). -/
def agentNo (ag : Nat) : Bool := decide (ag ≤ 16)

/-- A crew (R104). -/
def crewNo (cr : Nat) : Bool := decide (cr < 16)

/-- A level (R13). -/
def levelNo (n : Nat) : Bool := decide (n < 8)

/-- A stack (R14). -/
def stackNo (k : Nat) : Bool := decide (k < 16)

/-- A physical stope (R19). -/
def physNo (p : Nat) : Bool := decide (p < 176)

/-- A list of physical stopes. -/
def physAll (ps : List Nat) : Bool := ps.all physNo

/-- A Uason port (R32). -/
def portNo (p : Nat) : Bool := decide (p < 12)

/-- A mailbox (R308). -/
def mailboxNo (m : Nat) : Bool := decide (m < 8)

/-- A hoist slot (R207). -/
def hoistSlotNo (k : Nat) : Bool := decide (k < 256)

/-- A command tag (R321). -/
def tagNo (t : Nat) : Bool := fieldOf t 32

/-- A drive below the snapshot port (R372, R397). -/
def driveNo (d : Nat) : Bool := decide (d < 4)

/-- At most n bytes. -/
def fitsLine (bs : List Byte) (n : Nat) : Bool := decide (bs.length ≤ n)

/-- A tally of its scope (R168). -/
def tallyNo (sc : Scope) (unit num : Nat) : Bool :=
  match sc with
  | .stope => stopeNo unit && decide (num < 64)
  | .level => levelNo unit && decide (num < 256)
  | .device => decide (unit = 0) && decide (num < 1024)

/-- A block that a notice reaches (R283). -/
def blockOk (b : Block) : Bool :=
  match b with
  | .stope st => stopeNo st
  | .level n => levelNo n
  | .head h => decide (h < 2)
  | .stack k => stackNo k

/-- The message types that a host may send (R317, R368, R396). -/
def hostTypes : List Nat :=
  [0x01, 0x02, 0x10, 0x11, 0x12, 0x20, 0x21, 0x22, 0x51, 0x52, 0x53, 0x54, 0x55, 0x60, 0x62, 0x63, 0x64, 0x65, 0x66, 0x67, 0x68]

/-- A mailbox request's header fields and payload within their slot (R316). -/
def reqOk (r : Req) : Bool :=
  (match r.reserved with | some t => fieldOf t 8 && !hostTypes.contains t | none => true) &&
  fieldOf r.version 8 && fieldOf r.seq 16 && fieldOf r.len 32 && fieldOf r.status 16 && fieldOf r.flags 16 && fieldOf r.tag 32 &&
  fieldOf r.epoch 16 && fieldOf r.round 48 && fieldOf r.reqSeq 16 && fieldOf r.check 32 && fitsLine r.payload 192

/-- A slice's header fields (R217). -/
def sliceOk (m : SliceMsg) : Bool :=
  fieldOf m.kind 8 && fieldOf m.home 8 && fieldOf m.slot 8 && fieldOf m.hops 8 && fieldOf m.id 32 && fieldOf m.idx 32 &&
  fieldOf m.count 32 && fieldOf m.round 48 && fieldOf m.deadline 40 && decide (m.data.length ≤ 2 ^ 19) && fieldOf m.dst 12 && fieldOf m.src 12 && fieldOf m.ttl 8

/-- A message's header fields (R243). -/
def msgOk (m : FabMsg) : Bool :=
  fieldOf m.typ 8 && fieldOf m.dst 12 && fieldOf m.src 12 && fieldOf m.ttl 8 && decide (m.spec.length = 20)

/-- A flit's fields (R234). -/
def flitOk (f : Flit) : Bool :=
  fieldOf f.seq 12 && fieldOf f.ack 12 && fieldOf f.vc 3 && f.errs.all (fun b => decide (b < 288)) && decide f.errs.Nodup

/-- A beacon's fields (R252). -/
def beaconOk (b : Beacon) : Bool :=
  fieldOf b.wire 32 && decide (1000 ≤ b.lenUs ∧ b.lenUs ≤ 60000000) && fieldOf b.elapsed 40 && fieldOf b.master 16 &&
  fieldOf b.fwd 8 && fieldOf b.budget 32

/-- A CAPS flit's fields (R235). -/
def capsOk (c : Caps) : Bool := decide (1 ≤ c.gen ∧ c.gen ≤ 3) && fieldOf c.lanes 4 && fieldOf c.dev 12

/-- A drive as Identify describes it (R373, R384). -/
def driveOk (d : Drive) : Bool := fieldOf d.serial 160 && fieldOf d.lbas 64 && fieldOf d.metadata 16

/-- What a slot of the drives can hold: a manifest within its 1,024 logical blocks, segments on drives that exist (R380, R381). -/
def slotOk (x : Slot) : Bool := fitsLine x.header 8192 && fitsLine x.body (2 ^ 22) && x.segs.all (fun d => driveNo d.drive)

/-- A link is down, or up at a rate and a width of R372. -/
def snapLinkOk (rate width : Nat) : Bool :=
  decide (rate = 0 ∧ width = 0) || (decide (1 ≤ rate ∧ rate ≤ 6) && [1, 2, 4, 8].contains width)

/-- What the outside decides of a bring-up: the straps are two bits, the units exist, drives stand below a link that is up (R372, R413,
R424). -/
def bootOk (e : BootEnv) : Bool :=
  fieldOf e.bootSel 2 && physAll e.stopeFails && e.monFails.all levelNo && e.pcFails.all (fun x => stackNo x.1 && decide (x.2 < 32)) &&
  e.laneFails.all (fun l => decide (l < 48)) && decide (e.found.length ≤ 4) && e.found.all driveOk && snapLinkOk e.rate e.width &&
  (e.found.isEmpty || decide (e.rate ≠ 0)) && (match e.slots with | some x => slotOk x.1 && slotOk x.2 | none => true)

/-- Crews and overmen whose signals take effect together: stope and agent (R171). -/
def agentsOk (gs : List (Nat × Nat)) : Bool := gs.all (fun g => stopeNo g.1 && agentNo g.2)

/-- A level, or none for a headframe (R422). -/
def levelOpt (n : Option Nat) : Bool := match n with | some n => levelNo n | none => true

/-- A reference clock (R406). -/
def clockOk (c : RefClk) : Bool := match c with | .fab h => decide (h < 2) | _ => true

/-- The width of an access: 1, 2, 4 or 8 bytes (R31, R305). -/
def widthOk (w : Nat) : Bool := decide (w = 1 ∨ w = 2 ∨ w = 4 ∨ w = 8)

/-! ### Commands -/

/-- Every operand of the command is one that the spec gives. -/
def wellFormed (i : Instr) : Bool :=
  match i with
  | .wait st ag _ | .sadd st ag _ | .ssub st ag _ | .smul st ag _ | .sand st ag _ | .sor st ag _ | .sxor st ag _
  | .sshl st ag _ | .sshr st ag _ | .ssra st ag _ | .sli st ag _ | .slih st ag _ | .saddi st ag _ | .sld st ag _ _
  | .sst st ag _ | .varith st ag _ | .vint st ag _ | .vcmp st ag _ | .vsfu st ag _ | .vred st ag _ | .vperm st ag _
  | .vbcst st ag _ | .vmovs st ag _ | .vld st ag _ _ | .vst st ag _ | .plogic st ag _ | .cvt st ag _ | .tcfg st ag _
  | .trel st ag _ | .tld st ag _ | .tst st ag _ | .cvtt st ag _ | .cvtw st ag _ | .trd st ag _ | .twr st ag _
  | .srseed st ag _ | .tram st ag _ _ | .wld st ag _ _ | .wsw st ag _ | .mcfg st ag _ | .mfwd st ag _
  | .mstrt st ag _ | .ard st ag _ _ | .awr st ag _ | .aclr st ag _ | .hoist st ag _ | .br st ag _ | .call st ag _
  | .ret st ag _ | .loop st ag _ | .slc st ag _ | .lix st ag _ | .fence st ag _ | .halt st ag _ | .tsig st ag _
  | .ttake st ag _ | .twatch st ag _ | .tread st ag _ | .sysrd st ag _ | .syswr st ag _ | .crstart st ag _
  | .crstop st ag _ | .crres st ag _ | .crrd st ag _ | .crwr st ag _ | .clmld st ag _ | .clminv st ag _
  | .pswap st ag _ | .evwait st ag _ | .eret st ag _ | .fltrec st ag _ | .resultReady st ag => stopeNo st && agentNo ag
  | .streamRowWrite st arr => stopeNo st && decide (arr < 2)
  | .wldTileCheck st _ | .wldCheckHoldEnd st _ | .bankSwap st | .overmanEventEntry st | .stopeDoubleFaultReset st
  | .tramTransferStart st | .tileRowTranslate st _ | .tileRowRetire st _ _ | .transferHold st _
  | .tldTileCheck st _ _ | .sidecarEntryAck st _ | .assayRecordUpdate st _ _ | .transferComplete st _
  | .trmResume st _ | .trmDiscard st _ | .tramQuiesce st | .quiesceRelease st | .contextSave st _
  | .contextRestore st _ | .swapCancel st | .ovmTrace st _ | .traceClear st | .stopeSleep st
  | .hoistSegmentRead st _ | .stopeFreeReport st => stopeNo st
  | .tsigEffect agents => agentsOk agents
  | .tallyWaitArrival st cr | .waiterRelease st cr | .waitWithdrawal st cr | .withdrawalAnswer st cr => stopeNo st && crewNo cr
  | .tallyCountWrite sc unit num _ => tallyNo sc unit num
  | .localContribution n st => levelNo n && stopeNo st
  | .slice n port sl _ => levelNo n && portNo port && sliceOk sl
  | .sliceForward n slot _ | .sliceCutoff n slot _ => levelNo n && hoistSlotNo slot
  | .sliceCredit n port | .sliceAck n port _ _ => levelNo n && portNo port
  | .hstWinCfgWrite n _ | .sieveRow n _ | .levelFault n | .monitorRetired n => levelNo n
  | .markFire n k => levelNo n && decide (k < 64)
  | .roundStart | .releaseMark | .commitMark | .backfillDone | .dropCurrent | .beaconMiss | .roundInEdge
  | .snapshotStaging _ | .snapshotDrain | .idleEntry | .ebbEnter | .ebbExit | .quench _ | .vinPowerLoss | .vauxLoss
  | .thermTrip | .perstN | .pcieHotReset | .heartbeat | .controllerTakeover | .standbyResync _ | .i3cRstdaa
  | .i3cEnec | .i3cDisec | .i3cGetpid | .i3cGetbcr | .i3cGetdcr | .i3cGetstatus | .i3cPrivateRead _ | .jtagBypass
  | .jtagIdcode | .jtagSamplePreload _ | .jtagExtest | .jtagClamp | .jtagHighz | .deputyFail | .vinRange | .vauxValid
  | .snapshotLinkLoss => true
  | .commitNotice b | .dropNotice b => blockOk b
  | .backfill k | .gobRegisterWrite k _ _ | .pcMigrationDone k _ => stackNo k
  | .commitRegionWrite r _ _ => decide (r < 16)
  | .contextDone x => stopeNo x.n
  | .commandAdmit x | .sieve x => tagNo x.n
  | .stackWrite _ x pa bytes => tagNo x.tag && fieldOf x.round 48 && fieldOf pa 48 && fitsLine bytes 4096
  | .beacon p b => portNo p && beaconOk b
  | .presence p data => portNo p && decide (data.length = 16)
  | .absent p wire dev reason => portNo p && fieldOf wire 32 && fieldOf dev 12 && fieldOf reason 2
  | .ledgerTick watts => fieldOf watts 16
  | .commandStart tag | .fillTimeout tag | .run tag | .loadProg tag
  | .queryInstall tag | .commandFinish tag | .bulkPutSend tag _ | .bulkTallySend tag _ => tagNo tag
  | .mbxReqTailWrite m _ | .mbxRspHeadWrite m _ | .mbxFlush m | .mbxCoalHoldoff m => mailboxNo m
  | .hello m r | .bye m r | .submit m r | .cancel m r | .status m r | .setBudget m r | .powerWake m r
  | .powerDoze m r | .powerVigil m r | .setFabId m r | .logRead m r | .resetStope m r | .retireRead m r
  | .retireClear m r | .recoveryEnter m r | .recoveryLeave m r | .snap m r | .restore m r | .slotInfo m r
  | .quote m r | .certRead m r | .fwUpdate m r | .fwCommit m r | .cfgUpdate m r => mailboxNo m && reqOk r
  | .resetDevice m r e => mailboxNo m && reqOk r && bootOk e
  | .resetLevel m r fails => mailboxNo m && reqOk r && physAll fails
  | .nvmeCompletion drive _ _ | .nvmeTimeout drive => driveNo drive
  | .registerWrite _ pa width _ => widthOk width && fieldOf pa 48
  | .uasCfgWrite p _ | .portTrain p | .trainRetry p | .ready p | .linkSilence p | .uasLinkDown p | .echoSend p
  | .echo p _ _ | .wake p => portNo p
  | .caps p c => portNo p && capsOk c
  | .flitReceive p f => portNo p && flitOk f
  | .nak p ack => portNo p && fieldOf ack 12
  | .laneRetire p lane _ => portNo p && decide (lane < 4)
  | .messageArrival p msg | .tallyMessage p msg | .bulkData p msg _ | .query p msg => portNo p && msgOk msg
  | .bulkAck p tag _ _ => portNo p && tagNo tag
  | .bulkAbort p src _ => portNo p && fieldOf src 12
  | .answerCollect i k | .queryVoidLate i k => decide (i < 16) && decide (k < 16)
  | .powerStateReached e | .suppliesValid e | .resetN _ _ e => bootOk e
  | .returnToService fails => physAll fails
  | .junctionWarn level _ => levelOpt level
  | .refclkLoss clk => clockOk clk
  | .patrolScrub k pc _ | .pcRetire k pc => stackNo k && decide (pc < 32)
  | .locationTest pa _ _ => fieldOf pa 48
  | .stopeRetire phys | .remapComplete phys _ | .selfTestDone phys _ => physNo phys
  | .faultRecordAppend rec => decide (rec.length = 64)
  | .safeHalt h cause => decide (h < 2) && decide (1 ≤ cause ∧ cause ≤ 5)
  | .canaryLost h => decide (h < 2)
  | .i3cEntdaa addr | .i3cSetdasa addr | .i3cSetnewda addr => fieldOf addr 7
  | .i3cPrivateWrite bytes => fitsLine bytes 5

end Sys2Proof
end

