-- ==== Sys2Proof/Safety.lean ====
section
/-! DEFINITION. What counts as a run and as a safe state: arrivals and steps, and the invariant that the claims use. -/

namespace Sys2Proof.Machine

/-- A command arrives at the back of the queue: first in, first out. -/
def arrive (s : State) (c : Instr) : State := { s with pending := s.pending ++ [c] }

/-- The states that arrivals and steps lead to from reset. -/
inductive Reached : State → Prop where
  | reset : Reached State.reset
  | arrive (s : State) (c : Instr) : Reached s → Reached (arrive s c)
  | step (s t : State) : Reached s → step s = .next t → Reached t

/-- Memory holds its canonical form: addresses strictly rising, no byte listed that an unlisted address reads as. -/
def MemOk (s : State) : Prop := memWf s.mem = true

end Sys2Proof.Machine
end

