-- ==== Sys2Proof/Certificates/Slice0/Obligations.lean ====
section
/-! DEFINITION. The obligations: what each row of the command table does and leaves alone, by the numbered rules, and the
invariants that every step keeps. -/

namespace Sys2Proof.Claims

open Sys2Proof.Machine

/-! ### What the statements speak of -/

/-- The command answers the next state t. -/
def Gives (i : Instr) (s t : State) : Prop := exec i s = .next t

/-- Agent ag of stope st may issue word w of opcode op: it is running, no check hold stops a crew, no event waits for an overman,
and it has not run off its program bank (R67, R117, R125, R131). -/
def Issues (s : State) (st ag : Nat) (w : Word64) (op : Nat) : Prop :=
  mayIssue (stopeOf s st) ag = true ∧ (agentOf (stopeOf s st) ag).ranOff = false ∧ fOp w = op

/-- The cycle in which it issues, and the state in which it then executes: what was due has landed. -/
def atCycle (s : State) (st ag : Nat) (n : Nat → Need) (floor : Nat) (adm : Nat → Bool) : Nat :=
  issueCycle (stopeOf s st) ag s.now n floor adm

def atIssue (s : State) (st ag c : Nat) : State :=
  let t := advance s (issueTime (stopeOf s st) ag s.now c)
  if ag = 16 then settle t st else settleAt t st c

/-- The state in which an instruction that faults in cycle c leaves its agent: the conflicts it met at issue are counted (R56, R130). -/
def blockedAt (s u : State) (st ag c : Nat) : State := countBlocked u st ag c (crewOf s st ag).nextIssue

/-- A stope without its agents and without the figures that every issue moves. -/
def sansIssue (x : Stope) : Stope :=
  { x with
    agents := [], issued := 0, slotCycle := 0, slotUsed := 0, slotSfu := 0, slotRed := 0, slotCvt := 0, slotXfer := 0
    slotBanks := 0, rotor := 0, scanFrom := 0, scanPast := 0, fullScans := [], awakeAt := 0 }

/-- An agent without its place in the program, its writes in flight and its stall figures: its registers, generators, tile
registers, state, wait and fault remain. -/
def sansFlow (c : Crew) : Crew :=
  { c with
    pc := 0, ranOff := false, loops := [], nextIssue := 0, pend := [], relPoint := 0, stallIssue := 0, stallTram := 0
    tramSince := none }

/-- Nothing changes from u to t but the issuing agent's place and writes in flight and the issue figures of its stope. -/
def IssueFrame (u t : State) (st ag : Nat) : Prop :=
  { t with stopes := [] } = { u with stopes := [] } ∧
  (∀ st', st' ≠ st → stopeOf t st' = stopeOf u st') ∧
  sansIssue (stopeOf t st) = sansIssue (stopeOf u st) ∧
  (∀ a, a ≠ ag → crewOf t st a = crewOf u st a) ∧
  sansFlow (crewOf t st ag) = sansFlow (crewOf u st ag) ∧
  (∀ pa, byteAt t pa = byteAt u pa)

/-- The agent goes on as `f` says from cycle c. -/
def GoesOn (u t : State) (st ag c : Nat) (f : Flow) : Prop :=
  let k := crewOf t st ag
  let g := flowCrew (crewOf u st ag) c f
  k.pc = g.pc ∧ k.ranOff = g.ranOff ∧ k.loops = g.loops ∧ k.nextIssue = g.nextIssue

/-- The writes `es` stand in flight, each ready its latency after cycle c, the bits that they overtake cancelled (R100, R102). -/
def InFlight (u t : State) (st ag c : Nat) (es : List (Nat × Eff)) : Prop :=
  let k := es.foldl (fun k e => addWrite k { ready := c + e.1, eff := e.2 }) (crewOf u st ag)
  (crewOf t st ag).pend = k.pend ∧ (crewOf t st ag).relPoint = k.relPoint

/-- From the state v, which holds the instruction's effect, only the issuing agent's place and its stope's issue figures move on. -/
def Passed (v t : State) (st ag c : Nat) (f : Flow) : Prop :=
  IssueFrame v t st ag ∧ InFlight v t st ag c [] ∧ GoesOn v t st ag c f

/-- The instruction completes with the effect that v holds, and its agent goes on as f says. -/
def Executes (i : Instr) (s : State) (st ag c : Nat) (v : State) (f : Flow) : Prop :=
  ∃ t, Gives i s t ∧ Passed v t st ag c f

/-- The cycle and the state in which an instruction with no needs of its own executes. -/
abbrev plainCycle (s : State) (st ag : Nat) : Nat := atCycle s st ag plain 0 always
abbrev plainState (s : State) (st ag : Nat) : State := atIssue s st ag (plainCycle s st ag)

/-- An instruction whose whole effect is writes in flight. -/
structure WriteRow where
  instr : Nat → Nat → Word64 → Instr
  op : Nat
  need : Need
  /-- the overman runs it too -/
  both : Bool
  legal : Word64 → Bool
  writes : Crew → Word64 → List (Nat × Eff)

/-- What such a row does. -/
def WriteRow.Holds (r : WriteRow) : Prop := ∀ (st ag : Nat) (w : Word64) (s : State),
  Issues s st ag w r.op → (ag = 16 → r.both = true) → r.legal w = true →
  let c := atCycle s st ag (fun _ => r.need) 0 always
  let u := atIssue s st ag c
  ∃ t, Gives (r.instr st ag w) s t ∧ IssueFrame u t st ag ∧ InFlight u t st ag c (r.writes (crewOf u st ag) w) ∧
    GoesOn u t st ag c (.seq 1)

/-! ### Scalar instructions -/

/-- A form R scalar row: f of Sa and Sb into Sd, ready n cycles after issue. -/
def scalarRow (i : Nat → Nat → Word64 → Instr) (op n : Nat) (f : Word64 → Word64 → Word64) : WriteRow :=
  { instr := i, op := op, need := {}, both := true, legal := fun w => onlyFields w [pD, pA, pB]
    writes := fun k w => [(n, writeS (fD w) (f (sReg k (fA w)) (sReg k (fB w))))] }

def scalarRows : List WriteRow := [
  scalarRow .sadd 0x01 1 (· + ·), scalarRow .ssub 0x02 1 (· - ·), scalarRow .smul 0x03 3 (· * ·),
  scalarRow .sand 0x04 1 (· &&& ·), scalarRow .sor 0x05 1 (· ||| ·), scalarRow .sxor 0x06 1 (· ^^^ ·),
  scalarRow .sshl 0x07 1 (fun a b => a <<< (b.toNat % 64)), scalarRow .sshr 0x08 1 (fun a b => a >>> (b.toNat % 64)),
  scalarRow .ssra 0x09 1 (fun a b => a.sshiftRight (b.toNat % 64))]

/-- An immediate row into Sd, ready one cycle after issue. -/
def immRow (i : Nat → Nat → Word64 → Instr) (op : Nat) (fs : List (Nat × Nat)) (f : Crew → Word64 → Word64) : WriteRow :=
  { instr := i, op := op, need := {}, both := true, legal := fun w => onlyFields w fs
    writes := fun k w => [(1, writeS (fD w) (f k w))] }

def immRows : List WriteRow := [
  immRow .sli 0x0A [pD, pImm] (fun _ w => sext32 (fImm w)),
  immRow .slih 0x0B [pD, pImm] (fun k w => BitVec.ofNat 64 (fImm w * 2 ^ 32 + bits (sReg k (fD w)).toNat 0 32)),
  immRow .saddi 0x0C [pD, pA, pImm] (fun k w => sReg k (fA w) + sext32 (fImm w))]

/-! ### Vector instructions -/

/-- A vector row of crews: legal with its fields, its predicate and `ok`. -/
def vectorRow (i : Nat → Nat → Word64 → Instr) (op : Nat) (need : Need) (fs : Word64 → List (Nat × Nat)) (ok : Word64 → Bool)
    (writes : Crew → Word64 → List (Nat × Eff)) : WriteRow :=
  { instr := i, op := op, need := need, both := false
    legal := fun w => onlyFields w (pPred :: fs w) && predOk w && ok w, writes := writes }

/-- VARITH's element operation: the exact function of the elements, rounded once into FP32 or BF16 (R108). -/
def varithWrites (k : Crew) (w : Word64) : List (Nat × Eff) :=
  let a := (vReg k (fA w)).toNat
  let b := (vReg k (fB w)).toNat
  let c := (vReg k (fC w)).toNat
  if fFmt w = 1 then
    [(4, writeV32 k w (fD w) (fun e => arithElem fFp32 (fSub w) (elem 32 a e) (elem 32 b e) (elem 32 c e)))]
  else [(4, writeV16 k w (fD w) (fun e => arithElem fBf16 (fSub w) (elem 16 a e) (elem 16 b e) (elem 16 c e)))]

def vectorRows : List WriteRow := [
  vectorRow .varith 0x10 {}
    (fun w => [pSub, pD, pA, pFmt] ++ (if fSub w = 3 then [pC] else []) ++ (if fSub w < 6 then [pB] else []))
    (fun w => decide (fSub w ≤ 7) && decide (fFmt w = 1 ∨ fFmt w = 2)) varithWrites,
  vectorRow .vint 0x11 {} (fun _ => [pSub, pD, pA, pB]) (fun w => decide (fSub w ≤ 7)) (fun k w =>
    [(2, writeV32 k w (fD w) (fun e => (intOp (fSub w) (elem32 (vReg k (fA w)) e) (elem32 (vReg k (fB w)) e)).toNat))]),
  vectorRow .vsfu 0x13 { sfu := true } (fun _ => [pSub, pD, pA]) (fun w => decide (fSub w ≤ 4)) (fun k w =>
    [(12, writeV32 k w (fD w) (fun e => (sfu (fSub w) (elem32 (vReg k (fA w)) e)).toNat))]),
  vectorRow .vred 0x14 { red := true } (fun _ => [pSub, pD, pA]) (fun w => decide (fSub w ≤ 2)) (fun k w =>
    [(8, writeS (fD w) ((reduce (fSub w) (((List.range 128).filter (en32 k w)).map (elem32 (vReg k (fA w))))).setWidth 64))]),
  vectorRow .vperm 0x15 {} (fun _ => [pD, pA, pB]) (fun _ => true) (fun k w =>
    [(3, writeV32 k w (fD w) (fun e => (elem32 (vReg k (fA w)) ((elem32 (vReg k (fB w)) e).toNat % 128)).toNat))]),
  vectorRow .vbcst 0x16 {} (fun _ => [pD, pA, pFmt]) (fun w => decide (fFmt w = 1 ∨ fFmt w = 2)) (fun k w =>
    [(2, if fFmt w = 1 then writeV32 k w (fD w) (fun _ => (sReg k (fA w)).toNat)
      else writeV16 k w (fD w) (fun _ => (sReg k (fA w)).toNat))]),
  vectorRow .vmovs 0x17 {} (fun _ => [pD, pA, pB]) (fun _ => true) (fun k w =>
    let e := (sReg k (fB w)).toNat % 128
    [(3, .reg (.s (fD w)) (elem32 (vReg k (fA w)) e).toNat (if en32 k w e then ones 64 else 0))])]

/-- Rows that write a predicate register: VCMP writes both bits of a 32-bit element, PLOGIC single bits. -/
def predicateRows : List WriteRow := [
  vectorRow .vcmp 0x12 {} (fun _ => [pSub, pD, pA, pB, pFmt])
    (fun w => decide (fSub w ≤ 6) && decide (fD w ≤ 7) && decide (fFmt w = 1 ∨ fFmt w = 2 ∨ fFmt w = 10)) (fun k w =>
    let a := vReg k (fA w)
    let b := vReg k (fB w)
    [(2, if fFmt w = 2 then
        .reg (.p (fD w)) (maskElems 1 256 (fun e =>
          fpCompare (fSub w) (fpDecode fBf16 (elem 16 a.toNat e)) (fpDecode fBf16 (elem 16 b.toNat e)))) (maskElems 1 256 (en16 k w))
      else
        .reg (.p (fD w)) (maskElems 2 128 (fun e =>
          if fFmt w = 10 then intCompare (fSub w) (elem32 a e) (elem32 b e)
          else fpCompare (fSub w) (of32 (elem32 a e)) (of32 (elem32 b e)))) (maskElems 2 128 (en32 k w)))]),
  vectorRow .plogic 0x1A {}
    (fun w => [pSub, pD] ++ (if fSub w < 5 then [pA] else []) ++ (if fSub w < 4 then [pB] else []))
    (fun w => decide (fSub w ≤ 6) && decide (fD w ≤ 7) && decide (fA w ≤ 7) && decide (fB w ≤ 7)) (fun k w =>
    [(1, .reg (.p (fD w))
      (maskElems 1 256 (fun b => predLogic (fSub w) (bit (pReg k (fA w)).toNat b) (bit (pReg k (fB w)).toNat b)))
      (maskElems 1 256 (enabled k w)))])]

/-- 64 bytes of stope st on their way to the fault log (R350). -/
def sentToLog (s : State) (st : Nat) (bs : List Byte) : State := { s with flt := { s.flt with subm := s.flt.subm ++ [(st, bs)] } }

/-! ### What a command may change -/

/-- From u to t only stope st may change: every other field of the machine and every other stope stand. -/
def OnlyStope (u t : State) (st : Nat) : Prop :=
  { t with stopes := [] } = { u with stopes := [] } ∧ ∀ st', st' ≠ st → stopeOf t st' = stopeOf u st'

/-- Records of stope st's ring that a further record of the same cycle may still move (R339). -/
def movable (u : State) (st : Nat) : Nat := (stopeOf u st).trace.cycleAgents.length

/-- The address of the j-th record of stope st's trace ring, counted from the first that may still move (R337, R339). -/
def recordAddr (u : State) (st j : Nat) : Nat :=
  traceAddr st (((stopeOf u st).trace.head + 8192 - movable u st + j) % 8192 * 32)

/-- pa lies in the next n records of stope st's trace ring, or in one that they may still move. -/
def InTrace (u : State) (st n pa : Nat) : Prop :=
  ∃ j, j < movable u st + n ∧ recordAddr u st j ≤ pa ∧ pa < recordAddr u st j + 32

/-- From u to t only stope st, the free-value counter and at most n of its trace records may change. -/
def OnlyTraced (u t : State) (st n : Nat) : Prop :=
  { t with stopes := [], mem := [], freeCtr := 0 } = { u with stopes := [], mem := [], freeCtr := 0 } ∧
  (∀ st', st' ≠ st → stopeOf t st' = stopeOf u st') ∧
  ∀ pa, ¬ InTrace u st n pa → cellAt t.mem pa = cellAt u.mem pa

/-- What R140 does to the work in flight on tile register r of crew ag when TCFG or TREL takes its contents away: writes in
flight are dropped, streams read 0 from there on, transfers go on without the register. Of the rest of the stope only the claim-fault
stall counter of R341 may move. -/
def TileLost (u v : State) (st ag r : Nat) : Prop :=
  OnlyStope u v st ∧
  { stopeOf v st with agents := [], arr0 := {}, arr1 := {}, queue := [], trace := {} } =
    { stopeOf u st with agents := [], arr0 := {}, arr1 := {}, queue := [], trace := {} } ∧
  { (stopeOf v st).trace with claimAt := none, stallClaim := 0 } = { (stopeOf u st).trace with claimAt := none, stallClaim := 0 } ∧
  (∀ a, (arrOf (stopeOf v st) a) =
    { arrOf (stopeOf u st) a with streams := (arrOf (stopeOf u st) a).streams.map (streamLose ag r) }) ∧
  (stopeOf v st).queue = (stopeOf u st).queue.map (fun f => if xferOn ag r f then { f with discard := true } else f) ∧
  (∀ a, a ≠ ag → crewOf v st a = crewOf u st a) ∧
  { crewOf v st ag with tiles := [], pend := [] } = { crewOf u st ag with tiles := [], pend := [] } ∧
  (crewOf v st ag).pend = (crewOf u st ag).pend.filter (fun p => !pendOnTile r p) ∧
  (∀ r', r' ≠ r → tileOf (crewOf v st ag) r' = tileOf (crewOf u st ag) r')

/-! ### What is due -/

/-- What a run keeps of a stope's work in progress: agents listed once, streams and loads with rows to come, a clock that runs. -/
def DueOk (x : Stope) : Prop :=
  keysAbove none x.agents = true ∧ (∀ a g, g ∈ (arrOf x a).streams → g.next < g.rows) ∧
  (∀ w, x.wld = some w → w.next < readCycles w.pace) ∧ 0 < x.clk.div

/-- Everything of stope st that is due at the present cycle has landed. -/
def AllLanded (s : State) (st : Nat) : Prop :=
  ∀ e ∈ dueList (stopeOf s st) s.now, 3 * cnt (stopeOf s st).clk s.now + 2 < e.1

/-- The agent waits at issue: time and all else stand, but for the figure from which its wait is counted (R100). -/
def WaitsAtIssue (s t : State) (st ag : Nat) : Prop :=
  OnlyStope s t st ∧ { stopeOf t st with agents := [] } = { stopeOf s st with agents := [] } ∧
  (∀ a, a ≠ ag → crewOf t st a = crewOf s st a) ∧
  (crewOf t st ag).tramSince.isSome = true ∧ { crewOf t st ag with tramSince := none } = { crewOf s st ag with tramSince := none }

/-! ### Tallies -/

/-- From u to t no crew changes but for its wait, and no memory. -/
def OnlyWaits (u t : State) : Prop :=
  t.mem = u.mem ∧ ∀ st a, { crewOf t st a with wait := none } = { crewOf u st a with wait := none }

/-- Nothing has reached the tally in device cycle n yet. -/
def Fresh (x : Tally) (n : Nat) : Prop := x.count < 2 ^ 32 ∧ ∀ v, x.visit = some v → v.cycle ≠ n

/-- From u to t one addition of 1 has reached the tally: it saturates, and the waiters are scanned (R173, R174, R178). -/
def CountsOne (u t : State) (sc : Scope) (unit num : Nat) : Prop :=
  let x := tallyOf u sc unit num
  let y := tallyOf t sc unit num
  let e := scan (min (x.count + 1) (2 ^ 32 - 1)) false x.waiters
  Fresh x u.now → y.count = e.1 ∧ y.waiters = e.2.1 ∧ y.sat = (x.sat || decide (2 ^ 32 ≤ x.count + 1)) ∧ y.under = x.under ∧ y.base = x.base

/-! ### Hoists and messages -/

/-- From u to t only level n may change. -/
def OnlyLevel (u t : State) (n : Nat) : Prop :=
  { t with levels := [] } = { u with levels := [] } ∧ ∀ m, m ≠ n → levelOf t m = levelOf u m

/-- A hoist without the stall figures that every change of it brings up to now (R231). -/
def sansStall (h : Hoist) : Hoist := { h with stallDeadline := 0, stallWindow := 0, deadlineAt := none, windowAt := none }

/-- The hoist of level n is `h` but for its stall figures, and the rest of its level stands. -/
def HoistNow (u t : State) (n : Nat) (h : Hoist) : Prop :=
  sansStall (hoistOf t n) = sansStall h ∧ { levelOf t n with hoist := {} } = { levelOf u n with hoist := {} }


/-- Nothing stands before a control flit at a port: it leaves at once (R238, R240, R242). -/
def Clear (x : Port) : Prop := carries x = true ∧ x.sendq = [] ∧ x.retiring = none ∧ x.buffer.length < 1024

/-! ### Messages to the host -/

/-- Mailbox k takes a message at once: a controller is active, nothing waits, its ring has room, its session is open (R311, R314, R364).
-/
def CanPost (s : State) (k : Nat) : Prop :=
  s.flt.takeover = none ∧ (mbxOf s k).pend = [] ∧ ringDist (mbxOf s k).rspTail (mbxOf s k).rspHead < 128 ∧ (mbxOf s k).isOpen = true

/-- From s to t mailbox k has posted one message, of which p holds. -/
def Posts (s t : State) (k : Nat) (p : Msg → Prop) : Prop :=
  (mbxOf t k).rspTail = ((mbxOf s k).rspTail + 1) % 2 ^ 16 ∧ ∃ l l' m, t.out = l ++ Out.slot m :: (l' ++ s.out) ∧ m.mbx = k ∧ p m

/-- The completion record's message of command c. -/
def Completion (c : Cmd) (m : Msg) : Prop := m.typ = 0x40 ∧ m.tag = c.tag ∧ m.epoch = c.epoch ∧ m.note = true

/-! ### Commands -/

/-- The command list with c in the place of the command of its order. -/
def withCmd (s : State) (c : Cmd) : List Cmd := s.cmds.map (fun d => if d.order = c.order then c else d)

/-- Command c has left the dispatcher of t with an outcome and a code at device cycle n. -/
def Ended (t : State) (c : Cmd) (outcome code n : Nat) : Prop :=
  ∃ d ∈ t.cmds, d.order = c.order ∧ d.state = .finished ∧ d.outcome = outcome ∧ d.code = code ∧ d.finish = n

/-- c is the one running command of its tag. -/
def Alone (s : State) (c : Cmd) : Prop := c ∈ s.cmds ∧ isRunning c = true ∧ ∀ d ∈ s.cmds, d.tag = c.tag → isRunning d = true → d = c

/-- Crew cr of stope st has been started for command c: at its entry word, with ARG, the logical stope, the crew and the round in
S1 to S4 (R327). -/
def Launched (t : State) (c : Cmd) (st cr : Nat) : Prop :=
  let k := crewOf t st cr
  k.state = .running ∧ k.pc = c.desc.entry ∧ k.loops = [] ∧ k.tag = c.tag ∧ k.epoch = c.epoch ∧
  sReg k 1 = BitVec.ofNat 64 c.desc.arg ∧ sReg k 2 = BitVec.ofNat 64 st ∧ sReg k 3 = BitVec.ofNat 64 cr ∧
  sReg k 4 = BitVec.ofNat 64 c.round

/-- The crew is idle or stopped, so a RUN starts it. -/
def CanLaunch (s : State) (st cr : Nat) : Prop := shownState (crewOf s st cr) s.now = .idle ∨ shownState (crewOf s st cr) s.now = .stopped

/-! ### Requests of the mailboxes -/

/-- Mailbox k takes a reply at once: a controller is active, its ring has room, and what waits there is notes for a session (R314, R318,
R364). -/
def HasRoom (s : State) (k : Nat) : Prop :=
  s.flt.takeover = none ∧ (∀ p ∈ (mbxOf s k).pend, p.note = true) ∧ ringDist (mbxOf s k).rspTail (mbxOf s k).rspHead < 128

/-- Among what left the device from s to t is a message of mailbox k of which p holds. -/
def Sent (s t : State) (k : Nat) (p : Msg → Prop) : Prop := ∃ l l' m, t.out = l ++ Out.slot m :: (l' ++ s.out) ∧ m.mbx = k ∧ p m

/-- The reply to request r of type typ: its status and payload (R316, R317). -/
def IsReply (typ st : Nat) (r : Req) (pl : List Byte) (x : Msg) : Prop :=
  x.typ = typ + 0x80 ∧ x.status = st ∧ x.reqSeq = r.seq ∧ x.payload = pl

/-- The request slot is consumed and its reply posted. -/
def Answered (s t : State) (m typ st : Nat) (r : Req) (pl : List Byte) : Prop :=
  (mbxOf t m).reqHead = ((mbxOf s m).reqHead + 1) % 2 ^ 16 ∧ Posts s t m (IsReply typ st r pl)

/-- Mailbox m is served and its session lets a request of this type stand. -/
def Stands (s : State) (m typ minVer : Nat) (r : Req) : Prop :=
  r.reserved = none ∧ served s m = true ∧ sessionStatus (mbxOf s m) typ minVer r = none ∧ HasRoom s m

/-- A request row: its command, its TYPE and the lowest protocol version that carries it (R317). -/
structure ReqRow where
  instr : Nat → Req → Instr
  typ : Nat
  minVer : Nat

def requestRows : List ReqRow := [
  ⟨.bye, 0x02, 1⟩, ⟨.submit, 0x10, 1⟩, ⟨.cancel, 0x11, 1⟩, ⟨.status, 0x12, 1⟩, ⟨.setBudget, 0x20, 2⟩, ⟨.setFabId, 0x22, 2⟩,
  ⟨.logRead, 0x51, 2⟩, ⟨.retireRead, 0x53, 2⟩, ⟨.retireClear, 0x54, 3⟩, ⟨.snap, 0x60, 2⟩, ⟨.restore, 0x62, 2⟩, ⟨.slotInfo, 0x63, 2⟩,
  ⟨.quote, 0x64, 2⟩, ⟨.certRead, 0x65, 2⟩, ⟨.fwUpdate, 0x66, 2⟩, ⟨.fwCommit, 0x67, 2⟩, ⟨.cfgUpdate, 0x68, 2⟩]

/-- The bring-up begins: the reset is released, the straps are sampled, every step is still to come, and the device serves nothing
yet (R37, R413, R424). -/
def BringsUp (t : State) (e : BootEnv) : Prop :=
  t.power = .starting ∧ t.boot.steps = powerUpSteps ∧ t.boot.t0 = t.now ∧ t.boot.released = some t.now ∧ t.boot.aon = false ∧
  t.ep.ready = false ∧ t.ep.cmdReady = false ∧ headsUp t = false ∧ t.trust.bootSel = e.bootSel % 4

/-- What a device reset leaves of memory, registers and rings: the flash and the retirement list stand, everything that power-up fills
is empty (R36, R37, R361). -/
def ResetKeepsFlash (s t : State) : Prop :=
  t.now = 0 ∧ t.stopes = [] ∧ t.levels = [] ∧ t.cmds = [] ∧ t.mbx = [] ∧ t.mem = [] ∧ t.rnd = {} ∧ t.flt.log = [] ∧
  t.flt.history = s.flt.history ∧ t.flt.retStopes = s.flt.retStopes ∧ t.flt.retPcs = s.flt.retPcs ∧ t.flt.retLanes = s.flt.retLanes ∧
  t.trust.fwA = s.trust.fwA ∧ t.trust.fwB = s.trust.fwB ∧ t.trust.conf0 = s.trust.conf0 ∧ t.trust.conf1 = s.trust.conf1
/-- R107, R115: SADD to SSRA write f(Sa, Sb) into Sd, SMUL three cycles after issue and the others one; nothing else changes but
the agent's place in its program. -/
def ScalarArithmeticWritesSd : Prop := ∀ r ∈ scalarRows, r.Holds

/-- R107: SLI, SLIH and SADDI. -/
def ScalarImmediateWritesSd : Prop := ∀ r ∈ immRows, r.Holds

/-- R107 to R111: the predicated vector rows write their destination, element by element, and nothing else changes. -/
def VectorRowsWriteDestination : Prop := ∀ r ∈ vectorRows, r.Holds

/-- R107, R111: VCMP and PLOGIC write the enabled bits of a predicate register. -/
def PredicateRowsWritePredicate : Prop := ∀ r ∈ predicateRows, r.Holds

/-- R107, R113, R347: SLD and SST move eight bytes, VLD and VST 512 under the predicate, each ready its latency after issue. A load
that meets an uncorrectable word of the store writes nothing and raises STORE_UNCORR. -/
def StoreAccessesMoveBytes : Prop := ∀ (st ag : Nat) (w : Word64) (s : State),
  (∀ e, Issues s st ag w 0x0D → scalarMemOk ag w = true →
    let c := atCycle s st ag (storeNeed s st ag w 8) 0 always
    let u := atIssue s st ag c
    let m := scalarMem st ag w
    let o := storeOff (crewOf u st ag) w
    o < m.2 → o % 8 = 0 → e ≠ .bad →
    Executes (.sld st ag w e) s st ag c
      (storeRead (startWrites u st ag c [(8, writeS (fD w) (BitVec.ofNat 64 (readNat u (m.1 + o) 8)))]) e) (.seq 1)) ∧
  (Issues s st ag w 0x0D → scalarMemOk ag w = true → (scalarMem st ag w).2 = 2 ^ 24 →
    let c := atCycle s st ag (storeNeed s st ag w 8) 0 always
    let u := atIssue s st ag c
    let o := storeOff (crewOf u st ag) w
    o < 2 ^ 24 → o % 8 = 0 → Executes (.sld st ag w .bad) s st ag c (storeUncorr u st ag (storeAddr st 0 + o)) (.seq 1)) ∧
  (Issues s st ag w 0x0E → scalarMemOk ag w = true →
    let c := atCycle s st ag (storeNeed s st ag w 8) 0 always
    let u := atIssue s st ag c
    let m := scalarMem st ag w
    let o := storeOff (crewOf u st ag) w
    o < m.2 → o % 8 = 0 →
    Executes (.sst st ag w) s st ag c
      (startWrites u st ag c [(8, .store (cellsAt (m.1 + o) (toBytes 8 (sReg (crewOf u st ag) (fD w)).toNat)))]) (.seq 1)) ∧
  (∀ e, Issues s st ag w 0x18 → ag ≠ 16 → onlyFields w [pPred, pD, pA, pImm] = true → predOk w = true →
    let c := atCycle s st ag (storeNeed s st ag w 512) 0 always
    let u := atIssue s st ag c
    let k := crewOf u st ag
    let o := storeOff k w
    o + 512 ≤ 2 ^ 24 → o % 64 = 0 → e ≠ .bad →
    Executes (.vld st ag w e) s st ag c
      (storeRead (startWrites u st ag c [(10, .reg (.v (fD w)) (readNat u (storeAddr st o) 512) (byteMask k w 512))]) e) (.seq 1)) ∧
  (Issues s st ag w 0x18 → ag ≠ 16 → onlyFields w [pPred, pD, pA, pImm] = true → predOk w = true →
    let c := atCycle s st ag (storeNeed s st ag w 512) 0 always
    let u := atIssue s st ag c
    let o := storeOff (crewOf u st ag) w
    o + 512 ≤ 2 ^ 24 → o % 64 = 0 → Executes (.vld st ag w .bad) s st ag c (storeUncorr u st ag (storeAddr st o)) (.seq 1)) ∧
  (Issues s st ag w 0x19 → ag ≠ 16 → onlyFields w [pPred, pD, pA, pImm] = true → predOk w = true →
    let c := atCycle s st ag (storeNeed s st ag w 512) 0 always
    let u := atIssue s st ag c
    let k := crewOf u st ag
    let o := storeOff k w
    o + 512 ≤ 2 ^ 24 → o % 64 = 0 →
    Executes (.vst st ag w) s st ag c
      (startWrites u st ag c [(10, .store ((cellsAt (storeAddr st o) (toBytes 512 (vReg k (fD w)).toNat)).filter
        (fun x => en16 k w ((x.1 - storeAddr st o) / 2))))]) (.seq 1))

/-- R113, R130: a crew's scalar or vector store access whose offset lies outside the store or is misaligned faults the crew with
ADDR_HOLE or MISALIGNED, and no write sets out. That ADDR_HOLE goes before MISALIGNED, and that the conflicts which the faulting word met
count, is the model's choice (log 11). -/
def StoreAccessesTrapOnBadOffset : Prop := ∀ (st ag : Nat) (w : Word64) (s : State) (e : Ecc), ag < 16 →
  (onlyFields w [pD, pA, pImm] = true →
    let c := atCycle s st ag (storeNeed s st ag w 8) 0 always
    let u := atIssue s st ag c
    let o := storeOff (crewOf u st ag) w
    (2 ^ 24 ≤ o → (Issues s st ag w 0x0D → Gives (.sld st ag w e) s (crewFault (blockedAt s u st ag c) st ag fcAddrHole o)) ∧
      (Issues s st ag w 0x0E → Gives (.sst st ag w) s (crewFault (blockedAt s u st ag c) st ag fcAddrHole o))) ∧
    (o < 2 ^ 24 → o % 8 ≠ 0 → (Issues s st ag w 0x0D → Gives (.sld st ag w e) s (crewFault (blockedAt s u st ag c) st ag fcMisaligned o)) ∧
      (Issues s st ag w 0x0E → Gives (.sst st ag w) s (crewFault (blockedAt s u st ag c) st ag fcMisaligned o)))) ∧
  (onlyFields w [pPred, pD, pA, pImm] = true → predOk w = true →
    let c := atCycle s st ag (storeNeed s st ag w 512) 0 always
    let u := atIssue s st ag c
    let o := storeOff (crewOf u st ag) w
    (2 ^ 24 ≤ o ∨ (o % 64 = 0 ∧ 2 ^ 24 < o + 512) → (Issues s st ag w 0x18 → Gives (.vld st ag w e) s (crewFault (blockedAt s u st ag c) st ag fcAddrHole o)) ∧
      (Issues s st ag w 0x19 → Gives (.vst st ag w) s (crewFault (blockedAt s u st ag c) st ag fcAddrHole o))) ∧
    (o < 2 ^ 24 → o % 64 ≠ 0 → (Issues s st ag w 0x18 → Gives (.vld st ag w e) s (crewFault (blockedAt s u st ag c) st ag fcMisaligned o)) ∧
      (Issues s st ag w 0x19 → Gives (.vst st ag w) s (crewFault (blockedAt s u st ag c) st ag fcMisaligned o))))

/-- R107, R117: BR goes to its target when its condition holds and on to the next word otherwise; CALL saves PC + 1 in Sa and
branches; RET branches to Sa[14:0]; a taken branch issues its successor three cycles later. -/
def BranchesGo : Prop := ∀ (st ag : Nat) (w : Word64) (s : State),
  let c := plainCycle s st ag
  let u := plainState s st ag
  let k := crewOf u st ag
  (Issues s st ag w 0x40 → onlyFields w [pA, pB, pCond, pTgt] = true → bCond w ≠ 7 →
    Executes (.br st ag w) s st ag c u
      (if condHolds (bCond w) (sReg k (fA w)) (sReg k (fB w)) then .jump (bTgt w) else .seq 1)) ∧
  (Issues s st ag w 0x41 → onlyFields w [pA, pTgt] = true →
    Executes (.call st ag w) s st ag c (startWrites u st ag c [(1, writeS (fA w) (BitVec.ofNat 64 (k.pc + 1)))]) (.jump (bTgt w))) ∧
  (Issues s st ag w 0x42 → onlyFields w [pA] = true →
    Executes (.ret st ag w) s st ag c u (.jump ((sReg k (fA w)).toNat % 2 ^ 15)))

/-- R118, R119: LOOP opens the next nesting level with its count, or skips the body when the count is 0; SLC writes a loop count
register; LIX reads the index of an active loop, 0 for none. -/
def LoopsOpenAndCount : Prop := ∀ (st ag : Nat) (w : Word64) (s : State), ag ≠ 16 →
  let c := plainCycle s st ag
  let u := plainState s st ag
  let k := crewOf u st ag
  let n := (lcReg k (bLvl w)).toNat
  (Issues s st ag w 0x43 → onlyFields w [pLvl, pTgt] = true → bLvl w = k.loops.length → k.loops.length < 4 → k.pc < bTgt w →
    (n = 0 → Executes (.loop st ag w) s st ag c u (.skip (bTgt w))) ∧
    (n ≠ 0 → Executes (.loop st ag w) s st ag c (modCrew u st ag (fun k => { k with
      loops := { start := k.pc + 1, stop := bTgt w, remaining := n, index := 0 } :: k.loops })) (.seq 1))) ∧
  (Issues s st ag w 0x44 → onlyFields w [pLvl, pA] = true →
    Executes (.slc st ag w) s st ag c
      (startWrites u st ag c [(1, .reg (.lc (bLvl w)) ((sReg k (fA w)).toNat % 2 ^ 32) (ones 32))]) (.seq 1)) ∧
  (Issues s st ag w 0x45 → onlyFields w [pLvl, pA] = true →
    Executes (.lix st ag w) s st ag c (startWrites u st ag c [(1, writeS (fA w)
      (BitVec.ofNat 64 (match loopAt k (bLvl w) with | some l => l.index | none => 0)))]) (.seq 1))

/-- R107, R122, R123: WAIT delays the next issue by max(1, IMM); FENCE goes on, or holds the crew with its resume address while a
swap is pending; HALT makes a crew idle and an overman halted. -/
def WaitFenceHalt : Prop := ∀ (st ag : Nat) (w : Word64) (s : State),
  let c := plainCycle s st ag
  let u := plainState s st ag
  (Issues s st ag w 0x00 → onlyFields w [pImm] = true → Executes (.wait st ag w) s st ag c u (.seq (max 1 (fImm w)))) ∧
  (Issues s st ag w 0x46 → ag ≠ 16 → onlyFields w [pTgt] = true →
    ((stopeOf u st).swapPending = false → Executes (.fence st ag w) s st ag c u (.seq 1)) ∧
    ((stopeOf u st).swapPending = true → Executes (.fence st ag w) s st ag c
      (modCrew u st ag (fun k => { k with state := .fenced, fenceTgt := bTgt w })) .stay)) ∧
  (Issues s st ag w 0x47 → onlyFields w [] = true →
    Executes (.halt st ag w) s st ag c
      (modCrew u st ag (fun k => { k with state := if ag = 16 then .stopped else .idle })) (.seq 1))

/-- R170, R171, R173: TSIG queues its signal for the release point, TTAKE and TWATCH send a wait out and deschedule the crew at
its word, TREAD reads the count into Sa, as it stands before what reaches the tally in its issue cycle: the model's reading (log 10). -/
def TallyInstructionsIssue : Prop := ∀ (st ag : Nat) (w : Word64) (s : State), tallyOk w = true →
  let c := plainCycle s st ag
  let u := plainState s st ag
  let k := crewOf u st ag
  let sc := scopeOf (ySc w)
  let waits := fun take => modCrew u st ag (fun k => { k with
    state := .waiting
    wait := some {
      sc := sc, unit := scopeUnit sc st, num := yNum w, n := tallyN k w, take := take, issued := u.now
      phase := .travelling } })
  (Issues s st ag w 0x50 → onlyFields w (pSub :: countFields w) = true → fSub w ≤ 1 →
    Executes (.tsig st ag w) s st ag c { u with signals := u.signals ++ [
      { st := st, ag := ag, rel := max (c + 1) k.relPoint, sc := sc, unit := scopeUnit sc st, num := yNum w
        sub := decide (fSub w = 1), n := tallyN k w, tag := k.tag, epoch := k.epoch }] } (.seq 1)) ∧
  (Issues s st ag w 0x51 → ag ≠ 16 → onlyFields w (countFields w) = true →
    Executes (.ttake st ag w) s st ag c (waits true) .stay) ∧
  (Issues s st ag w 0x52 → ag ≠ 16 → onlyFields w (countFields w) = true →
    Executes (.twatch st ag w) s st ag c (waits false) .stay) ∧
  (Issues s st ag w 0x53 → onlyFields w [pSc, pNum, pYA] = true →
    Executes (.tread st ag w) s st ag c (startWrites u st ag c [(treadLatency sc, writeS (yA w)
      (BitVec.ofNat 64 (treadCount u (tallyOf u sc (scopeUnit sc st) (yNum w)))))]) (.seq 1))

/-- R128, R134: SYSRD reads a system register into Sd two cycles after issue, SYSWR writes one at its issue, which is the
model's reading (log 12). -/
def OvermanReadsAndWritesSystemRegisters : Prop := ∀ (st : Nat) (w : Word64) (s : State),
  let c := plainCycle s st 16
  let u := plainState s st 16
  (Issues s st 16 w 0x60 → onlyFields w [pD, pSys] = true →
    Executes (.sysrd st 16 w) s st 16 c
      (startWrites u st 16 c [(2, writeS (fD w) (BitVec.ofNat 64 (sysRead u st (fSys w))))]) (.seq 1)) ∧
  (Issues s st 16 w 0x61 → onlyFields w [pA, pSys] = true →
    Executes (.syswr st 16 w) s st 16 c (sysWrite u st (fSys w) (sReg (crewOf u st 16) (fA w)).toNat) (.seq 1))

/-- R128, R176: CRSTART starts an idle or stopped crew and answers 0, otherwise 1 and nothing starts; CRSTOP stops a running or
fenced crew and begins the withdrawal of a waiting one; CRRES lets a stopped or faulted crew go on, one stopped at a FENCE back to the
FENCE while a swap is pending, and leaves any other crew alone; either lets the crew issue four cycles after its own issue at the
earliest. What becomes of a crew stopped at a FENCE is the model's reading (log 12). -/
def OvermanStartsAndStopsCrews : Prop := ∀ (st : Nat) (w : Word64) (s : State),
  let c := plainCycle s st 16
  let u := plainState s st 16
  let o := crewOf u st 16
  let cr := crewArg o w
  let k := crewOf u st cr
  let g := ungate u st none
  let n := countedAt g st (c + 4)
  (Issues s st 16 w 0x62 → onlyFields w [pD, pA, pB] = true →
    ((shownState k c = .idle ∨ shownState k c = .stopped) → Executes (.crstart st 16 w) s st 16 c
      (startWrites (startCrew u st cr (bits (sReg o (fB w)).toNat 0 15) (c + 4)) st 16 c [(4, writeS (fD w) 0)]) (.seq 1)) ∧
    (shownState k c ≠ .idle → shownState k c ≠ .stopped → Executes (.crstart st 16 w) s st 16 c
      (startWrites u st 16 c [(4, writeS (fD w) 1)]) (.seq 1))) ∧
  (Issues s st 16 w 0x63 → onlyFields w [pA] = true →
    Executes (.crstop st 16 w) s st 16 c (modStope (ungate u st none) st (fun x => stirred
      (modAgent x cr (stopCrew (monitorOff u (stopeLevel st)) (cnt x.clk u.now) (c + 4))) (c + 4))) (.seq 1)) ∧
  (Issues s st 16 w 0x64 → onlyFields w [pA] = true →
    (shownState k c = .stopped → Executes (.crres st 16 w) s st 16 c (modCrew g st cr (fun k => { k with
      state := if k.wasState = .fenced ∧ (stopeOf u st).swapPending then .fenced else .running
      nextIssue := max k.nextIssue n, wakeAt := c + 4 })) (.seq 1)) ∧
    (shownState k c = .faulted → Executes (.crres st 16 w) s st 16 c (modCrew g st cr (fun k => { k with
      state := .running, nextIssue := max k.nextIssue n, wakeAt := c + 4 })) (.seq 1)) ∧
    (shownState k c ≠ .stopped → shownState k c ≠ .faulted → Executes (.crres st 16 w) s st 16 c u (.seq 1)))

/-- R129: CRRD reads the element that SYS names of the crew that Sa names; CRWR writes it to a crew at rest, and to any other
crew only sets CRW_IGN. What each element holds is read from R129; that an inactive loop reads 0 is the model's choice (log 12). -/
def OvermanReadsAndWritesCrewElements : Prop := ∀ (st : Nat) (w : Word64) (s : State) (e : Elem),
  elemOf (fSys w) = some e →
  let c := plainCycle s st 16
  let u := plainState s st 16
  let o := crewOf u st 16
  let cr := crewArg o w
  (Issues s st 16 w 0x65 → onlyFields w [pD, pA, pSys] = true →
    Executes (.crrd st 16 w) s st 16 c
      (startWrites u st 16 c [(4, writeS (fD w) (BitVec.ofNat 64 (readElem (crewOf u st cr) c e)))]) (.seq 1)) ∧
  (Issues s st 16 w 0x66 → onlyFields w [pA, pB, pSys] = true →
    (atRest (crewOf u st cr) c = true → Executes (.crwr st 16 w) s st 16 c
      (startWrites (modCrew (ungate u st none) st cr (cancelElem e)) st 16 c [(2, .elem cr (fSys w) (sReg o (fB w)).toNat)]) (.seq 1)) ∧
    (atRest (crewOf u st cr) c = false → Executes (.crwr st 16 w) s st 16 c
      (modStope u st (fun x => { x with crwIgn := true })) (.seq 1)))

/-- R128, R159: CLMLD loads a checked image into the window four cycles after issue, an image with VALID clear invalidates it, and so
does one that is refused, which raises CLAIM_IMAGE; CLMINV invalidates. That a refused image invalidates the window is the model's reading (log 12). -/
def OvermanLoadsClaims : Prop := ∀ (st : Nat) (w : Word64) (s : State),
  let c := plainCycle s st 16
  let u := plainState s st 16
  let o := crewOf u st 16
  let win := bits (sReg o (fA w)).toNat 0 9
  let off := (sReg o (fB w)).toNat
  let img := readBytes u (ovmAddr st off) 32
  (Issues s st 16 w 0x67 → onlyFields w [pA, pB] = true → off + 32 ≤ 2 ^ 18 →
    ((imageClaim img).valid = false → Executes (.clmld st 16 w) s st 16 c (startWrites u st 16 c [(4, .claim win {})]) (.seq 1)) ∧
    ((imageClaim img).valid = true → claimBad u img = false →
      Executes (.clmld st 16 w) s st 16 c (startWrites u st 16 c [(4, .claim win (imageClaim img))]) (.seq 1)) ∧
    ((imageClaim img).valid = true → claimBad u img = true →
      Gives (.clmld st 16 w) s (takeOpen (blockedAt s (startWrites u st 16 c [(4, .claim win {})]) st 16 c) st 16 0x0202))) ∧
  (Issues s st 16 w 0x68 → onlyFields w [pA] = true →
    Executes (.clminv st 16 w) s st 16 c (startWrites u st 16 c [(4, .claim win {})]) (.seq 1))

/-- R122, R128, R350: PSWAP makes the swap pending; EVWAIT goes on when an unmasked event is pending and sleeps otherwise; ERET
returns to OVM_EPC with events enabled; FLTREC sends 64 bytes of overman data memory towards the fault log. -/
def OvermanSwapsWaitsReturnsRecords : Prop := ∀ (st : Nat) (w : Word64) (s : State),
  let c := plainCycle s st 16
  let u := plainState s st 16
  let x := stopeOf u st
  let off := (sReg (crewOf u st 16) (fA w)).toNat
  (Issues s st 16 w 0x69 → onlyFields w [] = true → Executes (.pswap st 16 w) s st 16 c
    (modStope u st (fun x => { x with swapPending := true, cancelled := false })) (.seq 1)) ∧
  (Issues s st 16 w 0x6A → onlyFields w [] = true →
    (eventPending x = true → Executes (.evwait st 16 w) s st 16 c u (.seq 2)) ∧
    (eventPending x = false → Executes (.evwait st 16 w) s st 16 c
      (modCrew u st 16 (fun o => { o with state := .waiting })) (.seq 1))) ∧
  (Issues s st 16 w 0x6B → onlyFields w [] = true → Executes (.eret st 16 w) s st 16 c
    (modStope u st (fun x => { x with evOn := true, inHandler := false })) (.jump (x.epc.toNat % 2 ^ 15))) ∧
  (Issues s st 16 w 0x6C → onlyFields w [pA] = true → off + 64 ≤ 2 ^ 18 →
    Executes (.fltrec st 16 w) s st 16 c
      (sentToLog (modStope u st (fun x => { x with fltBusy := true })) st (readBytes u (ovmAddr st off) 64)) (.seq 1))

/-- R107, R128, R130: a privileged word on a crew raises PRIV_OP: the crew is faulted at it with that code. -/
def PrivilegedWordsTrapOnCrews : Prop := ∀ (st ag : Nat) (w : Word64) (s : State) (i : Instr) (op : Nat),
  (i, op) ∈ [(Instr.sysrd st ag w, 0x60), (.syswr st ag w, 0x61), (.crstart st ag w, 0x62), (.crstop st ag w, 0x63),
    (.crres st ag w, 0x64), (.crrd st ag w, 0x65), (.crwr st ag w, 0x66), (.clmld st ag w, 0x67), (.clminv st ag w, 0x68),
    (.pswap st ag w, 0x69), (.evwait st ag w, 0x6A), (.eret st ag w, 0x6B), (.fltrec st ag w, 0x6C)] →
  ag < 16 → Issues s st ag w op →
  ∃ t, Gives i s t ∧ (crewOf t st ag).state = .faulted ∧ (crewOf t st ag).faultCode = fcPrivOp ∧
    (crewOf t st ag).faultPc = (crewOf (plainState s st ag) st ag).pc

/-- R137, R138, R140: TCFG gives a tile register a legal shape and TREL keeps the one it has; either way the contents, the
statistics and a held transfer are gone and the work in flight on the register ends as R140 lays down. -/
def TileShapesChange : Prop := ∀ (st ag : Nat) (w : Word64) (s : State), ag ≠ 16 →
  let c := plainCycle s st ag
  let u := plainState s st ag
  let k := crewOf u st ag
  let a := (sReg k (tA w)).toNat
  (Issues s st ag w 0x20 → onlyFields w [pT, pTA] = true →
    a = bits a 0 7 + bits a 8 5 * 2 ^ 8 + bits a 16 5 * 2 ^ 16 + bits a 24 5 * 2 ^ 24 →
    shapeBad (bits a 0 7) (bits a 8 5) (bits a 16 5) = false →
    ∃ v, Executes (.tcfg st ag w) s st ag c v (.seq 1) ∧ TileLost u v st ag (tT w) ∧
      tileOf (crewOf v st ag) (tT w) = { rows := bits a 0 7, len := 16 * bits a 8 5, fmt := bits a 16 5 }) ∧
  (Issues s st ag w 0x21 → onlyFields w [pT] = true →
    ∃ v, Executes (.trel st ag w) s st ag c v (.seq 1) ∧ TileLost u v st ag (tT w) ∧
      tileOf (crewOf v st ag) (tT w) =
        { rows := (tileOf k (tT w)).rows, len := (tileOf k (tT w)).len, fmt := (tileOf k (tT w)).fmt })

/-- R137: a TCFG whose shape is refused, or that sets a reserved bit of Sa, raises SHAPE_FAULT. -/
def BadShapesTrap : Prop := ∀ (st ag : Nat) (w : Word64) (s : State), ag < 16 →
  Issues s st ag w 0x20 → onlyFields w [pT, pTA] = true →
  let a := (sReg (crewOf (plainState s st ag) st ag) (tA w)).toNat
  (shapeBad (bits a 0 7) (bits a 8 5) (bits a 16 5) = true ∨ bit a 7 = true ∨ bits a 13 3 ≠ 0 ∨ bits a 21 3 ≠ 0 ∨ bits a 29 35 ≠ 0) →
  ∃ t, Gives (.tcfg st ag w) s t ∧ (crewOf t st ag).state = .faulted ∧ (crewOf t st ag).faultCode = fcShapeFault ∧
    (crewOf t st ag).tiles = (crewOf (plainState s st ag) st ag).tiles

/-- R107, R136, R138: TRD reads a row's payload into Vd, bytes beyond the row 0; TWR writes the enabled bytes of a row; SRSEED
seeds the 32 generators one cycle after issue. -/
def TileRowsMove : Prop := ∀ (st ag : Nat) (w : Word64) (s : State), ag ≠ 16 →
  let c := plainCycle s st ag
  let u := plainState s st ag
  let k := crewOf u st ag
  let y := tileOf k (tT w)
  (Issues s st ag w 0x26 → onlyFields w (rowFields w) = true → tileRow k w < y.rows →
    Executes (.trd st ag w) s st ag c
      (startWrites u st ag c [(3, .reg (.v (tA w)) (tget y.data 0 (tileRow k w)).toNat (ones 4096))]) (.seq 1)) ∧
  (Issues s st ag w 0x27 → onlyFields w (pPred :: rowFields w) = true → predOk w = true → tileRow k w < y.rows →
    Executes (.twr st ag w) s st ag c (startWrites u st ag c
      [(2, .reg (.tile (tT w) (tileRow k w)) ((vReg k (tA w)).toNat % 2 ^ (8 * y.len)) (byteMask k w y.len))]) (.seq 1)) ∧
  (Issues s st ag w 0x28 → onlyFields w [pA] = true →
    Executes (.srseed st ag w) s st ag c (startWrites u st ag c [(1, .seed ((sReg k (fA w)).toNat % 2 ^ 32))]) (.seq 1))

/-- R80, R107, R112, R430: the widening conversions. CVT from BF16 or FP16 writes FP32 elements exactly, four cycles after issue;
CVTW widens a tile row into as many vector registers as its elements need, five cycles after issue. -/
def WideningConversions : Prop := ∀ (st ag : Nat) (w : Word64) (s : State), ag ≠ 16 →
  (let c := plainCycle s st ag
   let u := plainState s st ag
   let k := crewOf u st ag
   Issues s st ag w 0x1B → onlyFields w [pPred, pSub, pD, pA, pFmt, pRm] = true → predOk w = true → fRm w = 0 → fFmt w = 1 →
   ∀ f, (fSub w = 2 ∧ f = fBf16) ∨ (fSub w = 3 ∧ f = fFp16) →
     Executes (.cvt st ag w) s st ag c (startWrites u st ag c
       [(4, writeV32 k w (fD w) (fun e => (to32 (fpDecode f (elem 16 (vReg k (fA w)).toNat e))).toNat))]) (.seq 1)) ∧
  (let c := atCycle s st ag (fun _ => { cvt := true }) 0 always
   let u := atIssue s st ag c
   let k := crewOf u st ag
   let y := tileOf k (tT w)
   Issues s st ag w 0x25 → onlyFields w (pTB :: rowFields w) = true → tileRow k w < y.rows → 1 ≤ y.fmt → y.fmt ≤ 8 →
     Executes (.cvtw st ag w) s st ag c (startWrites u st ag c
       ((List.range ((rowElems y + 127) / 128)).map (fun i =>
         (5, Eff.reg (.v ((tA w + i) % 32)) (packElems 32 128 (fun j =>
           (widenElem y (tileRow k w) ((sReg k (tB w)).toNat % 256) (128 * i + j)).toNat)) (ones 4096))))) (.seq 1))

/-- R75, R78, R79, R82, R112: the narrowing conversions. CVT from FP32 writes the enabled 16-bit elements and the counts of its
classes; CVTT writes a tile row, its scale bytes for an MX format, and the row's statistics. Under SR every element draws once. -/
def NarrowingConversions : Prop := ∀ (st ag : Nat) (w : Word64) (s : State), ag ≠ 16 →
  (let c := plainCycle s st ag
   let u := plainState s st ag
   let k := crewOf u st ag
   let sr := decide (fRm w = 1)
   ∀ f, (fFmt w = 2 ∧ f = fBf16) ∨ (fFmt w = 3 ∧ f = fFp16) →
   let r := fun e => narrow f true 0 (if sr then some (drawOf k e) else none) (elem32 (vReg k (fA w)) e)
   let cs := ((List.range 128).filter (en16 k w)).map (fun e => (r e).2)
   Issues s st ag w 0x1B → onlyFields w [pPred, pSub, pD, pA, pFmt, pRm] = true → predOk w = true → fRm w ≤ 1 → fSub w = 1 →
     Executes (.cvt st ag w) s st ag c (startWrites (takeDraws u st ag 128 sr) st ag c
       [(4, .reg (.v (fD w)) (packElems 16 128 (fun e => (r e).1)) (maskElems 16 128 (en16 k w))),
        (4, .counts (countClass .sat cs) (countClass .under cs) (countClass .nan cs))]) (.seq 1)) ∧
  (let c := atCycle s st ag (fun _ => { cvt := true }) 0 always
   let u := atIssue s st ag c
   let k := crewOf u st ag
   let y := tileOf k (tT w)
   let row := tileRow k w
   let n := rowElems y
   let sr := decide (tRm w = 1)
   let r := narrowRow k w y sr
   let on := (List.range n).filter (spanEn k w)
   let cs := on.map (fun j => ((r.codes[j]?).getD (0, .none)).2)
   Issues s st ag w 0x24 → onlyFields w ([pPred, pTB, pTRm] ++ rowFields w) = true → predOk w = true → tRm w ≤ 1 →
   row < y.rows → 1 ≤ y.fmt → y.fmt ≤ 8 →
     Executes (.cvtt st ag w) s st ag c (startWrites (takeDraws u st ag n sr) st ag c
       ([(6, Eff.reg (.tile (tT w) row) (packElems (fmtBits y.fmt) n (fun j => ((r.codes[j]?).getD (0, .none)).1))
          (maskElems (fmtBits y.fmt) n (spanEn k w)))] ++
        (if isMx y.fmt then [(6, Eff.reg (.scale (tT w) row) (packElems 8 (n / 32) (fun i => (((r.scales[i]?).getD none)).getD 0))
          (maskElems 8 (n / 32) (fun i => ((r.scales[i]?).getD none).isSome)))] else []) ++
        [(6, Eff.stats (tT w) (on.foldl (fun m j => max m (finiteMag (spanElem k (tA w) j))) 0)
          (countClass .sat cs) (countClass .under cs) (countClass .nan cs))])) (.seq 1))

/-- A tile transfer that starts afresh, as its crew queues it (R141, R144). -/
def newXfer (k : Crew) (w : Word64) (ag id : Nat) (kind : XKind) : Xfer :=
  let y := tileOf k (tT w)
  { id := id, kind := kind, crew := ag, tile := tT w, va := (sReg k (tA w)).toNat, q := tQ w, tag := k.tag, epoch := k.epoch
    round := k.round, rows := y.rows, len := y.len, fmt := y.fmt, crc := shapeCrc (tileShape y.rows y.len y.fmt) }

/-- What queueing a TLD or TST (`store`) leaves in v: the transfer at the queue's tail with the next id, from row 0 on or, where it
matches the one that its register holds, from row PROG on with the held checksum; the held state is empty (R141, R150). -/
def QueuesTile (u v : State) (w : Word64) (st ag : Nat) (kind : XKind) (store : Bool) (recVa : Option Nat) : Prop :=
  let x := stopeOf u st
  let k := crewOf u st ag
  let f := newXfer k w ag x.nextId kind
  OnlyTraced u v st 1 ∧ (stopeOf v st).nextId = x.nextId + 1 ∧
  (match (tileOf k (tT w)).held with
    | none => stopeOf v st = { x with queue := x.queue ++ [f], nextId := x.nextId + 1 }
    | some h =>
      { stopeOf v st with agents := [], queue := [], nextId := 0, resumed := 0, trace := {} } =
        { x with agents := [], queue := [], nextId := 0, resumed := 0, trace := {} } ∧
      tileOf (crewOf v st ag) (tT w) = { tileOf k (tT w) with held := none } ∧
      (∀ a, a ≠ ag → crewOf v st a = crewOf u st a) ∧ { crewOf v st ag with tiles := [] } = { k with tiles := [] } ∧
      (∀ r, r ≠ tT w → tileOf (crewOf v st ag) r = tileOf k r) ∧
      (h.store = store ∧ h.va = (sReg k (tA w)).toNat % 2 ^ 57 ∧ h.recVa = recVa ∧ h.tag = k.tag ∧ h.check = false →
        (stopeOf v st).queue = x.queue ++ [{ f with next := h.prog, prog := h.prog, crc := h.crc }] ∧
        (stopeOf v st).resumed = satAdd 16 x.resumed 1) ∧
      (¬(h.store = store ∧ h.va = (sReg k (tA w)).toNat % 2 ^ 57 ∧ h.recVa = recVa ∧ h.tag = k.tag ∧ h.check = false) →
        (stopeOf v st).queue = x.queue ++ [f] ∧ (stopeOf v st).resumed = x.resumed))

/-- R141, R150, R152, R154: TLD, TST and TRAM hand a transfer to the tram and the crew goes on: the transfer stands at the queue's
tail with the next id, as yet unstarted. A full queue, a full share of TRAMs or a busy register holds the crew at its word. A
descriptor that meets an uncorrectable word of the store queues nothing (R347). -/
def TransfersQueue : Prop := ∀ (st ag : Nat) (w : Word64) (s : State), ag ≠ 16 →
  (let c := atCycle s st ag (fun _ => { xfer := true }) 0 always
   let u := atIssue s st ag c
   let x := stopeOf u st
   let k := crewOf u st ag
   let rv := (sReg k (tB w)).toNat
   let rec' := if tRec w then some rv else none
   (tileOf k (tT w)).rows ≠ 0 → (sReg k (tA w)).toNat % 64 = 0 →
   (Issues s st ag w 0x22 → onlyFields w [pT, pTA, pQ] = true →
     (tileBusy x ag (tT w) = false → ∃ v, Executes (.tld st ag w) s st ag c v (.seq 1) ∧ QueuesTile u v w st ag .tld false none) ∧
     (tileBusy x ag (tT w) = true → ∃ t, Gives (.tld st ag w) s t ∧ WaitsAtIssue s t st ag)) ∧
   (Issues s st ag w 0x23 → onlyFields w ([pT, pTA, pQ, pRec] ++ (if tRec w then [pTB] else [])) = true →
     (tRec w = true → rv % 128 = 0) →
     (tileBusy x ag (tT w) = false →
       ∃ v, Executes (.tst st ag w) s st ag c v (.seq 1) ∧ QueuesTile u v w st ag (.tst rec') true rec') ∧
     (tileBusy x ag (tT w) = true → ∃ t, Gives (.tst st ag w) s t ∧ WaitsAtIssue s t st ag))) ∧
  (let c := atCycle s st ag (tramNeed s st ag w) 0 always
   let u := atIssue s st ag c
   let x := stopeOf u st
   let k := crewOf u st ag
   let o := (sReg k (tA w)).toNat
   Issues s st ag w 0x29 → onlyFields w [pTA, pQ] = true → o < 2 ^ 24 → o % 64 = 0 →
     (x.queue.length < 64 → tramShare x < 16 →
       (∀ e, e ≠ .bad → Executes (.tram st ag w e) s st ag c (storeRead (putStope u st { x with
         queue := x.queue ++ [
           { id := x.nextId, kind := .tram (readDesc (readBytes u (storeAddr st o) 64)), crew := ag, tile := 0, va := 0, q := tQ w
             tag := k.tag, epoch := k.epoch, round := k.round, rows := 0, len := 0, fmt := 0 }]
         nextId := x.nextId + 1 }) e) (.seq 1)) ∧
       Executes (.tram st ag w .bad) s st ag c (storeUncorr u st ag (storeAddr st o)) (.seq 1)) ∧
     (64 ≤ x.queue.length ∨ 16 ≤ tramShare x → ∀ e, ∃ t, Gives (.tram st ag w e) s t ∧ WaitsAtIssue s t st ag))
/-- R43, R44, R46, R49, R345, R347: WLD takes the shadow planes of both arrays at its issue: valid with the block's format, a load that reads
one cell row a cycle (four in the wide shape), the load path busy until it ends, a check to come for every stored tile. The cell
rows fed by a word of the first half that stays uncorrectable (below 256; 256 more names a second half, 512 more the scales) are not
loaded, its tile's check will say so, and each word that a re-read cured counts. The active planes stand. -/
def WeightLoadFillsShadowPlanes : Prop := ∀ (st ag : Nat) (w : Word64) (bad cured : List Nat) (s : State), ag ≠ 16 →
  let c := atCycle s st ag plain (stopeOf s st).wldFree always
  let u := atIssue s st ag c
  let x := stopeOf u st
  let base := (sReg (crewOf u st ag) (mSa w)).toNat
  let f := mFmt w
  let quick := wideAt x.arr0 c && wideAt x.arr1 c
  let pace := if quick then Pace.quick else Pace.slow
  let shadow := fun (a : Nat) => 1 - activeAt (arrOf x a) c
  Issues s st ag w 0x30 → onlyFields w [pTgt2, pSa, pMFmt] = true → mTgt w = 3 → 2 ≤ f → f ≤ 8 →
  base % 16384 = 0 → base + blockBytes f ≤ 2 ^ 24 →
  ∃ v, Executes (.wld st ag w ⟨bad, cured⟩) s st ag c v (.seq 1) ∧
    OnlyStope (cured.foldl (fun t _ => storeRead t .cured) u) v st ∧
    { stopeOf v st with arr0 := {}, arr1 := {} } =
      { x with
        arr0 := {}, arr1 := {}
        wld := some {
          issue := c, pace := pace, base := base, fmt := f, plane0 := shadow 0, plane1 := shadow 1, bad := bad.map (· % 256)
          next := 0 }
        wldCrew := ag, wldSince := if x.wldFree = c then x.wldSince else c
        wldStart := c, wldFree := c + (if quick then 64 else 256), wldBanks := wldBankCount f quick
        wchecks := x.wchecks ++ blockChecks c base f quick (shadow 0) (shadow 1) ag (crewOf u st ag).tag (crewOf u st ag).epoch bad } ∧
    ∀ a, let r := arrOf x a
      let r' := arrOf (stopeOf v st) a
      (planeOf r' (shadow a)).valid = true ∧ (planeOf r' (shadow a)).fmt = f ∧
      (planeOf r' (shadow a)).loads.head? = some { issue := c, pace := pace, rows := [], skip := bad.map (· % 256) } ∧
      planeOf r' (1 - shadow a) = planeOf r (1 - shadow a) ∧
      { r' with plane0 := {}, plane1 := {}, stallWeight := 0 } = { r with plane0 := {}, plane1 := {}, stallWeight := 0 }

/-- R47, R58: from the cycle after WSW the other plane of each named array is active, from the cycle after MCFG each named array
has the shape SHP; before it they stand, and the other array and everything else stand throughout. -/
def SwapAndShapeFromNextCycle : Prop := ∀ (st ag : Nat) (w : Word64) (s : State), ag ≠ 16 → mTgt w ≠ 0 →
  (let c := atCycle s st ag plain 0 (swapFree (stopeOf s st) w)
   let u := atIssue s st ag c
   Issues s st ag w 0x31 → onlyFields w [pTgt2] = true →
   ∃ v, Executes (.wsw st ag w) s st ag c v (.seq 1) ∧ OnlyStope u v st ∧
     { stopeOf v st with arr0 := {}, arr1 := {} } = { stopeOf u st with arr0 := {}, arr1 := {} } ∧
     ∀ a, a < 2 → let r := arrOf (stopeOf u st) a
       let r' := arrOf (stopeOf v st) a
       (a ∈ targets w → activeAt r' c = activeAt r c ∧ activeAt r' (c + 1) = 1 - activeAt r c ∧
         { r' with active := 0, wasActive := 0, swapAt := 0 } = { r with active := 0, wasActive := 0, swapAt := 0 }) ∧
       (a ∉ targets w → r' = r)) ∧
  (let c := atCycle s st ag plain 0 (shapeFree (stopeOf s st) w)
   let u := atIssue s st ag c
   Issues s st ag w 0x32 → onlyFields w [pTgt2, pShp] = true →
   ∃ v, Executes (.mcfg st ag w) s st ag c v (.seq 1) ∧ OnlyStope u v st ∧
     { stopeOf v st with arr0 := {}, arr1 := {} } = { stopeOf u st with arr0 := {}, arr1 := {} } ∧
     ∀ a, a < 2 → let r := arrOf (stopeOf u st) a
       let r' := arrOf (stopeOf v st) a
       (a ∈ targets w → wideAt r' c = wideAt r c ∧ wideAt r' (c + 1) = mShp w ∧
         { r' with wide := false, wasWide := false, shapeAt := 0 } = { r with wide := false, wasWide := false, shapeAt := 0 }) ∧
       (a ∉ targets w → r' = r))

/-- A legal stream word: the named arrays have their sources, the others none. -/
def streamWord (w : Word64) : Bool :=
  onlyFields w [pTgt2, pTaTb, pAcc, pMRs, pSa, pMode] && tgtOk w && saOk w &&
    (bit (mTgt w) 0 || decide (mTa w = 0)) && (bit (mTgt w) 1 || decide (mTb w = 0))

/-- R51, R52, R54, R56: a legal MFWD or MSTRT whose sources pass starts one stream on each named array: its rows enter one a
cycle (every other cycle for 16-bit formats) from the issue on, the feed is busy for that long, and nothing else changes but the
crew's release point and the stall figures. Sources that do not pass fault the crew, the wait that it has had being counted (R57; model's choice
in log 11). -/
def StreamsStart : Prop := ∀ (st ag : Nat) (w : Word64) (s : State) (column : Bool), ag ≠ 16 → streamWord w = true →
  let x0 := stopeOf s st
  let c := atCycle s st ag plain (feedFloor x0 w) (feedAdmits x0 w column)
  let u := atIssue s st ag c
  let x := stopeOf u st
  let k := crewOf u st ag
  Issues s st ag w (if column then 0x34 else 0x33) →
  (∀ code, (targets w).findSome? (streamFault x k w column c) = some code →
    Gives (if column then .mstrt st ag w else .mfwd st ag w) s (takeOpen (blockedAt s
      (putStope u st (countTurn x w column k.nextIssue c (stallOf s st))) st ag c) st ag code)) ∧
  ((targets w).findSome? (streamFault x k w column c) = none →
  ∃ v, Executes (if column then .mstrt st ag w else .mfwd st ag w) s st ag c v (.seq 1) ∧ OnlyStope u v st ∧
    { stopeOf v st with arr0 := {}, arr1 := {}, agents := [] } = { x with arr0 := {}, arr1 := {}, agents := [] } ∧
    (∀ a, a ≠ ag → crewOf v st a = crewOf u st a) ∧
    { crewOf v st ag with relPoint := 0 } = { k with relPoint := 0 } ∧
    ∀ a, a < 2 → let r := arrOf x a
      let r' := arrOf (stopeOf v st) a
      let t := tileOf k (sourceTile w a)
      (a ∈ targets w →
        r'.streams = r.streams ++ [
          { column := column, wide := wideAt r c, accum := mMode w, base := accRowOf k w, crew := ag, tile := sourceTile w a
            rows := t.rows, pitch := pitchOf t.fmt, issue := c, fmt := t.fmt, next := 0 }] ∧
        r'.feedFree = c + t.rows * pitchOf t.fmt ∧
        { r' with streams := [], feedFree := 0, lastCol := 0, lastFwd := 0, stallWeight := 0 } =
          { r with streams := [], feedFree := 0, lastCol := 0, lastFwd := 0, stallWeight := 0 }) ∧
      (a ∉ targets w → r' = r))

/-- From u to v only the crew ports of the named arrays are taken, until cycle n, and their stall figures move. -/
def PortTaken (u v : State) (st : Nat) (w : Word64) (n : Nat) : Prop :=
  OnlyStope u v st ∧
  { stopeOf v st with arr0 := {}, arr1 := {} } = { stopeOf u st with arr0 := {}, arr1 := {} } ∧
  ∀ a, a < 2 → let r := arrOf (stopeOf u st) a
    let r' := arrOf (stopeOf v st) a
    (a ∈ targets w → r'.portFree = n ∧ { r' with portFree := 0, portSince := 0, stallPort := 0 } = { r with portFree := 0, portSince := 0, stallPort := 0 }) ∧
    (a ∉ targets w → r' = r)

/-- R62, R64, R65: ARD reads an accumulator row, as it stood before any write of its cycle, into Vr and Vr+1 four cycles after
issue, AWR writes one two cycles after, ACLR clears N + 1 rows, four a cycle, the first two cycles after; each holds the crew port of
its arrays meanwhile. A row that stays uncorrectable raises STORE_UNCORR and writes no register (R347). -/
def AccumulatorRowsMove : Prop := ∀ (st ag : Nat) (w : Word64) (s : State), ag ≠ 16 →
  let c := atCycle s st ag plain (portFloor (stopeOf s st) w) always
  let u := atIssue s st ag c
  let k := crewOf u st ag
  let row := accRowOf k w
  let a := oneTarget w
  (Issues s st ag w 0x35 → rowWordOk w = true → row < 2048 →
    let v := (accBefore (arrOf (stopeOf u st) a) row c).toNat
    ∃ y, PortTaken u y st w (c + 1) ∧
      (∀ e, e ≠ Ecc.bad → Executes (.ard st ag w e) s st ag c
        (storeRead (startWrites y st ag c [(4, .reg (.v (mVr w)) (v % 2 ^ 4096) (ones 4096)),
          (4, .reg (.v ((mVr w + 1) % 32)) (v / 2 ^ 4096) (ones 4096))]) e) (.seq 1)) ∧
      Executes (.ard st ag w .bad) s st ag c (faultEvent y st ag fcStoreUncorr (accAddr st a row) 0 k.tag k.epoch) (.seq 1)) ∧
  (Issues s st ag w 0x36 → rowWordOk w = true → row < 2048 →
    ∃ y, PortTaken u y st w (c + 1) ∧ Executes (.awr st ag w) s st ag c
      (startWrites y st ag c [(2, .acc a row ((vReg k (mVr w)).toNat + (vReg k ((mVr w + 1) % 32)).toNat * 2 ^ 4096))]) (.seq 1)) ∧
  (Issues s st ag w 0x37 → onlyFields w [pTgt2, pAcc, pMRs, pSa, pN] = true → saOk w = true → mTgt w ≠ 0 → row + mN w < 2048 →
    let n := mN w + 1
    ∃ y, PortTaken u y st w (c + (n + 3) / 4) ∧ Executes (.aclr st ag w) s st ag c
      (startWrites y st ag c ((targets w).flatMap (fun a => (List.range ((n + 3) / 4)).map (fun j =>
        (j + 2, Eff.clear a (row + 4 * j) (min 4 (n - 4 * j))))))) (.seq 1))

/-- R210, R211, R214: HOIST hands its rows over to the stope's hoist queue and goes on; with 16 handed over it waits at issue. -/
def HoistHandsOver : Prop := ∀ (st ag : Nat) (w : Word64) (s : State), ag ≠ 16 →
  let c := atCycle s st ag (fun _ => { xfer := true }) 0 always
  let u := atIssue s st ag c
  let x := stopeOf u st
  let k := crewOf u st ag
  let h := (sReg k (mVr w)).toNat
  Issues s st ag w 0x38 → onlyFields w [pTgt2, pAcc, pMRs, pSa, pVr, pN] = true → saOk w = true → mTgt w ≠ 0 →
  accRowOf k w + mN w < 2048 →
  (x.hoists.length < 16 → ∃ v, Executes (.hoist st ag w) s st ag c v (.seq 1) ∧ OnlyStope u v st ∧
    stopeOf v st = { x with
      hoists := x.hoists ++ [
        { crew := ag, slot := bits h 0 8, q := bits h 8 6, offset := bits h 16 32, rel := max (c + 1) k.relPoint
          arrays := targets w, row := accRowOf k w, rows := mN w + 1, tag := k.tag, seq := x.hoistSeq }]
      hoistSeq := x.hoistSeq + 1 }) ∧
  (16 ≤ x.hoists.length → ∃ t, Gives (.hoist st ag w) s t ∧ WaitsAtIssue s t st ag)

/-- R100, R101: RESULT_READY brings the machine to the ready cycle of an agent's oldest write in flight: it, and everything else of
the stope that is due by then, has landed, and no other stope moves. -/
def ResultReadyLandsTheWrite : Prop := ∀ (st ag c : Nat) (s : State), DueOk (stopeOf s st) →
  leastOf ((crewOf s st ag).pend.map (·.ready)) = some c →
  let k := (stopeOf s st).clk
  let u := advance s (if ag = 16 then c else dueAt k c)
  (ag = 16 ∨ k.stopped = false ∨ c ≤ k.base) →
  ∃ t, Gives (.resultReady st ag) s t ∧ AllLanded t st ∧ t.now = max s.now (if ag = 16 then c else dueAt k c) ∧
    (if ag = 16 then c ≤ t.now ∧ ∀ p ∈ (crewOf t st 16).pend, t.now < p.ready
      else c ≤ cnt (stopeOf t st).clk t.now ∧ ∀ p ∈ (crewOf t st ag).pend, cnt (stopeOf t st).clk t.now < p.ready) ∧
    (∀ st', st' ≠ st → stopeOf t st' = stopeOf u st')

/-- Sums of the q-th accumulator row that a flight writes; none where R48 leaves them unspecified. -/
def rowSums (pl : Plane) (f : Flight) (q : Nat) : Option (List Word32) :=
  if f.column then columnSums pl f else if f.wide then forwardSums pl f (64 * q) 64 else forwardSums pl f 0 256

/-- Accumulator rows that a flight writes: one, or four in the wide-shallow shape (R61). -/
def rowCount (f : Flight) : Nat := if f.column = false ∧ f.wide = true then 4 else 1

/-- R40, R48, R52, R54, R59, R61, R62: a stream row that is alone in flight writes its sums into its accumulator row at its ready
cycle, a wide-shallow one into four of them: added to what stands there with accumulation, in its place without; sums that the spec
leaves unspecified are free values. No other row, stope or byte of memory changes. With more in flight all that is due lands. -/
def StreamRowWritesItsSums : Prop :=
  (∀ (st a : Nat) (f : Flight) (s : State), a < 2 →
    let k := (stopeOf s st).clk
    let u := advance s (dueAt k f.ready)
    let x := stopeOf u st
    let acc := fun (r : Nat) => accRow (arrOf x a) r
    dueList x u.now = [(3 * f.ready + 1, .flight a f)] → dueList (stopeOf s st) s.now = dueList x u.now →
    k.stopped = false → 0 < k.div →
    ∃ t, Gives (.streamRowWrite st a) s t ∧ t.now = max s.now (dueAt k f.ready) ∧ (arrOf (stopeOf t st) a).flights = [] ∧
      (∀ q, q < rowCount f → match rowSums (planeOf (arrOf x a) f.plane) f q with
        | some ys => accRow (arrOf (stopeOf t st) a) (f.row + q) = accumulate f.accum (acc (f.row + q)) ys
        | none => ∃ n, u.freeCtr ≤ n ∧ accRow (arrOf (stopeOf t st) a) (f.row + q) = freeRow { u with freeCtr := n }) ∧
      (∀ r, (r < f.row ∨ f.row + rowCount f ≤ r) → accRow (arrOf (stopeOf t st) a) r = acc r) ∧
      (∀ st', st' ≠ st → stopeOf t st' = stopeOf u st') ∧ t.mem = u.mem) ∧
  (∀ (st a c : Nat) (s : State), a < 2 → DueOk (stopeOf s st) → leastOf (rowReadies (stopeOf s st) a) = some c →
    ((stopeOf s st).clk.stopped = false ∨ c ≤ (stopeOf s st).clk.base) →
    ∃ t, Gives (.streamRowWrite st a) s t ∧ AllLanded t st ∧ c ≤ cnt (stopeOf t st).clk t.now)

/-- R48, R62: the sums of a row whose cells hold a format that does not pair with it are unspecified: its accumulator row takes
free values, 256 of them, in its landing cycle c, and nothing else changes (log 16). -/
def UnpairedRowsAreFree : Prop := ∀ (st a row c : Nat) (accum : Bool) (s : State), a < 2 →
  let t := landSums s st a row c accum none
  t.freeCtr = s.freeCtr + 256 ∧ accRow (arrOf (stopeOf t st) a) row = freeRow s ∧
  (∀ r, r ≠ row → accRow (arrOf (stopeOf t st) a) r = accRow (arrOf (stopeOf s st) a) r) ∧
  { t with stopes := [], freeCtr := 0 } = { s with stopes := [], freeCtr := 0 } ∧
  (∀ st', st' ≠ st → stopeOf t st' = stopeOf s st')

/-- The event of a weight check that fails for good: class 3, of the WLD's crew, with the tile's place (R50, R131, R134). -/
def checkEvent (x : Stope) (st : Nat) (c : WCheck) (code : Nat) : Event :=
  { cls := 3, crew := c.crew, code := code, pc := (agentOf x c.crew).pc, arg := checkAddr st c, tag := c.tag, epoch := c.epoch }

/-- VALID of both captured planes is clear, and the overman has been told with `code` (R50). -/
def CheckFailed (x : Stope) (t : State) (st : Nat) (c : WCheck) (code : Nat) : Prop :=
  (planeOf (stopeOf t st).arr0 c.plane0).valid = false ∧ (planeOf (stopeOf t st).arr1 c.plane1).valid = false ∧
  ((x.events.filter (fun e => decide (e.cls = 3))).length < 64 → (stopeOf t st).events = x.events ++ [checkEvent x st c code])

/-- R49, R50, R96, R347: the due check of a weight tile, as the spec's words are read in log 16. A tile that compares as its sidecar entry says leaves nothing behind; a
mismatch of shape or place clears VALID of both captured planes and raises TILE_MISMATCH, a store word that stays uncorrectable does so
with STORE_UNCORR and marks the WLD's command to end with that code; a bad checksum, or a defect on the way, puts the tile into the check hold, which stops the counted clock. -/
def WeightTilesAreChecked : Prop := ∀ (st : Nat) (glitch : Bool) (c : WCheck) (s : State),
  let u := reachCycle s st c.due
  let x := stopeOf u st
  let v := putStope u st { x with wchecks := x.wchecks.erase c }
  let r := compareTile v st c (loadedBytes (loadOf x c) c)
  firstCheck (stopeOf s st).wchecks = some c → ((stopeOf s st).clk.stopped = false ∨ c.due ≤ (stopeOf s st).clk.base) →
  (c.uncorr = true → ∃ t, Gives (.wldTileCheck st glitch) s t ∧ OnlyStope (markEnd u c.tag c.epoch fcStoreUncorr) t st ∧
    (stopeOf t st).wchecks = x.wchecks.erase c ∧ CheckFailed x t st c fcStoreUncorr) ∧
  (c.uncorr = false →
    (r = .ok → glitch = false → Gives (.wldTileCheck st glitch) s v) ∧
    (r = .mismatch → ∃ t, Gives (.wldTileCheck st glitch) s t ∧ OnlyStope u t st ∧ (stopeOf t st).wchecks = x.wchecks.erase c ∧
      CheckFailed x t st c fcTileMismatch) ∧
    ((r = .badCrc ∨ (r = .ok ∧ glitch = true)) → ∃ t, Gives (.wldTileCheck st glitch) s t ∧ OnlyStope u t st ∧
      stopeOf t st = { x with
        wchecks := x.wchecks.erase c, hold := x.hold ++ [c], holdAt := if x.hold = [] then u.now else x.holdAt
        clk := { base := cnt x.clk u.now, start := u.now, div := x.clk.div, stopped := true } }))

/-- R49, R50, R67, R70: a check hold ends 72 cycles after it began, and the counted clock runs on from where it stopped unless sleep
or a lasting hold stops it. Each tile's rows are rewritten in both captured planes as the re-read at the hold's end finds them (log 16); the re-read of a lone
tile is counted as transient when it compares, as persistent when it does not, and then VALID of the planes is clear and TILE_CHECK
is raised. -/
def CheckHoldEnds : Prop :=
  (∀ (st : Nat) (glitch : Bool) (s : State), let u := advance s ((stopeOf s st).holdAt + 72)
    let x := stopeOf u st
    x.hold ≠ [] → x.clk.stopped = true → (stopeOf s st).hold = x.hold →
    ∃ t, Gives (.wldCheckHoldEnd st glitch) s t ∧ t.now = max s.now ((stopeOf s st).holdAt + 72) ∧ (stopeOf t st).hold = [] ∧
      (stopeOf t st).clk = { x.clk with start := t.now, stopped := x.gated || x.halted } ∧
      (∀ st', st' ≠ st → stopeOf t st' = stopeOf u st')) ∧
  (∀ (st : Nat) (glitch : Bool) (c : WCheck) (s : State), let u := advance s ((stopeOf s st).holdAt + 72)
    let x := stopeOf u st
    let seen := loadedBytes (loadAtOnce x.clk.base (reread u st (fun _ => {}) c)) c
    (stopeOf s st).hold = [c] → x.hold = [c] →
    ∃ t, Gives (.wldCheckHoldEnd st glitch) s t ∧
      (∀ a, a < 2 → let p := if a = 0 then c.plane0 else c.plane1
        (planeOf (arrOf (stopeOf t st) a) p).loads.head? = some (loadAtOnce x.clk.base
          (reread u st (fun i => planeRow (planeOf (arrOf x a) p) i (x.clk.base + 1)) c))) ∧
      (compareTile u st c seen = .ok → glitch = false → (stopeOf t st).wldTransient = satAdd 16 x.wldTransient 1 ∧
        (stopeOf t st).wldPersistent = x.wldPersistent ∧ (stopeOf t st).events = x.events) ∧
      ((compareTile u st c seen ≠ .ok ∨ glitch = true) → (stopeOf t st).wldTransient = x.wldTransient ∧
        (stopeOf t st).wldPersistent = satAdd 8 x.wldPersistent 1 ∧ CheckFailed x t st c fcTileCheck))

/-- R122, R123, R128: with every crew fenced or at rest and no write to the inactive bank in progress a pending swap takes place: the
other bank is active, the fenced crews go on from their resume address and the overman gets an event of class 8. SWAP_CANCEL
withdraws a pending swap: the bank stands and the fenced crews go on past their FENCE. That the resume keeps the crew's loops, and that a
fenced crew which a CRSTOP has yet to stop goes on as far as its PC alone, is the model's reading (log 12). -/
def BanksSwapAtFences : Prop := ∀ (st : Nat) (s : State),
  let u := settle s st
  let x := stopeOf u st
  let noticed := fun (t : State) => ((x.events.filter (fun e => decide (e.cls = 8))).length < 64 →
    (stopeOf t st).events = x.events ++ [{ cls := 8 }])
  let fencedNow := fun (ag : Nat) => shownState (agentOf x ag) u.now = .fenced
  let freed := fun (t : State) (ag : Nat) => if (agentOf x ag).state = .fenced then (crewOf t st ag).state = .running
    else (crewOf t st ag).state = .stopped ∧ (crewOf t st ag).wasState = .running
  x.swapPending = true →
  (swapReady x u.now = true → inactiveWrite u st = false →
    ∃ t, Gives (.bankSwap st) s t ∧ OnlyTraced u t st 2 ∧ noticed t ∧ (stopeOf t st).bank = 1 - x.bank ∧
      (stopeOf t st).swapPending = false ∧ (stopeOf t st).swaps = (x.swaps + 1) % 2 ^ 16 ∧
      ∀ ag, ag < 16 → (fencedNow ag → freed t ag ∧ (crewOf t st ag).pc = (agentOf x ag).fenceTgt ∧
          (crewOf t st ag).loops = (agentOf x ag).loops) ∧
        (¬ fencedNow ag → crewOf t st ag = agentOf x ag)) ∧
  ∃ t, Gives (.swapCancel st) s t ∧ OnlyTraced u t st 2 ∧ noticed t ∧ (stopeOf t st).bank = x.bank ∧
    (stopeOf t st).swapPending = false ∧ (stopeOf t st).cancelled = true ∧ (stopeOf t st).swaps = x.swaps ∧
    ∀ ag, ag < 16 → (fencedNow ag → freed t ag ∧ (crewOf t st ag).pc = (passWord (agentOf x ag) (agentOf x ag).pc).pc) ∧
      (¬ fencedNow ag → crewOf t st ag = agentOf x ag)

/-- R131, R134: with events enabled and an unmasked event pending, a running overman enters the handler of the lowest class: its
PC is 16 times the class, OVM_EPC, OVM_ECAUSE, OVM_EARG and OVM_ETAG say where it was and why, events are disabled, the event is
taken. Crews and all else stand. -/
def OvermanEntersItsHandler : Prop := ∀ (st : Nat) (e : Event) (s : State),
  let o := crewOf s st 16
  let u := settle (advance s o.nextIssue) st
  let x := stopeOf u st
  (stopeOf s st).evOn = true → o.state = .running → nextEvent (stopeOf s st) = some e →
  ∃ t, Gives (.overmanEventEntry st) s t ∧ OnlyStope u t st ∧
    { stopeOf t st with agents := [] } = { x with
      agents := [], events := x.events.erase e, evOn := false, inHandler := true
      epc := BitVec.ofNat 64 (agentOf x 16).pc, ecause := BitVec.ofNat 64 (causeWord e), earg := BitVec.ofNat 64 e.arg
      etag := BitVec.ofNat 64 (e.tag % 2 ^ 32 + e.epoch % 2 ^ 16 * 2 ^ 32) } ∧
    crewOf t st 16 = { agentOf x 16 with pc := 16 * e.cls, ranOff := false } ∧
    (∀ a, a ≠ 16 → crewOf t st a = agentOf x a)

/-- Nothing stands between a write of n bytes at pa and its place: it meets no gob, no granule of a commit region and no snapshot that
is being staged (R279, R280, R379). -/
def Unhindered (u : State) (pa n : Nat) : Prop :=
  u.snap.op ≠ 2 ∧ gobIn u pa n = false ∧ ∀ g ∈ granulesOf u pa n, commitGranule u g.1 (g.2 / 4096 * 4096) = false

/-- The transfer of f's id stands as g in the tram's queue, and every other one as it was. -/
def Becomes (u t : State) (st : Nat) (f g : Xfer) : Prop :=
  (stopeOf t st).queue = (stopeOf u st).queue.map (fun h => if h.id = f.id then g else h)

/-- The transfer has left the tram's queue. -/
def LeavesTram (u t : State) (st : Nat) (f : Xfer) : Prop :=
  (stopeOf t st).queue = (stopeOf u st).queue.filter (fun g => decide (g.id ≠ f.id))

/-- The overman of stope st is told, if its queue of class 3 has room (R131). -/
def TellsOverman (u t : State) (st : Nat) (p : Event → Prop) : Prop :=
  ((stopeOf u st).events.filter (fun e => decide (e.cls = 3))).length < 64 →
  ∃ e, (stopeOf t st).events = (stopeOf u st).events ++ [e] ∧ e.cls = 3 ∧ p e

/-- The device in which a transfer's fault is told: STORE_UNCORR, or any fault of a dispatcher's copy, marks its command to end with
that code (R328, R347). -/
def faultMarked (u : State) (f : Xfer) (code : Nat) : State :=
  if code = fcStoreUncorr ∨ (isTram f = true ∧ f.phys = true) then markEnd u f.tag f.epoch code else u

/-- R95, R121, R146, R152, R157, R158, R164: with a place free and no quiesce the oldest queued transfer starts. A TLD moves at once; a
transfer that writes stored tiles first sends their PRESENT = 0 entries and waits for their acknowledgement; one whose rows all stand
goes on to its end. A TRAM between plain sides moves at once, one into program memory when it is a COPY into the inactive bank and no
swap is pending; a swap that is pending, or the active bank, meets BANK_BUSY; an ill-formed descriptor ends with TRAM_DESC. The moment at
which a destination is held against the program banks is the model's reading (log 14). -/
def TransfersStart : Prop := ∀ (st : Nat) (f : Xfer) (s : State),
  let u := settle s st
  let x := stopeOf u st
  let passes := fun (d : TramDesc) => descBad d = false ∨ f.phys = true
  let fresh := fun (d : TramDesc) => { f with
    crc := if f.next = 0 then shapeCrc (bits d.srcShape.toNat 0 21) else f.crc, dstCrc := if f.next = 0 then dstCrcInit d else f.dstCrc }
  let refused := fun (t : State) (code : Nat) => LeavesTram u t st f ∧ t.mem = u.mem ∧
    TellsOverman u t st (fun e => e.crew = f.crew ∧ e.code = code ∧ e.tag = f.tag)
  x.queue.find? (fun g => !isActive g) = some f → x.quiesce = false → activeCount x < 16 → tramsOff s = false →
  (f.kind = .tld → ∃ t, Gives (.tramTransferStart st) s t ∧ OnlyStope u t st ∧ Becomes u t st f { f with stage := .moving } ∧
    { stopeOf t st with queue := [] } = { x with queue := [] }) ∧
  (∀ recVa pa, f.kind = .tst recVa → f.rows ≤ f.next → entryPa u st f f.va = some pa →
    ∃ t, Gives (.tramTransferStart st) s t ∧ OnlyStope u t st ∧ Becomes u t st f { f with stage := .closing, pa0 := some pa, sentSeq := x.rowSeq }) ∧
  (∀ pas, ((∃ recVa, f.kind = .tst recVa ∧ f.next < f.rows) ∨
      (∃ d, f.kind = .tram d ∧ passes d ∧ (dstBanks u st f d).findSome? id = none ∧ f.srcOk = false ∧ d.dstTiled = true)) →
    f.fault = none → (entryVas f f.next).map (entryPa u st f) = pas.map some → (∀ pa ∈ pas, gobAt u pa = false) →
    ∃ t g, Gives (.tramTransferStart st) s t ∧ OnlyStope u t st ∧ Becomes u t st f g ∧ g.stage = .entry ∧ g.turnTiles = pas ∧
      (pas ≠ [] → g.dstPa0 = pas.getLast?) ∧ g.kind = f.kind ∧ g.next = f.next ∧ g.prog = f.prog ∧ g.fault = none) ∧
  (∀ d, f.kind = .tram d →
    (descBad d = true → f.phys = false → ∃ t, Gives (.tramTransferStart st) s t ∧ refused t fcTramDesc) ∧
    (passes d → f.srcOk = false → d.dstTiled = false → (dstBanks u st f d).findSome? id = none →
      ∃ t, Gives (.tramTransferStart st) s t ∧ OnlyStope u t st ∧ Becomes u t st f { fresh d with stage := .moving }) ∧
    (passes d → f.srcOk = true → (dstBanks u st f d).findSome? id = none →
      ∃ t, Gives (.tramTransferStart st) s t ∧ OnlyStope u t st ∧ Becomes u t st f { fresh d with stage := .closing, sentSeq := x.rowSeq }) ∧
    (∀ p, passes d → (dstBanks u st f d).findSome? id = some p →
      ((d.kind ≠ 0 ∨ ∃ b ∈ dstBanks u st f d, b ≠ some p) → ∃ t, Gives (.tramTransferStart st) s t ∧ refused t fcTramDesc) ∧
      (d.kind = 0 → (∀ b ∈ dstBanks u st f d, b = some p) →
        (((stopeOf u p.1).bank = p.2 ∨ (stopeOf u p.1).swapPending = true) → ∃ t, Gives (.tramTransferStart st) s t ∧
          refused t fcBankBusy ∧ t.cmds = (copyDone (addReport u f.tag 6 st) st f false).cmds) ∧
        ((stopeOf u p.1).bank ≠ p.2 → (stopeOf u p.1).swapPending = false → f.srcOk = false → d.dstTiled = false →
          ∃ t, Gives (.tramTransferStart st) s t ∧ OnlyStope u t st ∧
            Becomes u t st f { fresh d with stage := .moving, progSt := some p.1 }))))

/-- R142, R148, R149, R152, R155, R160, R279: the transfer whose turn it is has its next row translated through the claims and issued: the
row is in flight with its physical ranges, a TST's and a FILL's with its bytes. A part that no claim covers, a destination that may not
be written and a gob leave the fault with which the transfer will be held, and nothing is issued. Whose turn it is, and where a long row
keeps others back, is the model's reading (log 14). -/
def RowsTranslate : Prop := ∀ (st id : Nat) (f : Xfer) (s : State),
  let u := settle s st
  let x := stopeOf u st
  let r := f.next
  let faults := fun (code : Nat) (va : Nat) (wr : Bool) => ∃ t, Gives (.tileRowTranslate st id) s t ∧ OnlyStope u t st ∧
    stopeOf t st = putXfer x { f with fault := some (code, va), faultWr := wr }
  xferOf x id = some f → rowTurn x = some id → tramsOff s = false →
  (∀ va, translateAll x f.phys true false (srcParts f r) = .error va → faults fcClaimFault va false) ∧
  (∀ src va, translateAll x f.phys true false (srcParts f r) = .ok src → translateAll x f.phys false true (dstParts f r) = .error va →
    faults fcClaimFault va true) ∧
  (∀ src dst, translateAll x f.phys true false (srcParts f r) = .ok src → translateAll x f.phys false true (dstParts f r) = .ok dst →
    (f.kind = .tld → r ≠ 0 → f.pa0.isSome = true) →
    ((∃ p ∈ dst, dstAllowed u f p.1 = false) → ∃ va, faults fcClaimFault va true) ∧
    ((∀ p ∈ dst, dstAllowed u f p.1 = true) →
      ((∃ p ∈ dst, gobIn u p.1 p.2 = true) → passesGob u (.tram st) = true → ∃ va, faults fcAddrHole va true) ∧
      ((∀ p ∈ dst, gobIn u p.1 p.2 = false) → ∃ t g h, Gives (.tileRowTranslate st id) s t ∧ OnlyStope u t st ∧
        stopeOf t st = putXfer { x with rowSeq := x.rowSeq + 1, rowTurn := id } g ∧ g.next = r + 1 ∧ g.flying = f.flying ++ [h] ∧
        h.row = r ∧ h.src = src ∧ h.dst = dst ∧ h.seq = x.rowSeq ∧
        (isStore f = true → h.data = (storeRow x f r).1 ∧ tget g.scales 0 r = (storeRow x f r).2) ∧
        (∀ d, f.kind = .tram d → d.kind = 2 →
          h.data = (List.range d.rowBytes).map (fun i => BitVec.ofNat 8 (bits d.srcShape.toNat (8 * (i % 4)) 8))) ∧
        (f.kind = .tld → r = 0 → g.pa0 = src.head?.map (·.1)) ∧
        { g with next := 0, flying := [], scales := [], pa0 := none, dstMark := 0, turnRows := [] } =
          { f with next := 0, flying := [], scales := [], pa0 := none, dstMark := 0, turnRows := [] })))

/-- The state in which a row in flight arrives: what is due at the stopes that it reads has landed (R172). -/
def atArrival (s : State) (st : Nat) (h : XRow) : State :=
  let u := settleBefore s st
  (h.src.filter (fun p => decide (locateStope u p.1 ≠ some st))).foldl (fun s p => settleAddr s p.1) u

/-- A crew's write of this very cycle has landed in the tile register: its bits stand over a TLD row of that cycle (R140). -/
def ownRow (u : State) (st : Nat) (y : Tile) : Bool :=
  counts (stopeOf u st).clk u.now && decide (y.wasAt = cnt (stopeOf u st).clk u.now + 1)

/-- R139, R140, R143, R144: the oldest row of a TLD in flight enters its tile register: payload and scale bytes read at its source
stand in row r, PROG is r + 1, the running CRC takes them in and, after the last row, the scale bytes; the other rows, registers and
crews stand. A register that was taken away stands too. Crew writes of the same cycle stand over it, those that landed before it and those
that land after. -/
def LoadRowsRetire : Prop := ∀ (st id hbm link : Nat) (e : Ecc) (f : Xfer) (h : XRow) (rest : List XRow) (s : State),
  let u := atArrival s st h
  let x := stopeOf (settleBefore s st) st
  let bs := h.src.flatMap (fun p => readBytes u p.1 p.2)
  let g := { f with
    flying := rest, retiredAt := u.now, prog := h.row + 1, crc := crcRun f.crc (bs.take f.len), dstCrc := crcRun f.dstCrc bs
    scales := tset f.scales 0 h.row (BitVec.ofNat 128 (ofBytes (bs.drop f.len))) }
  xferOf x id = some f → f.kind = .tld → f.flying = h :: rest → h.src ≠ [] → rowBehind (settleBefore s st) x h = false →
  (∀ p ∈ h.src, readFault u p.1 p.2 e = none) →
  ∃ v t n, Gives (.tileRowRetire st id ⟨e, hbm, link⟩) s t ∧ t = settle v st ∧ v.mem = u.mem ∧
    (h.row + 1 < f.rows → xferOf (stopeOf v st) id = some { g with sentSeq := n }) ∧
    (f.rows ≤ h.row + 1 → xferOf (stopeOf v st) id = some { g with
      stage := .closing, sentSeq := n, crc := overScales g.crc f.rows (bprOf f) (scaleSource (stopeOf v st) g) }) ∧
    (f.discard = false → let y := tileOf (crewOf v st f.crew) f.tile
      let y0 := tileOf (crewOf u st f.crew) f.tile
      let keep := fun (n : Nat) => if ownRow u st y0 then n else 0
      y.inUse = true ∧
      (∀ r, tget y.data 0 r = if r = h.row then
          BitVec.ofNat 2048 (blend (ofBytes (bs.take f.len)) (tget y0.data 0 r).toNat (keep (tget y0.crewBits 0 r).toNat))
        else tget y0.data 0 r) ∧
      (∀ r, tget y.scale 0 r = if r = h.row ∧ bprOf f ≠ 0 then
          BitVec.ofNat 128 (blend (ofBytes (bs.drop f.len)) (tget y0.scale 0 r).toNat (keep (tget y0.crewScale 0 r).toNat))
        else tget y0.scale 0 r)) ∧
    (f.discard = true → crewOf v st f.crew = crewOf u st f.crew) ∧
    (∀ r, r ≠ f.tile → tileOf (crewOf v st f.crew) r = tileOf (crewOf u st f.crew) r) ∧
    (∀ a, a ≠ f.crew → crewOf v st a = crewOf u st a)

/-- R143, R144: a row of a TST whose destination is a stope store arrives there: its bytes stand, PROG is r + 1, and the crews' registers
are as they were. -/
def StoreRowsRetire : Prop := ∀ (st id a o hbm link : Nat) (recVa : Option Nat) (f : Xfer) (h : XRow) (rest : List XRow) (p : Nat × Nat) (s : State),
  let u := settleBefore s st
  xferOf (stopeOf u st) id = some f → f.kind = .tst recVa → f.flying = h :: rest → h.src = [] → h.dst = [p] →
  h.data.length = p.2 → rowBehind u (stopeOf u st) h = false → locate u p.1 = .store a o → o + p.2 ≤ 2 ^ 24 → h.row + 1 < f.rows →
  ∃ v t n, Gives (.tileRowRetire st id ⟨.clean, hbm, link⟩) s t ∧ t = settle v st ∧
    (∀ i, i < p.2 → byteAt v (p.1 + i) = h.data.getD i 0) ∧
    (∀ q, (q < p.1 ∨ p.1 + p.2 ≤ q) → cellAt v.mem q = cellAt (settle u a).mem q) ∧
    xferOf (stopeOf v st) id = some { f with
      flying := rest, retiredAt := u.now, prog := h.row + 1, crc := crcRun f.crc (h.data.take f.len), dstCrc := crcRun f.dstCrc h.data
      scales := tset f.scales 0 h.row (BitVec.ofNat 128 (ofBytes (h.data.drop f.len))), sentSeq := n } ∧
    (∀ c, crewOf v st c = crewOf (settle u a) st c)

/-- R148, R149, R346, R347: the oldest row in flight of which a read stays uncorrectable leaves its code and the part's address on the
transfer: rows behind it are dropped, and no register and no byte changes. -/
def UncorrectableRowsStop : Prop := ∀ (st id code hbm link : Nat) (e : Ecc) (f : Xfer) (h : XRow) (rest : List XRow) (s : State),
  let u := atArrival s st h
  let x := stopeOf (settleBefore s st) st
  xferOf x id = some f → f.flying = h :: rest → rowBehind (settleBefore s st) x h = false →
  h.src.findSome? (fun p => readFault u p.1 p.2 e) = some code →
  ∃ v t, Gives (.tileRowRetire st id ⟨e, hbm, link⟩) s t ∧ t = settle v st ∧ (code = 0x0302 ∨ code = fcStoreUncorr) ∧
    xferOf (stopeOf v st) id = some { f with
      flying := [], fault := some (code, partVa (srcParts f h.row) h.src (fun p => (readFault u p.1 p.2 e).isSome)), faultWr := false } ∧
    (∀ a, crewOf v st a = crewOf u st a) ∧ v.mem = u.mem

/-- R96, R145, R151, R156: two cycles after the last row of a tile retired it is compared. As its sidecar entry says, a TLD is done. A
mismatch holds the transfer with TILE_MISMATCH and its check flag; a bad checksum, or a defect on the way, sends a TLD back to its first
row once, and the second time holds the transfer with TILE_CHECK. A tile of accumulator memory or a trace ring needs no check. What a
defect on the way leaves in the register is the model's reading (log 14). -/
def LoadedTilesAreChecked : Prop := ∀ (st id : Nat) (glitch : Bool) (f : Xfer) (s : State),
  let u := settle (advance s (f.retiredAt + 2)) st
  let x := stopeOf u st
  let c := checkedTile f
  let r := checkEntry (sideEntry u c.1) c.1 c.2.1 c.2.2.1
  let fails := r = .badCrc ∨ (r = .ok ∧ glitch = true)
  xferOf (stopeOf s st) id = some f → f.stage = .closing → isStore f = false → f.srcOk = false → f.ending = false →
  (uncheckedTile u f = true → f.kind = .tld → ∃ t, Gives (.tldTileCheck st id glitch) s t ∧ OnlyStope u t st ∧
    Becomes u t st f { f with stage := .done }) ∧
  (uncheckedTile u f = false →
    (f.kind = .tld → r = .ok → glitch = false → ∃ t, Gives (.tldTileCheck st id glitch) s t ∧ OnlyStope u t st ∧
      Becomes u t st f { f with retried := false, stage := .done } ∧
      (stopeOf t st).chkTransient = (if f.retried then satAdd 16 x.chkTransient 1 else x.chkTransient)) ∧
    (f.kind = .tld → fails → f.retried = false → ∃ t, Gives (.tldTileCheck st id glitch) s t ∧ OnlyStope u t st ∧
      Becomes u t st f { f with
        stage := .moving, retried := true, next := 0, prog := 0, flying := []
        crc := shapeCrc (tileShape f.rows f.len f.fmt) }) ∧
    ((r = .mismatch ∨ (fails ∧ f.retried = true)) → let code := if r = .mismatch then fcTileMismatch else fcTileCheck
      ∃ t, Gives (.tldTileCheck st id glitch) s t ∧ OnlyTraced (faultMarked u f code) t st 1 ∧ LeavesTram u t st f ∧
        TellsOverman u t st (fun e => e.crew = f.crew ∧ e.code = code ∧ e.tag = f.tag) ∧
        (stopeOf t st).chkMismatch = (if r = .mismatch then satAdd 8 x.chkMismatch 1 else x.chkMismatch) ∧
        (stopeOf t st).chkPersistent = (if r = .mismatch then x.chkPersistent else satAdd 8 x.chkPersistent 1) ∧
        (f.kind = .tld → ∃ h, (tileOf (crewOf t st f.crew) f.tile).held = some h ∧ h.store = false ∧ h.check = true ∧
          h.va = f.va % 2 ^ 57 ∧ h.prog = f.prog ∧ h.code = code) ∧
        (∀ d i, f.kind = .tram d → freeSlot x = some i → ∃ h, tget (stopeOf t st).heldSlots none i = some h ∧ h.check = true ∧
          h.prog = f.prog ∧ h.kind = f.kind)))

/-- R17, R93, R95, R146: with no earlier packet of the tram on its way to the same place the PRESENT = 0 entries land, each with its other
bits as they were, and their acknowledgement lets the payload go; when the last payload write of a TST is acknowledged the complete entry
of its tile is written: PRESENT, the place, the shape tag and the CRC. No other entry of the store changes. -/
def EntriesAreAcknowledged : Prop := ∀ (st id : Nat) (f : Xfer) (s : State),
  let u := settle s st
  let x := stopeOf u st
  xferOf x id = some f → entryBehind u x f = false →
  (f.stage = .entry → f.fault = none → f.turnTiles.length = (entryVas f f.next).length → (∀ pa ∈ f.turnTiles, Unhindered u pa 1) →
    ∃ t, Gives (.sidecarEntryAck st id) s t ∧ Becomes u t st f { f with stage := .moving } ∧
      (∀ pa ∈ f.turnTiles, tileHome u pa = true →
        bit (sideEntry t pa).toNat 55 = false ∧ ∀ b, b ≠ 55 → bit (sideEntry t pa).toNat b = bit (sideEntry u pa).toNat b)) ∧
  (∀ recVa pa, f.ending = false → f.stage = .closing → f.kind = .tst recVa → f.pa0 = some pa → tileHome u pa = true → Unhindered u pa 1 →
    ∃ t, Gives (.sidecarEntryAck st id) s t ∧ Becomes u t st f (if recVa.isSome then { f with stage := .record, sentSeq := x.rowSeq } else { f with stage := .done }) ∧
      sideEntry t pa = entryWord pa (tileShape f.rows f.len f.fmt) (tileCrc f) ∧
      (∀ a o, locate u pa = .store a o → t.mem = u.mem ∧ ∀ b g, (b ≠ a ∨ g ≠ o / 4096) → tget (stopeOf t b).side 0 g = tget (stopeOf u b).side 0 g))

/-- R86 to R88: after the last entry of a TST that names a record, the record of a tile with pending statistics is updated in
place, and the statistics are cleared. Without pending statistics the record stands. A record whose CHECK fails, or that two reads do
not bring, stands with ASSAY_CHECK, one of another format with ASSAY_FORMAT; one whose read stays uncorrectable stands, and the transfer
is held with the read's code (R346, R347). -/
def AssayRecordsUpdate : Prop := ∀ (st id va : Nat) (f : Xfer) (s : State),
  let u := settle s st
  let x := stopeOf u st
  let y := tileOf (agentOf x f.crew) f.tile
  let ends := fun (t : State) => ((stopeOf t st).queue.find? (fun h => decide (h.id = id))).map (·.stage) = some .done
  let refused := fun (t : State) (code : Nat) => ends t ∧ t.mem = u.mem ∧ TellsOverman u t st (fun e => e.crew = f.crew ∧ e.code = code)
  xferOf x id = some f → f.stage = .record → f.kind = .tst (some va) → f.ending = false → entryBehind u x f = false → AllLanded u st →
  (¬(4 ≤ f.fmt ∧ f.fmt ≤ 8) → ∀ g e, ∃ t, Gives (.assayRecordUpdate st id ⟨g, e⟩) s t ∧ refused t fcAssayFormat) ∧
  (4 ≤ f.fmt → f.fmt ≤ 8 →
    (y.pending = false → ∀ g e, ∃ t, Gives (.assayRecordUpdate st id ⟨g, e⟩) s t ∧ OnlyStope u t st ∧ Becomes u t st f { f with stage := .done }) ∧
    (∀ pa e, y.pending = true → va < 2 ^ 57 → translate x va 128 true true = some pa → mayWrite u pa = true → gobAt u pa = false →
      let bs := readBytes u pa 128
      (∀ g code, readFault u pa 128 e = some code → ∃ t, Gives (.assayRecordUpdate st id ⟨g, e⟩) s t ∧ LeavesTram u t st f ∧
        OnlyTraced (faultMarked (readEcc u pa e) f code) t st 1 ∧ TellsOverman u t st (fun v => v.crew = f.crew ∧ v.code = code)) ∧
      (readFault u pa 128 e = none →
      (∀ g, (g = .twice ∨ recordOk bs = false) → ∃ t, Gives (.assayRecordUpdate st id ⟨g, e⟩) s t ∧ refused t fcAssayCheck) ∧
      (∀ g, g ≠ .twice → recordOk bs = true → updateRecord bs f.fmt f.round y = none →
        ∃ t, Gives (.assayRecordUpdate st id ⟨g, e⟩) s t ∧ refused t fcAssayFormat) ∧
      (∀ g r a o, g ≠ .twice → recordOk bs = true → updateRecord bs f.fmt f.round y = some r → locate u pa = .store a o →
        o + 128 ≤ 2 ^ 24 →
        ∃ t, Gives (.assayRecordUpdate st id ⟨g, e⟩) s t ∧ ends t ∧ (∀ i, i < 128 → byteAt t (pa + i) = r.getD i 0) ∧
          (let z := tileOf (crewOf t st f.crew) f.tile
           z.pending = false ∧ z.amax = 0 ∧ z.sat = 0 ∧ z.und = 0 ∧ z.nan = 0 ∧ z.data = y.data ∧ z.rows = y.rows)))))

/-- R147, R326, R328: a done transfer leaves the tram and adds 1 to its stope tally, whose waiters are scanned; a dispatcher's copy of a
program image signals no tally, tells its command, and asks for the swap that its image asks for. -/
def TransfersComplete : Prop := ∀ (st id : Nat) (f : Xfer) (s : State),
  let u := settle s st
  let x := stopeOf u st
  xferOf x id = some f → f.stage = .done → f.ending = false →
  (f.phys = true → ∃ t, Gives (.transferComplete st id) s t ∧ t.cmds = (copyDone u st f true).cmds ∧ t.mem = u.mem ∧
    (stopeOf t st).queue = x.queue.filter (fun g => decide (g.id ≠ id)) ∧
    (stopeOf t st).swapPending = (x.swapPending || f.swapAfter) ∧ (∀ sc n q, tallyOf t sc n q = tallyOf u sc n q)) ∧
  (f.phys = false → ∃ t, Gives (.transferComplete st id) s t ∧ t.now = s.now ∧ OnlyWaits u t ∧ CountsOne u t .stope st f.q ∧
    (stopeOf t st).queue = x.queue.filter (fun g => decide (g.id ≠ id)) ∧
    (stopeOf t st).discarded = (if f.discard = true ∧ f.kind = .tld then satAdd 16 x.discarded 1 else x.discarded) ∧
    (∀ q, q ≠ f.q → tallyOf t .stope st q = tallyOf u .stope st q))

/-- R148, R149, R158, R164, R166: a transfer with a fault and no row in flight is held with the fault's code and PROG, a tile transfer
in its register, a TRAM in the lowest free slot, and the overman gets an event of class 3; a quiesced one is held without an event; one
that a mark has ended leaves without a trace. STORE_UNCORR, and any fault of a dispatcher's copy, marks the command to end with the code
(R328, R347). -/
def FaultedTransfersAreHeld : Prop := ∀ (st id : Nat) (f : Xfer) (s : State),
  let u := settle s st
  let x := stopeOf u st
  let held := fun (t : State) (code : Nat) =>
    (isTram f = false → ∃ h, (tileOf (crewOf t st f.crew) f.tile).held = some h ∧ h.code = code ∧ h.prog = f.prog ∧
      h.va = f.va % 2 ^ 57 ∧ h.crc = f.crc ∧ h.tag = f.tag ∧ h.store = isStore f ∧ h.check = f.check) ∧
    (∀ i, isTram f = true → freeSlot x = some i → ∃ h, tget (stopeOf t st).heldSlots none i = some h ∧ h.prog = f.prog ∧
      h.kind = f.kind ∧ h.tag = f.tag ∧ h.fault.map (·.1) = some code)
  xferOf x id = some f → f.flying = [] → f.stage ≠ .entry →
  (f.ending = true → ∃ t, Gives (.transferHold st id) s t ∧ OnlyStope u t st ∧ stopeOf t st = dropXfer x f.id) ∧
  (f.ending = false → canHold x f = true →
    (∀ code va, f.fault = some (code, va) → code ≠ 0 → ∃ t, Gives (.transferHold st id) s t ∧
      OnlyTraced (faultMarked u f code) t st 1 ∧ LeavesTram u t st f ∧
      held t code ∧
      ((x.events.filter (fun e => decide (e.cls = 3))).length < 64 → (stopeOf t st).events = x.events ++ [
        { cls := 3, crew := f.crew, code := code, pc := (agentOf x f.crew).pc
          extra := if isTram f then (freeSlot x).getD 0 + 16 else tileExtra f f.faultWr
          arg := if isTram f then va % 2 ^ 57 else va % 2 ^ 57 + f.prog % 64 * 2 ^ 57, tag := f.tag, epoch := f.epoch }])) ∧
    (f.fault = none → f.stop = true → f.prog < rowsOf f → f.stage ≠ .closing →
      ∃ t, Gives (.transferHold st id) s t ∧ OnlyTraced u t st 1 ∧ LeavesTram u t st f ∧ held t 0 ∧ (stopeOf t st).events = x.events))
/-- A stope without the claim-fault stall counter of R341, which the work on held transfers may move. -/
def sansClaim (x : Stope) : Stope := { x with trace := { x.trace with claimAt := none, stallClaim := 0 } }

/-- R151, R158, R162, R163: TRM_RESUME puts a held transfer back at the tram's queue, a tile transfer from its register or a TRAM from
its slot, from its row PROG or, with the check flag, as a new one from row 0; TRM_DISCARD drops it and nothing else; either write that
names nothing held sets TRM_ERR and does nothing else, and so does a resume that finds all 64 entries taken, or for a TRAM 16 of them with
TRAMs (the model's choice, log 14). -/
def HeldTransfersResumeOrEnd : Prop := ∀ (st : Nat) (v : Word64) (s : State),
  let u := settle s st
  let x := { stopeOf u st with ctxErr := false, trmErr := false }
  let cr := bits v.toNat 0 4
  let r := bits v.toNat 4 3
  let i := bits v.toNat 8 4
  let slot := tget x.heldSlots none i
  let held := (tileOf (agentOf x cr) r).held
  let y := if bit v.toNat 7 then { x with heldSlots := tset x.heldSlots none i none }
    else modAgent x cr (fun c => modTile c r (fun k => { k with held := none }))
  let named := if bit v.toNat 7 then slot.isSome else held.isSome
  let room := x.queue.length < 64 ∧ (bit v.toNat 7 = true → tramShare x < 16)
  let refused := fun (j : Instr) => ∃ t, Gives j s t ∧ OnlyStope u t st ∧ stopeOf t st = { x with trmErr := true }
  (bits v.toNat 12 2 = 1 → named = true → room →
    ∃ t f, Gives (.trmResume st v) s t ∧ OnlyTraced u t st 1 ∧
      { stopeOf t st with trace := {} } =
        { y with queue := x.queue ++ [f], nextId := x.nextId + 1, resumed := satAdd 16 x.resumed 1, trace := {} } ∧
      f.id = x.nextId ∧ f.stage = .queued ∧ f.flying = [] ∧ f.fault = none ∧ f.stop = false ∧
      (∀ h, bit v.toNat 7 = false → held = some h → f.kind = (if h.store then .tst h.recVa else .tld) ∧ f.crew = cr ∧ f.tile = r ∧
        f.va = h.va ∧ f.q = h.q ∧ f.tag = h.tag ∧ f.rows = h.rows ∧ f.len = h.len ∧ f.fmt = h.fmt ∧ f.discard = h.gone ∧
        f.next = (if h.check then 0 else h.prog) ∧ f.prog = f.next ∧
        f.crc = (if h.check then shapeCrc (tileShape h.rows h.len h.fmt) else h.crc)) ∧
      (∀ g, bit v.toNat 7 = true → slot = some g → f.kind = g.kind ∧ f.crew = g.crew ∧ f.q = g.q ∧ f.tag = g.tag ∧ f.va = g.va ∧
        f.next = (if g.check then 0 else g.prog) ∧ f.prog = f.next ∧ f.check = false ∧
        (∀ d, g.kind = .tram d → f.crc = (if g.check then shapeCrc (bits d.srcShape.toNat 0 21) else g.crc)))) ∧
  (bits v.toNat 12 2 = 2 → named = true →
    ∃ t, Gives (.trmDiscard st v) s t ∧ OnlyStope u t st ∧ sansClaim (stopeOf t st) = sansClaim y) ∧
  (bits v.toNat 12 2 = 1 → named = true → ¬ room → refused (.trmResume st v)) ∧
  (named = false → (bits v.toNat 12 2 = 1 → refused (.trmResume st v)) ∧ (bits v.toNat 12 2 = 2 → refused (.trmDiscard st v)))

/-- R164: a quiesce lets nothing start, tells the active transfers to stop at their next row boundary and holds the queued ones at
once with PROG = 0, tile transfers in their registers and TRAMs in free slots (one without a free slot stays queued: the model's choice,
log 14); its release clears it. -/
def QuiesceStopsTheTram : Prop := ∀ (st : Nat) (s : State),
  let u := settle s st
  let x := stopeOf u st
  ((x.queue.map (·.id)).Nodup → ∃ t, Gives (.tramQuiesce st) s t ∧
    OnlyTraced u t st (x.queue.filter (fun f => !isActive f)).length ∧ (stopeOf t st).quiesce = true ∧ (stopeOf t st).events = x.events ∧
    (∀ f ∈ x.queue, isActive f = true → { f with stop := true } ∈ (stopeOf t st).queue) ∧
    (∀ g ∈ (stopeOf t st).queue, (∃ f ∈ x.queue, isActive f = true ∧ g = { f with stop := true }) ∨
      (g ∈ x.queue ∧ isActive g = false ∧ isTram g = true ∧ freeSlot (stopeOf t st) = none)) ∧
    (∀ f ∈ x.queue, isActive f = false → isTram f = false →
      (∀ g ∈ x.queue, isActive g = false → isTram g = false → g.crew = f.crew → g.tile = f.tile → g = f) →
      ∃ h, (tileOf (crewOf t st f.crew) f.tile).held = some h ∧ h.prog = 0 ∧ h.check = false ∧ h.code = 0 ∧ h.store = isStore f ∧
        h.va = f.va % 2 ^ 57 ∧ h.q = f.q ∧ h.tag = f.tag ∧ h.crc = shapeCrc (tileShape f.rows f.len f.fmt)) ∧
    (∀ f ∈ x.queue, isActive f = false → isTram f = true → f ∈ (stopeOf t st).queue ∨
      ∃ i g, i < 16 ∧ tget x.heldSlots none i = none ∧ tget (stopeOf t st).heldSlots none i = some g ∧ g.id = f.id ∧ g.kind = f.kind ∧
        g.prog = 0 ∧ g.next = 0 ∧ g.tag = f.tag ∧ g.q = f.q)) ∧
  ∃ t, Gives (.quiesceRelease st) s t ∧ OnlyStope u t st ∧ stopeOf t st = { x with quiesce := false }

/-- R165: a context operation starts when no other is under way, the image of its size may stand at OVM_CTX_ADDR and the crew is at
rest with no write and no transfer of its own outstanding; otherwise CTX_ERR is set and nothing starts. -/
def ContextOperationsStart : Prop := ∀ (st : Nat) (v : Word64) (s : State),
  let u := settle s st
  let x := stopeOf u st
  let cr := bits v.toNat 0 4
  let c := agentOf x cr
  let pa := bits x.ctxAddr.toNat 0 48
  let mask := if bit v.toNat 4 then (byteAt u (pa + 7)).toNat else (savedTiles c).foldl (fun m t => m + 2 ^ t) 0
  let may := !x.ctxBusy && ctxHome u st pa (imageLength mask) && atRest c u.now && crewQuiet x cr u.now && noXfers x cr
  let i : Instr := if bit v.toNat 4 then .contextRestore st v else .contextSave st v
  (may = true → ∃ t, Gives i s t ∧ OnlyStope u t st ∧ stopeOf t st = { x with
    ctxErr := false, trmErr := false, ctxBusy := true, ctxOp := some (cr, bit v.toNat 4, pa) }) ∧
  (may = false → ∃ t, Gives i s t ∧ OnlyStope u t st ∧ stopeOf t st = { x with ctxErr := true, trmErr := false })

/-- R165: a finished save leaves the context image at its address, byte by byte, in the stope's store or in HBM; a finished restore
leaves the crew as a sound image says, stopped; an image with another version, another crew or a bad shape sets CTX_ERR and changes no
crew. Memory that does not give the image up (R346, R355) sets CTX_ERR too, with an event of that code, and changes no crew: the model's
choice (log 15). -/
def ContextOperationsFinish : Prop := ∀ (st cr pa : Nat) (e : Ecc) (s : State),
  let u := settle s st
  let x := stopeOf u st
  let c := agentOf x cr
  let img := contextImage c cr u.now
  let bs := readBytes u pa 156928
  let r := readEcc u pa e
  let fails := readFault u pa (field bs 12 4) e
  AllLanded u st →
  (x.ctxOp = some (cr, false, pa) → ctxHome u st pa img.length = true → Unhindered u pa img.length →
    ∃ t, Gives (.contextDone ⟨st, e⟩) s t ∧ (stopeOf t st).ctxBusy = false ∧ (stopeOf t st).ctxOp = none ∧
      (∀ i, i < img.length → byteAt t (pa + i) = img.getD i 0) ∧
      (∀ q, (∀ i, i < img.length → q ≠ homeAddr u (pa + i)) → cellAt t.mem q = cellAt u.mem q) ∧
      (∀ a, crewOf t st a = crewOf u st a)) ∧
  (∀ code, x.ctxOp = some (cr, true, pa) → fails = some code →
    ∃ t, Gives (.contextDone ⟨st, e⟩) s t ∧ OnlyStope r t st ∧ (stopeOf t st).ctxBusy = false ∧ (stopeOf t st).ctxOp = none ∧
      (stopeOf t st).ctxErr = true ∧ (stopeOf t st).agents = x.agents ∧ TellsOverman u t st (fun v => v.crew = cr ∧ v.code = code)) ∧
  (x.ctxOp = some (cr, true, pa) → fails = none → imageBad bs cr = true →
    ∃ t, Gives (.contextDone ⟨st, e⟩) s t ∧ OnlyStope r t st ∧ stopeOf t st = { x with ctxBusy := false, ctxOp := none, ctxErr := true }) ∧
  (x.ctxOp = some (cr, true, pa) → fails = none → imageBad bs cr = false →
    ∃ t, Gives (.contextDone ⟨st, e⟩) s t ∧ OnlyTraced r t st 1 ∧ (stopeOf t st).ctxBusy = false ∧ (stopeOf t st).ctxOp = none ∧
      crewOf t st cr = crewFrom c bs ∧ (let k := crewOf t st cr
        k.state = .stopped ∧ k.pc = field bs 4 2 % 2 ^ 15 ∧ k.tag = field bs 8 4 ∧
        (∀ i, i < 32 → sReg k i = BitVec.ofNat 64 (field bs (0x40 + 8 * i) 8) ∧
          vReg k i = BitVec.ofNat 4096 (field bs (0x500 + 512 * i) 512)) ∧
        (∀ i, i < 8 → pReg k i = BitVec.ofNat 256 (field bs (0x140 + 32 * i) 32))) ∧
      (∀ a, a ≠ cr → crewOf t st a = crewOf u st a))

/-- R337 to R340: OVM_TRACE_ARG takes the argument, and a write of a code from 0x8000 to OVM_TRACE then makes one 32-byte record with
the overman's tag and epoch, the stamp, the round and that argument. It stands at the ring's head, but before the records of its own
cycle with a greater AGENT byte, which move up by one. A full ring in STOP mode, or a full queue of the monitor, loses it. Tracing that is
off, its suppressed class, or a code below 0x8000 has no effect. -/
def SoftwareTraceRecords : Prop := ∀ (st : Nat) (a v : Word64) (s : State),
  let x := stopeOf s st
  let o := agentOf x 16
  let s1 := sysWrite s st 0x31 a.toNat
  let bs := toBytes 4 o.tag ++ toBytes 2 o.epoch ++ toBytes 2 v.toNat ++ toBytes 8 s.now ++ toBytes 6 s.rnd.round ++ [0x10, 0] ++
    toBytes 8 a.toNat
  let now := if x.trace.queuedAt = s.now then x.trace.cycleAgents else []
  let k := (now.filter (fun b => decide (0x10 < b))).length
  let place := fun (j : Nat) => traceAddr st ((x.trace.head + 8192 - k + j) % 8192 * 32)
  let stands := x.trace.queued - 2 * (s.now - x.trace.queuedAt)
  let on := !monitorOff s (stopeLevel st) && bit x.trace.ctl.toNat 0 && !bit x.trace.ctl.toNat 24
  OnlyStope s s1 st ∧ stopeOf s1 st = { x with traceArg := a } ∧
  (0x8000 ≤ v.toNat → v.toNat < 2 ^ 16 → on = true →
    ((bit x.trace.ctl.toNat 1 = true ∨ x.trace.sinceClear < 8192) → stands < 18 → now.length < 8192 →
      ∃ t, Gives (.ovmTrace st v) s1 t ∧ OnlyTraced s1 t st 1 ∧
        stopeOf t st = { x with traceArg := a, trace := { x.trace with
          head := (x.trace.head + 1) % 8192, count := x.trace.count + 1, sinceClear := x.trace.sinceClear + 1
          queued := stands + 1, queuedAt := s.now, cycleAgents := 0x10 :: now } } ∧
        (∀ i, i < 32 → cellAt t.mem (place 0 + i) = bs.getD i 0) ∧
        ∀ j i, j < k → i < 32 → cellAt t.mem (place (j + 1) + i) = byteAt s (place j + i)) ∧
    (((bit x.trace.ctl.toNat 1 = false ∧ 8192 ≤ x.trace.sinceClear) ∨ 18 ≤ stands) →
      ∃ t, Gives (.ovmTrace st v) s1 t ∧ OnlyStope s1 t st ∧
        stopeOf t st = { x with traceArg := a, trace := { x.trace with lost := satAdd 32 x.trace.lost 1 } })) ∧
  ((v.toNat < 0x8000 ∨ 2 ^ 16 ≤ v.toNat ∨ on = false) → Gives (.ovmTrace st v) s1 s1)

/-- R339, R340: TRACE_CLEAR starts the ring again: TRC_HEAD reads 0, and no other register of the ring changes. The records that the
monitor has still to write stand from the ring's first place on and count (log 48); with none of those no record is touched. -/
def TraceRingsClear : Prop := ∀ (st : Nat) (s : State),
  let x := stopeOf s st
  let n := traceUnwritten x.trace s.now
  let old := fun (j : Nat) => traceAddr st ((x.trace.head + 8192 - n + j) % 8192 * 32)
  levelHeld s (stopeLevel st) = false →
  ∃ t, Gives (.traceClear st) s t ∧ { t with stopes := [], mem := [] } = { s with stopes := [], mem := [] } ∧
    (∀ st', st' ≠ st → stopeOf t st' = stopeOf s st') ∧
    stopeOf t st = { x with trace := { x.trace with head := n, sinceClear := n, cycleAgents := (agentsNow x.trace s.now).take n } } ∧
    (n ≤ 8192 → ∀ j i, j < n → i < 32 → byteAt t (traceAddr st (32 * j) + i) = byteAt s (old j + i)) ∧
    (∀ pa, (pa < traceAddr st 0 ∨ traceAddr st 0 + 32 * n ≤ pa) → cellAt t.mem pa = cellAt s.mem pa)

/-- R134: a SYSWR followed by a SYSRD finds what the register keeps of the value: OVM_EPC 15 bits, OVM_EVMASK its maskable
classes, OVM_CTX_ADDR 48 bits, OVM_TRACE_ARG all; OVM_STATUS takes its two mode bits; a read-only register stands. That a SYSWR writes at
its issue is the model's reading (log 12). -/
def SystemRegistersReadBack : Prop := ∀ (st v : Nat) (s : State), v < 2 ^ 64 →
  sysRead (sysWrite s st 0x01 v) st 0x01 = v % 2 ^ 15 ∧ sysRead (sysWrite s st 0x05 v) st 0x05 = bits v 2 14 * 4 ∧
  sysRead (sysWrite s st 0x22 v) st 0x22 = v % 2 ^ 48 ∧ sysRead (sysWrite s st 0x31 v) st 0x31 = v ∧
  bits (sysRead (sysWrite s st 0x00 v) st 0x00) 0 2 = bits v 0 2 ∧
  ∀ n, (n ∈ [0x02, 0x03, 0x04, 0x06, 0x07, 0x08, 0x24] ∨ (0x10 ≤ n ∧ n < 0x20)) → sysWrite s st n v = s
/-- R171, R173 to R175: at its release point the oldest signal of each listed agent leaves, with every write that the point covers landed,
and its tally takes in the cycle's signals: the additions summed, which saturate, then the subtractions, which stop at 0, then, when
anything was added, one scan. No other tally changes, and no crew but for its wait; where the signals name one tally, the crews that the
scan frees are released. -/
def SignalsReachTallies : Prop := ∀ (agents : List (Nat × Nat)) (s : State),
  let r := takeSignals agents s.signals
  let due := r.1.foldl (fun m g => max m (signalTime s g)) 0
  let u := (r.1.map (·.st)).eraseDups.foldl settle { advance s due with signals := r.2 }
  let meets := fun (sc : Scope) (unit num : Nat) (g : Signal) => g.sc = sc ∧ g.unit = unit ∧ g.num = num
  r.1 ≠ [] → (∀ g ∈ r.1, signalDue s g = true ∧ (g.sc = .device → g.unit = 0)) →
  ∃ t, Gives (.tsigEffect agents) s t ∧ t.now = max s.now due ∧ t.signals = r.2 ∧ OnlyWaits u t ∧
    ∀ sc unit num, (sc = .device → unit = 0) → let x := tallyOf s sc unit num
      let y := tallyOf t sc unit num
      let n := fun (sub : Bool) => ((r.1.filter (fun g => decide (meets sc unit num g) && (g.sub == sub))).map (·.n)).sum
      let up := min (x.count + n false) (2 ^ 32 - 1)
      let e := if 0 < n false then scan (up - n true) false x.waiters else (up - n true, x.waiters, [])
      ((∀ g ∈ r.1, ¬ meets sc unit num g) → y = x) ∧
      ((∃ g ∈ r.1, meets sc unit num g) → Fresh x t.now → y.count = e.1 ∧ y.waiters = e.2.1 ∧ y.base = x.base ∧
        y.sat = (x.sat || decide (2 ^ 32 ≤ x.count + n false)) ∧ y.under = (x.under || decide (up < n true)) ∧
        ((∀ g ∈ r.1, meets sc unit num g) → (x.waiters.map (fun w => (w.st, w.cr))).Nodup → ∀ w p, w ∈ e.2.2 →
          (crewOf u w.st w.cr).wait = some p →
          ∃ d, t.now < d ∧ (crewOf t w.st w.cr).wait = some { p with phase := .released, due := d }))

/-- R178, R179: an addition past 2^32 - 1 leaves the tally at 2^32 - 1 with SAT set, a subtraction below 0 leaves it at 0 with
UNDER set, and the flag's event stands due for the end of the cycle. -/
def TalliesSaturate : Prop := ∀ (g : Signal) (s : State),
  let x := tallyOf s g.sc g.unit g.num
  s.signals.find? (fun h => decide (h.st = g.st ∧ h.ag = g.ag)) = some g → signalDue s g = true → x.waiters = [] → 0 < g.n →
  Fresh x (max s.now (signalTime s g)) →
  (g.sub = false → 2 ^ 32 ≤ x.count + g.n → ∃ t, Gives (.tsigEffect [(g.st, g.ag)]) s t ∧ (g.sc, g.unit, g.num) ∈ t.flagsDue ∧
    (tallyOf t g.sc g.unit g.num).count = 2 ^ 32 - 1 ∧ (tallyOf t g.sc g.unit g.num).sat = true) ∧
  (g.sub = true → x.count < g.n → ∃ t, Gives (.tsigEffect [(g.st, g.ag)]) s t ∧ (g.sc, g.unit, g.num) ∈ t.flagsDue ∧
    (tallyOf t g.sc g.unit g.num).count = 0 ∧ (tallyOf t g.sc g.unit g.num).under = true)

/-- R174, R175: what a scan conserves: the takes it releases are exactly what the count loses, the waiters that stay and those
released are the ones that were there, in their order, and a take that stays blocks every younger take. -/
def ScanServesOldestTakesFirst : Prop := ∀ (n : Nat) (ws : List Waiter),
  let r := scan n false ws
  r.1 + ((r.2.2.filter (·.take)).map (·.n)).sum = n ∧
  (r.2.1 ++ r.2.2).Perm ws ∧ r.2.1.Sublist ws ∧ r.2.2.Sublist ws ∧
  (r.2.1.filter (·.take)).head?.all (fun w => decide (r.1 < w.n)) = true ∧
  (ws.filter (·.take)).take (r.2.2.filter (·.take)).length = r.2.2.filter (·.take)

/-- R170, R173, R174, R183: a wait arrives the cycle after its issue at the earliest and after the earlier signals of its crew. A wait for
0 is released on arrival; any other takes its place by age in its tally's list, which is scanned: it is released or listed. A satisfied
wait does not let its crew issue before its scope's latency. -/
def WaitsArrive : Prop := ∀ (st cr : Nat) (w : Wait) (s : State),
  let u := advance s (w.issued + 1)
  let x := tallyOf s w.sc w.unit w.num
  let me : Waiter := { st := st, cr := cr, n := w.n, take := w.take, arrived := u.now }
  let e := scan x.count false (insertWaiter me x.waiters)
  let served := some { w with phase := .released, due := max (u.now + 1) (w.issued + satisfiedLatency w.sc) }
  (crewOf s st cr).wait = some w → w.phase = .travelling → signalAhead s st cr w = false →
  (w.n = 0 → ∃ t, Gives (.tallyWaitArrival st cr) s t ∧ OnlyStope u t st ∧ OnlyWaits u t ∧ (crewOf t st cr).wait = served ∧
    tallyOf t w.sc w.unit w.num = x ∧ ∀ a, a ≠ cr → crewOf t st a = crewOf u st a) ∧
  (0 < w.n → Fresh x u.now → (∀ v ∈ x.waiters, ¬(v.st = st ∧ v.cr = cr)) →
    ∃ t, Gives (.tallyWaitArrival st cr) s t ∧ t.now = u.now ∧ OnlyWaits u t ∧
      (tallyOf t w.sc w.unit w.num).count = e.1 ∧ (tallyOf t w.sc w.unit w.num).waiters = e.2.1 ∧
      (tallyOf t w.sc w.unit w.num).sat = x.sat ∧ (tallyOf t w.sc w.unit w.num).under = x.under ∧
      (me ∈ e.2.2 → (crewOf t st cr).wait = served) ∧ (me ∉ e.2.2 → (crewOf t st cr).wait = some { w with phase := .listed }))

/-- R124, R177, R181, R183: when its release has come back the released crew runs again past its TTAKE or TWATCH, its wait over, its stope
awake, and issues the cycle after at the earliest. Its registers and the other crews stand. -/
def ReleasedCrewsRun : Prop := ∀ (st cr : Nat) (w : Wait) (s : State),
  let u := settle (advance s w.due) st
  let c := crewOf s st cr
  let rest := fun (k : Crew) => { k with
    state := .running, wait := none, pc := 0, ranOff := false, loops := [], nextIssue := 0, stallTally := 0 }
  c.wait = some w → w.phase = .released → c.stopping = false → c.state = .waiting →
  ∃ t, Gives (.waiterRelease st cr) s t ∧ OnlyTraced u t st 1 ∧ (stopeOf t st).gated = false ∧
    (let k := crewOf t st cr
     let d := crewOf u st cr
     k.state = .running ∧ k.wait = none ∧ k.pc = (passWord d d.pc).pc ∧ k.loops = (passWord d d.pc).loops ∧
     k.ranOff = (passWord d d.pc).ranOff ∧ k.nextIssue = max d.nextIssue (cnt (stopeOf t st).clk t.now + 1) ∧ rest k = rest d) ∧
    ∀ a, a ≠ cr → crewOf t st a = crewOf u st a

/-- R128, R176: the withdrawal reaches the block the cycle after its CRSTOP at the earliest. A wait that is listed, or that this very
cycle's scan would free, leaves its tally's list before the scan; one that the block had released earlier stands; one still on its way
is met by it. With the answer the crew reads as stopped, at its wait when it was withdrawn and past it when the take stands. -/
def WithdrawalsStopCrews : Prop := ∀ (st cr : Nat) (w : Wait) (s : State),
  let c := crewOf s st cr
  let u := advance s (c.stopAt - 3)
  let z := settle (advance s (max c.stopAt (c.stopAt - 4 + satisfiedLatency w.sc))) st
  let x := tallyOf s w.sc w.unit w.num
  let mine := fun (v : Waiter) => decide (v.st = st) && decide (v.cr = cr)
  c.wait = some w → c.stopping = true →
  (w.phase = .travelling → ∃ t, Gives (.waitWithdrawal st cr) s t ∧ OnlyStope u t st ∧
    (crewOf t st cr).wait = some { w with phase := .withdrawn } ∧ ∀ a, a ≠ cr → crewOf t st a = crewOf u st a) ∧
  (w.phase = .listed → Fresh x u.now → x.waiters.any mine = true →
    ∃ t, Gives (.waitWithdrawal st cr) s t ∧ OnlyWaits u t ∧ (crewOf t st cr).wait = some { w with phase := .withdrawn } ∧
      (tallyOf t w.sc w.unit w.num).waiters = x.waiters.filter (fun v => !mine v) ∧ (tallyOf t w.sc w.unit w.num).count = x.count) ∧
  (∀ v, w.phase = .listed ∨ w.phase = .released → x.visit = some v → v.cycle = u.now → (v.waiters ++ v.joined).any mine = true →
    ∃ t, Gives (.waitWithdrawal st cr) s t ∧ OnlyWaits u t ∧ (crewOf t st cr).wait = some { w with phase := .withdrawn } ∧
      (let o := outcomeOf { v with gone := v.gone ++ [(st, cr)] }
       (tallyOf t w.sc w.unit w.num).count = o.count ∧ (tallyOf t w.sc w.unit w.num).waiters = o.left) ∧
      (tallyOf t w.sc w.unit w.num).waiters.any mine = false) ∧
  (w.phase = .released → (∀ v, x.visit = some v → v.cycle = u.now → (v.waiters ++ v.joined).any mine = false) →
    ∃ t, Gives (.waitWithdrawal st cr) s t ∧ OnlyStope u t st ∧ (crewOf t st cr).wait = some { w with phase := .stands } ∧
      tallyOf t w.sc w.unit w.num = x ∧ ∀ a, a ≠ cr → crewOf t st a = crewOf u st a) ∧
  (w.phase = .withdrawn ∨ w.phase = .stands → ∃ t, Gives (.withdrawalAnswer st cr) s t ∧
    OnlyTraced z t st 1 ∧ (crewOf t st cr).state = .stopped ∧ (crewOf t st cr).wait = none ∧
    (crewOf t st cr).stopping = false ∧ (crewOf t st cr).pc = (if w.phase = .stands then (passWord c c.pc).pc else c.pc) ∧
    (∀ a, a ≠ cr → crewOf t st a = crewOf z st a))

/-- R127, R180: a present stope whose crews all rest or wait on level or device tallies goes to sleep when that has held for 16 cycles:
its counted clock stands still, and its agents and all else stand. -/
def StopesSleep : Prop := ∀ (st : Nat) (s : State),
  let x := stopeOf s st
  let u := settle (advance s (x.awakeAt + 16)) st
  let rest := fun (x : Stope) => { x with gated := false, gatedAt := 0, trace := {}, clk := {}, holdCyc := 0, holdSince := 0, holdCount := 0 }
  mayGate x = true → x.gated = false → stopeAbsent s st = false →
  ∃ t, Gives (.stopeSleep st) s t ∧ OnlyTraced u t st 1 ∧ t.now = max s.now (x.awakeAt + 16) ∧
    (stopeOf t st).gated = true ∧ (stopeOf t st).gatedAt = t.now ∧
    (∀ n, cnt (stopeOf t st).clk n = cnt (stopeOf u st).clk u.now) ∧ rest (stopeOf t st) = rest (stopeOf u st)

/-- R173, R178: a write of a count sets it, raises no flag, and lets the block scan when the count rose; a number that names no tally
writes nothing, and so does one whose block is held in reset or unpowered (R37, R403, R411; logs 1 and 29). -/
def CountWritesSet : Prop := ∀ (sc : Scope) (unit num : Nat) (v : Word32) (s : State),
  let x := tallyOf s sc unit num
  let e := if x.count < v.toNat then scan v.toNat false x.waiters else (v.toNat, x.waiters, [])
  (unit < tallyUnits sc → num < tallyCount sc → tallyLive s sc unit = true → Fresh x s.now → ∃ t, Gives (.tallyCountWrite sc unit num v) s t ∧ t.now = s.now ∧
    OnlyWaits s t ∧ (let y := tallyOf t sc unit num
      y.count = e.1 ∧ y.waiters = e.2.1 ∧ y.sat = x.sat ∧ y.under = x.under ∧ y.base = x.base) ∧ t.flagsDue = s.flagsDue ∧
    (∀ q, q ≠ num → tallyOf t sc unit q = tallyOf s sc unit q)) ∧
  (¬(unit < tallyUnits sc ∧ num < tallyCount sc ∧ tallyLive s sc unit = true) → Gives (.tallyCountWrite sc unit num v) s s)

/-! ### Hoists -/

/-- R211, R212, R213, R347: at its release point the oldest HOIST of a stope is read once and stope tally Q counts it: its segments set
out for the home hoist, or, where the store's words stay uncorrectable, STORE_UNCORR is raised and none does. A HOIST of no slot loaded
for its command raises HOIST_SLOT, one past the reduction's elements HOIST_RANGE; either reads nothing and signals nothing. The rows are read as they stood before any write of the read's cycle (R65); where
the slot's command is looked for is the model's reading (log 22). -/
def HoistSegmentsAreRead : Prop := ∀ (st : Nat) (ecc : Ecc) (o : HoistOp) (rest : List HoistOp) (s : State),
  let u := reachCycle s st o.rel
  let x := stopeOf u st
  let y := slotOf (hoistOf u (stopeLevel st)) o.slot
  let refused := fun (code : Nat) => ∃ t, Gives (.hoistSegmentRead st ecc) s t ∧ (stopeOf t st).hoists = rest ∧
    (stopeOf t st).segments = x.segments ∧ (stopeOf t st).tallies = x.tallies ∧ t.mem = u.mem ∧
    TellsOverman u t st (fun e => e.crew = o.crew ∧ e.code = code ∧ e.tag = o.tag)
  (stopeOf s st).hoists = o :: rest → tramsOff s = false →
  ((stopeOf s st).clk.stopped = false ∨ o.rel ≤ (stopeOf s st).clk.base) →
  (homeOf u (stopeLevel st) o.slot o.tag = none → refused fcHoistSlot) ∧
  (homeOf u (stopeLevel st) o.slot o.tag ≠ none → y.entry.elems < 256 * (o.offset + o.rows * o.arrays.length) →
    0 < o.offset + o.rows * o.arrays.length → refused fcHoistRange) ∧
  (homeOf u (stopeLevel st) o.slot o.tag ≠ none → 256 * (o.offset + o.rows * o.arrays.length) - 1 < y.entry.elems →
    ∃ t, Gives (.hoistSegmentRead st ecc) s t ∧ t.now = u.now ∧ (stopeOf t st).hoists = rest ∧ t.mem = u.mem ∧
      CountsOne u t .stope st o.q ∧ (∀ q, q ≠ o.q → tallyOf t .stope st q = tallyOf u .stope st q) ∧
      (stopeOf t st).segments = x.segments ++ (if ecc = .bad then [] else segmentsOf u st y o) ∧
      (ecc = .bad → TellsOverman u t st (fun e => e.crew = o.crew ∧ e.code = fcStoreUncorr ∧ e.tag = o.tag)) ∧
      (ecc ≠ .bad → OnlyWaits u t ∧ (stopeOf t st).events = x.events))

/-- R213, R215, R224: the oldest segment for a home hoist leaves for its slot: it joins the local contributions in the order of addition
while the windows suffice and waits otherwise, after the deadline its rows are taken without being added and counted late, and one whose
reduction has ended is dropped. Nothing else changes but what a change of its hoist brings with it: stall figures and credits (R216,
R231). What of a hoist waits where is the model's reading (log 22). -/
def LocalContributionsArrive : Prop := ∀ (n st : Nat) (g : Segment) (s : State),
  let h := hoistOf s n
  let x := slotOf h g.slot
  let ours := x.loaded = true ∧ x.tag = g.tag ∧ x.entry.id = g.id ∧ x.round = g.round
  let need := ((segSlices h g).filter (fun i => !(openSlices h x).contains i)).length
  let taken := modStope s st (fun y => { y with segments := (stopeOf s st).segments.erase g })
  let arrives := fun (v : State) => Gives (.localContribution n st) s (recountHoist v n)
  (stopeOf s st).segments.find? (fun g => decide (g.home = n)) = some g →
  (¬ ours → arrives taken) ∧
  (ours → pastD s x = true → arrives (modHoist taken n (fun h => { h with lateLocal := satAdd 16 h.lateLocal g.rows.length }))) ∧
  (ours → pastD s x = false →
    (need ≤ windowsFree h → arrives (modHoist taken n (fun h => putSlot h g.slot { x with segs := insertSeg g x.segs }))) ∧
    (windowsFree h < need → arrives s))

/-- The results and the record of the reduction in slot x meet no hole, no gob and nothing that is saved or staged first (R279, R280,
R379, R428). -/
def ResultLands (s : State) (h : Hoist) (x : HSlot) : Prop := ∀ a n,
  ((x.entry.recPa ≤ a ∧ a + n ≤ x.entry.recPa + (resultRecord s h x).length) ∨
    (x.entry.dst ≤ a ∧ a + n ≤ x.entry.dst + 4 * sliceElems h * sliceCount h x.entry + 16384)) →
  refusedWrite s .hoist a n = false ∧ Unhindered s a n

/-- R216, R218, R223, R224, R227, R244, R249: a slice that arrives whole on a live port, for this device and with a window free, is
acknowledged. One seen before is counted as a duplicate and used no more; a partial of the loaded reduction stands in its slice, or is
counted late; the result phase finishes its slice and, with the last of them, the reduction: DONE is signalled and the slot is free; a
slice of a round not over whose slot is not loaded for it waits; any other is counted late. A copy that fails its CRC or LEN is asked for
once more, and after a second failure counts as never arrived. What a Vigil lane or a foreign device carries is discarded; with no window
free, or on a dead port, nothing arrives (the model's choice, logs 1, 22). -/
def SlicesArrive : Prop := ∀ (n port fails : Nat) (m : SliceMsg) (s : State),
  let h := hoistOf s n
  let x := slotOf h m.slot
  let v := tget x.slices {} m.idx
  let key := sliceKey port m
  let got := { h with
    rx := h.rx + b2n (!monitorOff s n) * payloadLen m, granted := tset h.granted 0 port (tget h.granted 0 port - 1), asked := h.asked.erase key }
  let come := modHoist s n (fun _ => got)
  let acked := hoistCtl come port (.sliceAck port m.id m.idx)
  let arrives := fun (u : State) => Gives (.slice n port m fails) s (recountHoist u n)
  let stands := fun (g : Hoist) => arrives (modHoist acked n (fun _ => { g with seen := h.seen ++ [key] }))
  let current := x.loaded = true ∧ x.entry.id = m.id ∧ x.round = m.round
  m.home = n → m.kind < 3 →
  (carries (portOf s port) = false → Gives (.slice n port m fails) s s) ∧
  (carries (portOf s port) = true →
    (turnedAway s port (decide (m.dst = s.fabId)) = true → Gives (.slice n port m fails) s (discardMsg s port)) ∧
    (turnedAway s port (decide (m.dst = s.fabId)) = false →
      (windowsFree h = 0 → Gives (.slice n port m fails) s s) ∧
      (0 < windowsFree h →
        (fails = 0 → h.asked.contains key = false → sliceSound m = true → m.len ≤ 4 * sliceElems h →
          (h.seen.contains key = true → arrives (modHoist acked n (fun _ => { got with dup := satAdd 16 h.dup 1 }))) ∧
          (h.seen.contains key = false →
            (current → sliceCount h x.entry ≤ m.idx → stands got) ∧
            (current → m.idx < sliceCount h x.entry → m.kind = 0 →
              (partialLate s x port m.idx s.rnd.round s.now = true → stands { got with latePartial := satAdd 16 h.latePartial 1 }) ∧
              (partialLate s x port m.idx s.rnd.round s.now = false → stands (putSlot got m.slot { x with
                slices := tset x.slices {} m.idx { v with
                  partials := v.partials ++ [{ port := port, count := m.count, roster := m.roster, data := m.data, hops := m.hops }] } }))) ∧
            (current → m.idx < sliceCount h x.entry → m.kind ≠ 0 →
              (v.finished = true → stands got) ∧
              (v.finished = false → ResultLands s h x → ∃ t, Gives (.slice n port m fails) s t ∧ let y := slotOf (hoistOf t n) m.slot
                let last := (List.range (sliceCount h x.entry)).all (fun i => decide (i = m.idx) || (tget x.slices {} i).finished)
                (last = true → y.loaded = false ∧ CountsOne s t .device 0 x.entry.done) ∧
                (last = false → y.loaded = true ∧ y.entry = x.entry ∧ y.segs = x.segs ∧
                  (let w := tget y.slices {} m.idx
                   w.finished = true ∧ w.forwarded = true ∧ w.count = m.count ∧ w.roster = m.roster) ∧
                  ∀ i, i ≠ m.idx → tget y.slices {} i = tget x.slices {} i))) ∧
            (¬ current → precedesRound m.round s.rnd.round = false → ¬(x.loaded = true ∧ x.entry.id = m.id ∧ precedesRound m.round x.round = true) →
              stands { got with early := h.early ++ [(port, m, s.rnd.round, s.now)] }) ∧
            (¬ current → (precedesRound m.round s.rnd.round = true ∨ (x.loaded = true ∧ x.entry.id = m.id ∧ precedesRound m.round x.round = true)) →
              stands { got with latePartial := satAdd 16 h.latePartial 1 }))) ∧
        (fails = 0 → h.asked.contains key = false → sliceSound m = false → m.len ≤ 4 * sliceElems h →
          arrives (modHoist (hoistCtl come port (.sliceAgain port m.id m.idx)) n (fun _ => { got with
            asked := key :: got.asked, granted := tset got.granted 0 port (tget got.granted 0 port + 1) }))) ∧
        (2 ≤ fails + b2n (h.asked.contains key) + b2n (!sliceSound m) ∨ 4 * sliceElems h < m.len →
          ∃ t, Gives (.slice n port m fails) s t ∧ (hoistOf t n).chkFailed = satAdd 8 h.chkFailed 1 ∧ (hoistOf t n).seen = h.seen ∧
            (hoistOf t n).slots = h.slots ∧ (hoistOf t n).early = h.early))))

/-- R216, R217, R221, R225 to R227: with its contribution and partials in, or their times past, a slice that is not at its root goes
toward it: formed once, against a credit it is queued at its path's port with the neighbour's identifier, its length and CRC, and kept
until it is acknowledged; without one it waits (the model's choice, logs 1 and 22). At the root it is finished, with the sum's COUNT and ROSTER. A ring of NODE_TREE that
ends here fixes its sum for the tree. -/
def SlicesGoForward : Prop := ∀ (n k i : Nat) (s : State),
  let h := hoistOf s n
  let x := slotOf h k
  let f := formSlice s n k i
  let gone := modHoist s n (fun h => putSlot h k { x with
    slices := tset x.slices {} i { tget x.slices {} i with forwarded := true } })
  tramsOff s = false →
  (mayEndRing s n k i = false → mayForward s n k i = true →
    (∀ p, (pathOf x.entry i).out = some p →
      let port := portOf s p
      let m := { f with
                      deadline := if port.gen = 3 then f.deadline else 0, dst := port.partner, src := s.fabId
                      ttl := Config.hopTtl.toNat, len := payloadLen f, crc := sliceCrc f }
      (maySend s n p = true → h.waiting.all (fun w => decide (w.1 ≠ p)) = true → Gives (.sliceForward n k i) s (recountHoist
        (queueItem (modHoist gone n (fun g => { g with
            credits := tset g.credits 0 p (tget g.credits 0 p - 1), unacked := g.unacked ++ [(p, m)]
            tx := g.tx + b2n (!monitorOff s n) * payloadLen f, sent := g.sent + b2n (!monitorOff s n) })) p
          { vc := 2, out := .slice p m, flits := flitsOf (64 + m.rlen + m.len)
            due := if m.deadline = 0 then none else some (m.round, m.deadline) }) n)) ∧
      ((maySend s n p = false ∨ h.waiting.any (fun w => decide (w.1 = p)) = true) → Gives (.sliceForward n k i) s (recountHoist
        (modHoist gone n (fun g => { g with waiting := g.waiting ++ [(p, f)] })) n))) ∧
    ((pathOf x.entry i).out = none → ResultLands s h x → ∃ t, Gives (.sliceForward n k i) s t ∧ let y := slotOf (hoistOf t n) k
      let last := (List.range (sliceCount h x.entry)).all (fun j => decide (j = i) || (tget x.slices {} j).finished)
      (last = true → y.loaded = false ∧ CountsOne s t .device 0 x.entry.done) ∧
      (last = false → y.loaded = true ∧ y.entry = x.entry ∧ (let w := tget y.slices {} i
        w.finished = true ∧ w.forwarded = true ∧ w.count = f.count ∧ w.roster = f.roster) ∧
        ∀ j, j ≠ i → tget y.slices {} j = tget x.slices {} j))) ∧
  (∀ r, mayEndRing s n k i = true → nodeStage x.entry i = some r →
    let v := tget x.slices {} i
    let ended := modHoist s n (fun h => putSlot h k { x with slices := tset x.slices {} i { v with
      node := some (joinPartials (ownPart h x i) (v.partials.filter (fun p => r.expect.contains p.port))) } })
    mayForward ended n k i = false → Gives (.sliceForward n k i) s ended) ∧
  (mayEndRing s n k i = false → mayForward s n k i = false → Gives (.sliceForward n k i) s s)

/-- R216, R222, R231: a credit is counted, and sends the oldest slice that waits for it; an acknowledgement frees the sender's copy;
a cutoff marks its slice, at the root of a NODE_TREE ring that of the ring stage first; the window size changes only while no slot is
loaded and no window in use, and a reserved size, or a level held in reset, has no effect. What a Vigil lane carries is discarded (logs
1, 22 and 29 hold the model's choices). -/
def HoistControl : Prop := ∀ (n : Nat) (s : State),
  let h := hoistOf s n
  (∀ port, carries (portOf s port) = true →
    (turnedAway s port true = true → Gives (.sliceCredit n port) s (discardMsg s port) ∧
      ∀ id idx, Gives (.sliceAck n port id idx) s (discardMsg s port)) ∧
    (turnedAway s port true = false → tramsOff s = true → Gives (.sliceCredit n port) s
      (modHoist s n (fun h => { h with credits := tset h.credits 0 port (tget h.credits 0 port + 1) }))) ∧
    (turnedAway s port true = false → tramsOff s = false →
      (h.waiting.find? (fun w => decide (w.1 = port)) = none → Gives (.sliceCredit n port) s (recountHoist
        (modHoist s n (fun h => { h with credits := tset h.credits 0 port (tget h.credits 0 port + 1) })) n)) ∧
      (∀ w, h.waiting.find? (fun w => decide (w.1 = port)) = some w → tget h.credits 0 port = 0 → carriesType (portOf s port) 0x10 = true →
        Gives (.sliceCredit n port) s (recountHoist (launchSlice (modHoist s n (fun h => { h with
          credits := tset h.credits 0 port 1, waiting := h.waiting.erase w })) n port w.2) n))) ∧
    (turnedAway s port true = false → ∀ id idx w, h.unacked.find? (fun w => decide (w.1 = port ∧ w.2.id = id ∧ w.2.idx = idx)) = some w →
      Gives (.sliceAck n port id idx) s (recountHoist (modHoist s n (fun h => { h with unacked := h.unacked.erase w })) n))) ∧
  (∀ k i, let x := slotOf h k
    let v := tget x.slices {} i
    x.loaded = true → x.entry.timed = true → x.round = s.rnd.round → i < sliceCount h x.entry →
    (∀ r, v.nodeCut = false → nodeStage x.entry i = some r → Gives (.sliceCutoff n k i) s (recountHoist
      (modHoist (advance s (cutoffTime s x r.hops)) n (fun h => putSlot h k { x with
        slices := tset x.slices {} i { v with nodeCut := true } })) n)) ∧
    ((v.nodeCut = true ∨ nodeStage x.entry i = none) → Gives (.sliceCutoff n k i) s (recountHoist
      (modHoist (advance s (cutoffTime s x (pathOf x.entry i).hops)) n (fun h => putSlot h k { x with
        slices := tset x.slices {} i { v with cut := true } })) n))) ∧
  (∀ v : Word32, levelHeld s n = true → Gives (.hstWinCfgWrite n v) s s) ∧
  (∀ v : Word32, n < 8 → levelHeld s n = false →
    ((slotsLoaded h ≠ 0 ∨ windowsUsed h ≠ 0) → Gives (.hstWinCfgWrite n v) s (modHoist s n (fun h => { h with cfgIgn := true }))) ∧
    (slotsLoaded h = 0 → windowsUsed h = 0 → bits v.toNat 0 3 < 5 →
      Gives (.hstWinCfgWrite n v) s (recountHoist (modHoist s n (fun h => { h with size := bits v.toNat 0 3 })) n)) ∧
    (slotsLoaded h = 0 → windowsUsed h = 0 → 5 ≤ bits v.toNat 0 3 → Gives (.hstWinCfgWrite n v) s s))

/-- R216, R231: what a change of a hoist brings with it: the free windows that have no credit yet are granted to the ports that carry
slices, once the device has an identifier (R244); of its level nothing else changes but the stall figures and what it held with ports that carry none; nothing changes but that,
ports and what leaves by them. -/
def CreditsAreGranted : Prop := ∀ (n : Nat) (s : State),
  let t := recountHoist s n
  let h := hoistOf t n
  let before := ((hoistOf s n).granted.filter (fun e => takesType (portOf s e.1) 0x10)).foldl (fun k e => k + e.2) 0
  (keysAbove none (hoistOf s n).granted = true → (∃ p, p < 12 ∧ takesType (portOf s p) 0x10 = true) → s.fabId ≠ 0xFFF →
    h.granted.foldl (fun k e => k + e.2) 0 = max before (windowsFree h)) ∧
  (s.fabId = 0xFFF → h.granted = (hoistOf s n).granted.filter (fun e => takesType (portOf s e.1) 0x10)) ∧
  { sansStall h with credits := [], granted := [], waiting := [], unacked := [] } =
    { sansStall (hoistOf s n) with credits := [], granted := [], waiting := [], unacked := [] } ∧
  { levelOf t n with hoist := {} } = { levelOf s n with hoist := {} } ∧ (∀ k, k ≠ n → levelOf t k = levelOf s k) ∧
  t.mem = s.mem ∧ t.stopes = s.stopes ∧ t.now = s.now ∧ t.cmds = s.cmds ∧ t.devTallies = s.devTallies
/-! ### Rounds -/

/-- R276, R277: an armed mark of the round in progress fires at its phase, one whose point has passed in the cycle after it was armed, and
is free again. It adds 1 to its level tally or its device tally, or takes its deadline's reductions past D; nothing else changes. One not
armed, or of a round to come, does not fire (logs 1 and 17). -/
def MarksFire : Prop := ∀ (n k : Nat) (s : State),
  let m := tget (levelOf s n).marks {} k
  let u := advance s (max (m.armedAt + 1) (if m.round = s.rnd.round then phaseTime s m.phase else 0))
  let fired := fun (t : State) => Gives (.markFire n k) s t ∧ t.now = u.now ∧
    (levelOf t n).marks = tset (levelOf u n).marks {} k { m with armed := false, fired := true } ∧
    { levelOf t n with marks := [], tallies := [], hoist := {} } = { levelOf u n with marks := [], tallies := [], hoist := {} } ∧
    (∀ j, j ≠ n → levelOf t j = levelOf u j) ∧ OnlyWaits u t
  ((m.armed = false ∨ s.rnd.round < m.round) → Gives (.markFire n k) s s) ∧
  (m.armed = true → m.round ≤ s.rnd.round →
    (m.action = 1 → ∃ t, fired t ∧ CountsOne u t .level n m.tally ∧ (∀ q, q ≠ m.tally → tallyOf t .level n q = tallyOf u .level n q) ∧
      (∀ q, tallyOf t .device 0 q = tallyOf u .device 0 q) ∧ hoistOf t n = hoistOf u n) ∧
    (m.action = 2 → ∃ t, fired t ∧ CountsOne u t .device 0 m.tally ∧
      (∀ q, q ≠ m.tally → tallyOf t .device 0 q = tallyOf u .device 0 q) ∧ levelOf t n = { levelOf u n with marks := (levelOf t n).marks }) ∧
    (m.action = 3 → keysAbove none (hoistOf u n).slots = true → ∃ t, fired t ∧ t.devTallies = u.devTallies ∧
      ∀ j, let x := slotOf (hoistOf u n) j
        slotOf (hoistOf t n) j = { x with late := x.late ||
          (x.loaded && x.entry.timed && decide (x.round + x.entry.dlRound = m.round ∧ x.entry.dlPhase = m.phase)) }))

/-- R275: the release mark of the round fires at its phase, once, while the round clock runs (R403, R411; log 1). -/
def ReleaseMarkFires : Prop := ∀ (s : State),
  let u := advance s (phaseTime s s.rnd.relNs)
  (s.rnd.released = false → aonOn s = true → Gives .releaseMark s { u with rnd := { s.rnd with
    released := true, releasedTo := some (max s.rnd.round (s.rnd.releasedTo.getD 0)) } }) ∧
  ((s.rnd.released = true ∨ aonOn s = false) → Gives .releaseMark s s)

/-- R278, R282, R286, R289, R299: at the commit mark the device decides: it commits unless a main command of the round is unfinished, a
gob was full for the round, the host asked to drop it or a quench fell into it. The decision stands in RND_LAST with its reasons, is
counted and goes out to the blocks; the commit regions are due, and take effect at once when the round commits and no backfill runs, and
a snapshot that awaits this decision starts (R378). In safe halt, once decided, or without a round clock nothing is decided (log 1); the density that the decision clears, and that a round is decided once, are the
model's readings (logs 17, 41). -/
def CommitMarkDecides : Prop := ∀ (s : State),
  let u := advance s (phaseTime s s.rnd.comNs)
  let n := s.rnd.round
  let unfin := s.cmds.any (blocksCommit n)
  let full := s.rnd.fullRounds.contains n
  let commit := !(unfin || full || s.rnd.dropReq || s.rnd.quenched)
  let flags := b2n commit + 2 * b2n unfin + 4 * b2n full + 8 * b2n s.rnd.quenched + 16 * b2n s.rnd.dropReq
  (s.rnd.decided = false → s.flt.safeHalt = false → aonOn s = true →
    ∃ t, Gives .commitMark s t ∧ t.now = max s.now (phaseTime s s.rnd.comNs) ∧ t.rnd = { s.rnd with
      decided := true, decidedTo := some (max n (s.rnd.decidedTo.getD 0))
      notices := s.rnd.notices ++ [{ round := n, commit := commit, flags := flags }]
      last := BitVec.ofNat 64 (n % 2 ^ 48 + flags * 2 ^ 48), commits := s.rnd.commits + b2n commit, drops := s.rnd.drops + b2n (!commit)
      lastCommit := if commit then n else s.rnd.lastCommit, dropReq := false
      fullRounds := s.rnd.fullRounds.filter (fun k => decide (k ≠ n)), backfill := s.rnd.backfill || !commit
      dueBase := s.rnd.cregBase, dueSize := s.rnd.cregSize
      liveBase := if commit && !s.rnd.backfill then s.rnd.cregBase else s.rnd.liveBase
      liveSize := if commit && !s.rnd.backfill then s.rnd.cregSize else s.rnd.liveSize } ∧
    t.nrg = { u.nrg with short := false, density := 0 } ∧ t.snap = (beginStaging { u with rnd := t.rnd }).snap ∧
    t.stopes = u.stopes ∧ t.levels = u.levels ∧ t.stackTab = u.stackTab ∧ t.cmds = u.cmds ∧ t.devTallies = u.devTallies) ∧
  ((s.rnd.decided = true ∨ s.flt.safeHalt = true ∨ aonOn s = false) → Gives .commitMark s s)

/-- R282, R299: DROP_CURRENT before the decision makes the round drop; after it, or without a round clock, nothing changes (logs 1 and
17). -/
def DropCurrentDrops : Prop := ∀ (s : State),
  (s.rnd.decided = false → aonOn s = true → Gives .dropCurrent s { s with rnd := { s.rnd with dropReq := true } }) ∧
  ((s.rnd.decided = true ∨ aonOn s = false) → Gives .dropCurrent s s) ∧
  (s.rnd.decided = false → s.flt.safeHalt = false → aonOn s = true →
    ∃ t u v, Gives .dropCurrent s t ∧ Gives .commitMark t u ∧ u.rnd.notices = s.rnd.notices ++ [v] ∧ v.round = s.rnd.round ∧
      v.commit = false)

/-- The oldest decision whose notice has not reached block b. -/
def nextNotice (s : State) (b : Block) : Option Notice := s.rnd.notices.find? (fun v => !v.reached.contains b)

/-- R188, R280, R283, R284: a commit notice reaches each block once, the notices in their order, as the block's cycle ends. At a stack the
granules saved for its round leave the gob, but for those that await a backfill, and memory stands; at a stope the overman gets an event of class 6 and the
bases of its tallies take their counts; so they do at a level, whose reductions of the round end and whose early slices are orphans, and
at a headframe. What a notice of a round ahead of the current one means is the model's reading (log 45), and so is that a block without
one due is left alone (log 1). -/
def CommitNoticesReach : Prop := ∀ (b : Block) (s : State),
  (nextNotice s b = none → Gives (.commitNotice b) s s ∧ Gives (.dropNotice b) s s) ∧
  (∀ v, nextNotice s b = some v → v.commit = false → Gives (.commitNotice b) s s) ∧
  (∀ v, nextNotice s b = some v → v.commit = true → isBlock b = true →
    let n := v.round
    let u := endCycle s
    let reached := { u.rnd with notices := markReached v b u.rnd.notices }
    Gives (.dropNotice b) s s ∧
    (∀ k, b = .stack k → ∃ t, Gives (.commitNotice b) s t ∧ t.rnd = reached ∧ { t with rnd := {}, stackTab := [] } = { u with rnd := {}, stackTab := [] } ∧
      (let x := stackOf u k
       let y := { x with
         committed := if n ≤ u.rnd.round then some (max n (x.committed.getD 0)) else x.committed
         saved := x.saved.filter (fun g => decide (g.round ≠ n) || x.drops.contains g.round) }
       stackOf t k = if x.drops = [] ∧ y.saved = [] then { y with gobBase := x.gobBaseNew, gobCap := x.gobCapNew } else y) ∧
      ∀ j, j ≠ k → stackOf t j = stackOf u j) ∧
    (∀ st, b = .stope st → tabWf ({} : Tally) (stopeOf u st).tallies = true → victims u n = [] →
      ∃ t, Gives (.commitNotice b) s t ∧ OnlyTraced { u with rnd := reached } t st 1 ∧
        (∀ q, tallyOf t .stope st q = { tallyOf u .stope st q with base := (tallyOf u .stope st q).count }) ∧
        (((stopeOf u st).events.filter (fun e => decide (e.cls = 6))).length < 64 →
          (stopeOf t st).events = (stopeOf u st).events ++ [{ cls := 6 }])) ∧
    (∀ m, b = .level m → tabWf ({} : Tally) (levelOf u m).tallies = true → keysAbove none (hoistOf u m).slots = true → victims u n = [] →
      ∃ t, Gives (.commitNotice b) s t ∧ t.rnd = reached ∧
        (∀ q, tallyOf t .level m q = { tallyOf u .level m q with base := (tallyOf u .level m q).count }) ∧
        (∀ k, (slotOf (hoistOf t m) k).loaded = true → n < (slotOf (hoistOf t m) k).round) ∧ (hoistOf t m).early = [] ∧
        (hoistOf t m).orphan = satAdd 16 (hoistOf u m).orphan (hoistOf u m).early.length ∧ t.mem = u.mem ∧ t.cmds = u.cmds) ∧
    (∀ h, b = .head h → tabWf ({} : Tally) u.devTallies = true → victims u n = [] →
      ∃ t, Gives (.commitNotice b) s t ∧ t.rnd = reached ∧ { t with rnd := {}, devTallies := [] } = { u with rnd := {}, devTallies := [] } ∧
        ∀ q, tallyOf t .device 0 q =
          if headOf q = h then { tallyOf u .device 0 q with base := (tallyOf u .device 0 q).count } else tallyOf u .device 0 q))

/-- R188, R284, R285: a drop notice reaches a stack: its round is due for backfill; a stope: its overman gets an event of class 6, and
no crew there works any more for a command of the round that it ended; the first headframe: those commands that are still open end as
dropped. The backfill, once the dropped rounds' writes have come, writes every granule saved for them back with its entry, the oldest
save last, and the gob lets them go; with every stack done the dropped rounds are over, the regions due take effect and a snapshot that
awaits this starts (R378). What the gob keeps of whom is the model's reading (log 45). -/
def DropsAreBackfilled : Prop := ∀ (k : Nat) (s : State), let u := endCycle s
  (∀ v, nextNotice s (.stack k) = some v → v.commit = false → k < 16 →
    ∃ t, Gives (.dropNotice (.stack k)) s t ∧ t.rnd = { u.rnd with notices := markReached v (.stack k) u.rnd.notices } ∧
      { t with rnd := {}, stackTab := [] } = { u with rnd := {}, stackTab := [] } ∧
      stackOf t k = { stackOf u k with
        drops := if (stackOf u k).drops.contains v.round then (stackOf u k).drops else (stackOf u k).drops ++ [v.round] } ∧
      (∀ j, j ≠ k → stackOf t j = stackOf u j)) ∧
  (∀ st v, nextNotice s (.stope st) = some v → v.commit = false → st < 160 → isReserved s st = false →
    ∃ t, Gives (.dropNotice (.stope st)) s t ∧ t.rnd = { u.rnd with notices := markReached v (.stope st) u.rnd.notices } ∧
      (∀ c a, c ∈ victims u v.round → bit c.desc.target st = true → a < 16 → worksFor c (crewOf t st a) = true →
        (crewOf t st a).state = .idle) ∧
      (((stopeOf u st).events.filter (fun e => decide (e.cls = 6))).length < 64 → { cls := 6 } ∈ (stopeOf t st).events)) ∧
  (∀ v c, nextNotice s (.head 0) = some v → v.commit = false → (u.cmds.map (·.order)).Nodup → c ∈ victims u v.round → unfinished c = true →
    ∃ t, Gives (.dropNotice (.head 0)) s t ∧ Ended t c 2 0 s.now) ∧
  (∀ b, nextNotice s b = none → Gives (.dropNotice b) s s) ∧
  (let x := stackOf s k
   let mine := x.saved.filter (fun v => x.drops.contains v.round)
   let gob := fun (v : Saved) (j : Nat) => cellAt s.mem (hbmAddr k (x.gobBase + 4096 * v.slot + j))
   let entry := fun (v : Saved) (j : Nat) => cellAt s.mem (hbmAddr k (x.gobBase + 4096 * x.gobCap + 16 * v.slot + 8 + j))
   k < 16 → x.drops ≠ [] → tramsOff s = false → s.snap.op ≠ 2 → x.drops.any (writesLeft s) = false → x.gobBase + gobSpan x.gobCap ≤ dataEnd s k →
   (∀ v ∈ mine, v.slot < x.gobCap ∧ v.offset % 4096 = 0 ∧ v.offset + 4096 ≤ dataEnd s k ∧
     (v.offset + 4096 ≤ x.gobBase ∨ x.gobBase + gobSpan x.gobCap ≤ v.offset)) →
   ∃ t, Gives (.backfill k) s t ∧ (stackOf t k).drops = [] ∧ (stackOf t k).saved = x.saved.filter (fun v => !x.drops.contains v.round) ∧
     (∀ j, j ≠ k → stackOf t j = stackOf s j) ∧ t.stopes = s.stopes ∧ t.rnd = s.rnd ∧
     (∀ v ∈ mine, mine.find? (fun w => decide (w.offset = v.offset)) = some v →
       (∀ j, j < 4096 → cellAt t.mem (hbmAddr k (v.offset + j)) = gob v j) ∧
       ∀ j, j < 8 → cellAt t.mem (hbmAddr k (stackData + v.offset / 4096 * 8 + j)) = entry v j) ∧
     (∀ a, (∀ v ∈ mine, (a < hbmAddr k v.offset ∨ hbmAddr k v.offset + 4096 ≤ a) ∧
         (a < hbmAddr k (stackData + v.offset / 4096 * 8) ∨ hbmAddr k (stackData + v.offset / 4096 * 8) + 8 ≤ a)) →
       cellAt t.mem a = cellAt s.mem a)) ∧
  (let allDone := ∀ j, j < 16 → (stackOf s j).drops = [] ∧ ∀ v ∈ s.rnd.notices, v.commit = true ∨ v.reached.contains (.stack j) = true
   (s.rnd.backfill = true → allDone → Gives .backfillDone s (beginStaging { s with rnd := { s.rnd with
      backfill := false, liveBase := s.rnd.dueBase, liveSize := s.rnd.dueSize } })) ∧
   ((s.rnd.backfill = false ∨ ¬ allDone) → Gives .backfillDone s s))

/-- R268, R271, R273, R275, R276, R281, R287: a round ends after its length and the next begins at that phase: its number, its length
and phases from the registers where they keep the rule, nothing released or decided that has not fired before, the budget latched where
it is new, nothing spent. A round that was not decided is decided first. Without a round clock no round starts (R403, R411; log 1); that a
round's marks never fire twice is read from R271 (log 17). -/
def RoundsStart : Prop := ∀ (s : State),
  let r := s.rnd
  let n := (match r.setRound with | some x => if r.source = 0 then r.round + 1 else x | none => r.round + 1) % 2 ^ 48
  let len := if r.source = 0 then r.lenUs else r.lenNew
  let fresh := r.setRound.isSome ∧ r.source ≠ 0
  let still := fun (done : Bool) (upTo : Option Nat) => if done then upTo else some (max r.round (upTo.getD 0))
  let before := fun (upTo : Option Nat) => match upTo with | some m => decide (n ≤ m) | none => false
  (aonOn s = false → Gives .roundStart s s) ∧
  (aonOn s = true → ∃ t, Gives .roundStart s t ∧ t.now = max s.now (phaseTime s (roundNs s)) ∧ t.rnd.round = n ∧
    t.rnd.origin = r.origin + (roundNs s : Int) ∧ t.rnd.lenUs = len ∧
    t.rnd.released = (if fresh then false else before (still r.released r.releasedTo)) ∧
    t.rnd.decided = (if fresh then false else before (still (r.decided || s.flt.safeHalt) r.decidedTo)) ∧
    (r.release < r.commit → r.commit < len → t.rnd.relNs = r.release * 1000 ∧ t.rnd.comNs = r.commit * 1000 ∧ t.rnd.phaseIgn = r.phaseIgn) ∧
    (¬(r.release < r.commit ∧ r.commit < len) → t.rnd.relNs = 0 ∧ t.rnd.comNs = (len - 1) * 1000 ∧ t.rnd.phaseIgn = true) ∧
    t.rnd.quenched = false ∧ t.rnd.gobFull = t.rnd.fullRounds.contains n ∧
    (r.decided = false → s.flt.safeHalt = false → ∃ v, t.rnd.notices = r.notices ++ [v] ∧ v.round = r.round) ∧
    ((r.decided = true ∨ s.flt.safeHalt = true) → t.rnd.notices = r.notices) ∧
    t.nrg.spent = 0 ∧ t.nrg.budget = (if s.nrg.budgetNew then s.nrg.budgetNext else s.nrg.budget) ∧ t.nrg.lastBudget = s.nrg.budget)

/-- R278, R279: a write of a commit region or gob register that keeps the rules stands in the register; one that breaks them
leaves it and sets CREG_IGN or GOB_IGN. With the headframes unpowered nothing changes (R403; log 1). Against which regions and gobs a
write is held is the model's reading (log 45). -/
def RegionAndGobWrites : Prop := ∀ (r k : Nat) (v : Word64) (s : State),
  let bases := tset s.rnd.cregBase 0 r (BitVec.ofNat 64 (v.toNat % 2 ^ 48 + v.toNat / 2 ^ 63 % 2 * 2 ^ 63))
  let sizes := tset s.rnd.cregSize 0 r (BitVec.ofNat 64 (v.toNat % 2 ^ 40))
  let ignored := { s with rnd := { s.rnd with gobIgn := true } }
  (headsUp s = false → ∀ b, Gives (.commitRegionWrite r b v) s s ∧ Gives (.gobRegisterWrite k b v) s s) ∧ (headsUp s = true →
  (r < 16 → Gives (.commitRegionWrite r false v) s (if regionsOk s bases s.rnd.cregSize
    then { s with rnd := { s.rnd with cregBase := bases } } else { s with rnd := { s.rnd with cregIgn := true } })) ∧
  (r < 16 → Gives (.commitRegionWrite r true v) s (if regionsOk s s.rnd.cregBase sizes
    then { s with rnd := { s.rnd with cregSize := sizes } } else { s with rnd := { s.rnd with cregIgn := true } })) ∧
  (k < 16 → gobOk s k (v.toNat % 2 ^ 36) (stackOf s k).gobCapNew = true → ∃ t, Gives (.gobRegisterWrite k false v) s t ∧
    { t with stackTab := [] } = { s with stackTab := [] } ∧ stackOf t k = { stackOf s k with gobBaseNew := v.toNat % 2 ^ 36 } ∧
    ∀ j, j ≠ k → stackOf t j = stackOf s j) ∧
  (k < 16 → gobOk s k (v.toNat % 2 ^ 36) (stackOf s k).gobCapNew = false → Gives (.gobRegisterWrite k false v) s ignored) ∧
  (k < 16 → gobOk s k (stackOf s k).gobBaseNew (v.toNat % 2 ^ 21) = true → ∃ t, Gives (.gobRegisterWrite k true v) s t ∧
    { t with stackTab := [] } = { s with stackTab := [] } ∧ stackOf t k = { stackOf s k with gobCapNew := v.toNat % 2 ^ 21 } ∧
    ∀ j, j ≠ k → stackOf t j = stackOf s j) ∧
  (k < 16 → gobOk s k (stackOf s k).gobBaseNew (v.toNat % 2 ^ 21) = false → Gives (.gobRegisterWrite k true v) s ignored))

/-- R279, R280, R281: the first write of a round to a commit granule by a tram, a hoist or a sieve saves it: the gob holds the granule's
bytes and its sidecar entry as they stood, and the write lands. With the gob full the write is not made, the round will drop and a tram's
overman is told. A write to another granule, or to one already saved, just lands; one into a gob is refused: it changes no byte, and
ADDR_HOLE goes to a tram's overman, or ends the command of a hoist or a sieve (R30; the model's choice, log 13). -/
def StackWritesSaveGranules : Prop := ∀ (who : Writer) (tag rnd k o : Nat) (b : Byte) (s : State),
  let pa := hbmAddr k o
  let x := stackOf s k
  let g := o / 4096 * 4096
  let i := freePlace x
  let due := commitGranule s k g && !afterCommit x rnd && !x.saved.any (fun v => decide (v.offset = g ∧ v.round = rnd))
  passesGob s who = true → k < 16 → o < dataEnd s k → s.snap.op ≠ 2 → headsUp s = true →
  (gobIn s pa 1 = true →
    (∀ st, who = .tram st → ∃ t, Gives (.stackWrite who ⟨tag, rnd⟩ pa [b]) s t ∧ t.mem = s.mem ∧ t.cmds = s.cmds ∧
      TellsOverman s t st (fun e => e.code = fcAddrHole ∧ e.tag = tag)) ∧
    ((who = .hoist ∨ who = .sieve) → Gives (.stackWrite who ⟨tag, rnd⟩ pa [b]) s (failCommand s tag fcAddrHole))) ∧
  (gobIn s pa 1 = false → due = false → ∃ t, Gives (.stackWrite who ⟨tag, rnd⟩ pa [b]) s t ∧ byteAt t pa = b ∧
    (stackOf t k).saved = x.saved ∧ (∀ a, a ≠ pa → cellAt t.mem a = cellAt s.mem a) ∧ t.stopes = s.stopes) ∧
  (due = true → (∀ j, j < 4096 → inGob s k (g + j) = false) → gobIn s pa 1 = false → x.saved.length < x.gobCap →
    ∃ t, Gives (.stackWrite who ⟨tag, rnd⟩ pa [b]) s t ∧ byteAt t pa = b ∧
      (stackOf t k).saved = x.saved ++ [{ slot := i, offset := g, round := rnd }] ∧
      (∀ j, j < 4096 → cellAt t.mem (hbmAddr k (x.gobBase + 4096 * i + j)) = cellAt s.mem (hbmAddr k (g + j))) ∧
      (∀ j, j < 8 → cellAt t.mem (hbmAddr k (x.gobBase + 4096 * x.gobCap + 16 * i + 8 + j)) =
        (toBytes 8 (sideEntry s (hbmAddr k g)).toNat).getD j 0) ∧
      (∀ j, j < 4096 → j ≠ o % 4096 → cellAt t.mem (hbmAddr k (g + j)) = cellAt s.mem (hbmAddr k (g + j))) ∧
      t.stopes = s.stopes) ∧
  (due = true → gobIn s pa 1 = false → x.gobCap ≤ x.saved.length → ∃ t, Gives (.stackWrite who ⟨tag, rnd⟩ pa [b]) s t ∧ t.mem = s.mem ∧
    t.rnd = { s.rnd with
      gobFull := s.rnd.gobFull || decide (rnd = s.rnd.round)
      fullRounds := if s.rnd.fullRounds.contains rnd then s.rnd.fullRounds else rnd :: s.rnd.fullRounds } ∧
    (∀ st, who = .tram st → TellsOverman s t st (fun e => e.code = fcGobFull ∧ e.tag = tag)))

/-- R252 to R255, R271 to R274, R287: a beacon on the cadence port is answered with PRESENCE. With the device its own source it is not
taken; a backward one is counted; one of the round in progress corrects the phase by slewing up to 1 µs and by one step beyond, one of a
later round moves to it and counts the rounds between. A missing edge is counted once a round and the third in a row raises CADENCE_LOST
and free running. ROUND_IN aligns the phase near a boundary and ends the round elsewhere; it is not looked at by another source or within
1 µs of the last. How the phase is trimmed, which round an edge near a boundary belongs to, and that nothing is looked at without a round
clock, is the model's choice (logs 1 and 17). -/
def CadenceIsKept : Prop := ∀ (p : Nat) (b : Beacon) (s : State),
  let r := s.rnd
  let held := r.origin - slewed r s.now - trimmed r s.now
  let err := ((b.elapsed + (portOf s p).delay : Nat) : Int) - phaseAt r s.now
  (cadencePort s ≠ some p → Gives (.beacon p b) s s) ∧
  (cadencePort s = some p → carries (portOf s p) = true →
    (r.source ≠ 0 → ∃ t, Gives (.beacon p b) s t ∧ t.rnd = r ∧ t.presences = (s.presences + 1) % 2 ^ 32 ∧ t.mem = s.mem ∧
      (Clear (portOf s p) → ∃ d, t.out = .presence p d :: s.out)) ∧
    (r.source = 0 → r.acceptAny = false →
      (beaconRound s b < (r.round : Int) → ∃ t, Gives (.beacon p b) s t ∧ t.mem = s.mem ∧
        t.rnd = { r with backward := satAdd 8 r.backward 1 } ∧ t.presences = (s.presences + 1) % 2 ^ 32) ∧
      (beaconRound s b = (r.round : Int) → b.lenUs = r.lenUs → ∃ t, Gives (.beacon p b) s t ∧ t.rnd.round = r.round ∧
        t.rnd.locked = true ∧ t.rnd.freeRun = false ∧ t.rnd.missed = 0 ∧ t.rnd.lastBeacon = some s.now ∧ t.rnd.seen = some r.round ∧
        t.rnd.lenNew = b.lenUs ∧
        (err.natAbs ≤ 1000 → t.rnd.origin = held ∧ t.rnd.slew = err ∧ t.rnd.slewAt = s.now ∧ t.rnd.step = r.step) ∧
        (1000 < err.natAbs → t.rnd.origin = held - err ∧ t.rnd.slew = 0 ∧ t.rnd.step = err) ∧
        t.nrg.budget = (if bit s.nrg.cfg.toNat 1 ∧ b.budget ≠ 0 then b.budget % 2 ^ 32 else s.nrg.budget)) ∧
      ((r.round : Int) < beaconRound s b → beaconRound s b < 2 ^ 48 → ∃ t, Gives (.beacon p b) s t ∧ (t.rnd.round : Int) = beaconRound s b ∧
        t.rnd.locked = true ∧ t.rnd.lenUs = b.lenUs ∧ t.rnd.skipped = satAdd 16 r.skipped ((beaconRound s b).toNat - r.round - 1)))) ∧
  (let u := advance s (phaseTime s 10000)
   let missed := { r with missed := min (r.missed + 1) 3, misses := satAdd 8 r.misses 1, lastMiss := some r.round }
   ((r.source = 2 ∨ r.seen = some r.round ∨ r.lastMiss = some r.round ∨ aonOn s = false) → Gives .beaconMiss s s) ∧
   (aonOn s = true → r.source ≠ 2 → r.seen ≠ some r.round → r.lastMiss ≠ some r.round →
     ((r.missed < 2 ∨ r.freeRun = true) → Gives .beaconMiss s { u with rnd := missed }) ∧
     (2 ≤ r.missed → r.freeRun = false → ∃ t, Gives .beaconMiss s t ∧ t.now = u.now ∧ t.rnd.freeRun = true ∧ t.rnd.cadLost = true ∧
       t.rnd.locked = false ∧ t.rnd.missed = 3 ∧ t.rnd.round = r.round ∧ t.flt.count = u.flt.count + 1 ∧ bit t.i3c.alert.toNat 5 = true))) ∧
  (let soon : Bool := match r.lastEdge with | some t => decide (s.now - t ≤ 1000) | none => false
   let left : Int := (roundNs s : Int) - (phaseNs s : Int)
   ((r.source ≠ 1 ∨ soon = true ∨ aonOn s = false) → Gives .roundInEdge s s) ∧
   (r.source = 1 → soon = false → aonOn s = true →
     (phaseNs s ≤ 10000 → ∃ t, Gives .roundInEdge s t ∧ t.rnd.round = r.round ∧ t.rnd.locked = true ∧ t.rnd.missed = 0 ∧
       t.rnd.seen = some r.round ∧ t.rnd.lastEdge = some s.now ∧
       ((phaseAt r s.now).natAbs ≤ 1000 → t.rnd.origin = held ∧ t.rnd.slew = -phaseAt r s.now ∧ t.mem = s.mem) ∧
       (1000 < (phaseAt r s.now).natAbs → t.rnd.origin = held + phaseAt r s.now ∧ t.rnd.slew = 0 ∧ t.rnd.step = -phaseAt r s.now)) ∧
     (10000 < phaseNs s → roundNs s ≤ phaseNs s + 10000 → left.natAbs ≤ 1000 → ∃ t, Gives .roundInEdge s t ∧ t.rnd.round = r.round ∧
       t.rnd.locked = true ∧ t.rnd.slew = left ∧ t.rnd.origin = held ∧ t.rnd.seen = some (nextRound r) ∧ t.mem = s.mem) ∧
     (10000 < phaseNs s → (phaseNs s + 10000 < roundNs s ∨ 1000 < left.natAbs) → ∃ t, Gives .roundInEdge s t ∧
       t.rnd.round = nextRound r % 2 ^ 48 ∧ t.rnd.locked = true ∧ t.rnd.origin = (s.now : Int) ∧ t.rnd.slew = 0 ∧ t.rnd.step = left ∧
       t.rnd.seen = some (nextRound r % 2 ^ 48))))

/-- R254, R256: a PRESENCE from a CAD_OUT port leaves unchanged by the cadence port, and no other does; an ABSENT is recorded in the
ring, counted, reported and forwarded by every CAD_OUT port. On a port that carries nothing neither arrives (log 1). -/
def PresenceAndAbsentGoOn : Prop := ∀ (p : Nat) (s : State),
  (∀ q data, (cadenceOuts s).contains p = true → cadencePort s = some q → carries (portOf s q) = true →
    ∃ t, Gives (.presence p data) s t ∧ { t with out := [], ports := [] } = { s with out := [], ports := [] } ∧
      (∀ k, k ≠ q → portOf t k = portOf s k) ∧ (Clear (portOf s q) → t.out = .presence q data :: s.out)) ∧
  (∀ data, (cadenceOuts s).contains p = false → Gives (.presence p data) s s) ∧
  (∀ wire dev reason, carries (portOf s p) = false → Gives (.absent p wire dev reason) s s) ∧
  (∀ wire dev reason, carries (portOf s p) = true → ∃ t, Gives (.absent p wire dev reason) s t ∧
    t.absentCount = s.absentCount + 1 ∧
    t.absentRing = tset s.absentRing 0 (s.absentCount % 16)
      (BitVec.ofNat 32 (dev % 4096 + reason % 4 * 4096 + wire % 65536 * 65536)) ∧
    (∀ q, q ∈ cadenceOuts s → Clear (portOf s q) → .absent q wire dev reason ∈ t.out) ∧ t.stopes = s.stopes ∧ t.rnd = s.rnd)

/-- R288, R299: a ledger tick moves on by 10 µs from the last and counts the energy of that time at the power measured; the total and
the round's figure rise by it, and the budget stands. Without the AON domain no tick comes (R403, R411; log 1). -/
def LedgerTicks : Prop := ∀ (watts : Nat) (s : State),
  (aonOn s = false → Gives (.ledgerTick watts) s s) ∧ (aonOn s = true → ∃ t, Gives (.ledgerTick watts) s t ∧ t.now = max s.now (s.nrg.tickAt + 10000) ∧ t.nrg.tickAt = t.now ∧
    t.nrg.power = watts ∧
    t.nrg.spent = s.nrg.spent + watts * (t.now - s.nrg.tickAt) ∧ t.nrg.total = s.nrg.total + watts * (t.now - s.nrg.tickAt) ∧
    t.nrg.budget = s.nrg.budget)


/-! ## Commands -/

/-- The device awake for an admission; a main command that the budget does not cover sets SHORT (R289, R292). -/
def admitting (s : State) (c : Cmd) : State :=
  let u := setPower s .full
  if ledgerOn u && !c.desc.fill && decide (leftUnits u < (classE u c.desc.eclass : Rat)) then { u with nrg := { u.nrg with short := true } }
  else u

/-- The ledger holds a fill command (R289). -/
def isHeldBack (s : State) (c : Cmd) : Bool :=
  let u := setPower s .full
  c.desc.fill && ledgerOn u && (decide (leftUnits u < (classE u c.desc.eclass : Rat)) || u.nrg.short)

/-- The device after the reads of an admission (R346). -/
def admitRead (s : State) (c : Cmd) (ecc : Ecc) : State :=
  let u := admitting s c
  match (admitReads u c).head? with | some r => readEcc u r.1 ecc | none => u

/-- One of those reads stays uncorrectable, in a descriptor that keeps its layout (R329, R346). -/
def admitLost (s : State) (c : Cmd) (ecc : Ecc) : Bool :=
  !descFault (admitRead s c ecc) c && admitUncorr (admitRead s c ecc) c ecc

/-- R205, R207, R277, R285, R286, R289, R329: the head of a queue whose round has come is dropped when its round has been decided, held
when it is a fill command that the budget does not cover, refused with the code of its refusal, no part of it admitted, or admitted: its
bulk entries are taken, its reductions loaded, their deadlines armed. A command that ends posts its COMPLETION. One that is no candidate,
or is held, is left alone (log 1). Tables that hold a word which stays uncorrectable refuse the command with MEM_UNCORR (R346, R348): that,
and the order of the refusals, is the model's reading (log 35). -/
def CommandsAreAdmitted : Prop := ∀ (tag : Nat) (ecc : Ecc) (c : Cmd) (s : State),
  let w := setPower s .full
  let u := admitRead s c ecc
  let gone := decide (c.round = s.rnd.round) && !c.past && s.rnd.decided
  let ends := fun (v : State) (outcome code : Nat) => ∃ t, Gives (.commandAdmit ⟨tag, ecc⟩) s t ∧
    t.cmds = withCmd s { c with
      state := .finished, outcome := outcome, code := code, finish := s.now, heldEnergy := false
      start := if c.everStarted then c.start else s.now } ∧
    (CanPost v c.mbx → Posts v t c.mbx (Completion c)) ∧ (c.everStarted = false → t.stopes = v.stopes) ∧ t.levels = v.levels
  cmdIn s tag (fun c => decide (c.state = .queued)) = some c →
  ((c.heldEnergy = true ∨ isCandidate s c = false) → Gives (.commandAdmit ⟨tag, ecc⟩) s s) ∧
  (c.heldEnergy = false → isCandidate s c = true →
    (gone = true → ends w 2 0) ∧
    (gone = false →
      (isHeldBack s c = true → Gives (.commandAdmit ⟨tag, ecc⟩) s (putCmd w { c with heldEnergy := true })) ∧
      (isHeldBack s c = false → admitLost s c ecc = true → ∃ t, Gives (.commandAdmit ⟨tag, ecc⟩) s t ∧ Ended t c 1 0x0302 s.now ∧
        t.flt.count = u.flt.count + 1) ∧
      (isHeldBack s c = false → admitLost s c ecc = false →
        (∀ code, refusalOf u c = some code → ends u 1 code) ∧
        (∀ a, refusalOf u c = none → attachOf u c.desc = some a →
          ((c.desc.fill = true ∨ (∀ f ∈ s.cmds, f.desc.fill = true → f.state = .running → targetsMeet c f = false)) → a.rn = 0 →
            Gives (.commandAdmit ⟨tag, ecc⟩) s (putCmd u { c with
              state := .admitted, heldEnergy := false, density := 0, reductions := []
              bulk := (List.range a.bn).map (fun i => bulkOf (bulkBytes u a i)) })) ∧
          ((∀ e ∈ reductionsOf u a, (hoistOf u e.home).early = []) → ∃ t, Gives (.commandAdmit ⟨tag, ecc⟩) s t ∧
            (∃ d ∈ t.cmds, d.order = c.order ∧ d.tag = c.tag ∧ d.state = .admitted ∧
              d.reductions = (reductionsOf u a).map (fun e => (e.home, e.slot)) ∧
              d.bulk = (List.range a.bn).map (fun i => bulkOf (bulkBytes u a i))) ∧
            (∀ e ∈ reductionsOf u a, slotOf (hoistOf t e.home) e.slot = { loaded := true, entry := e, tag := c.tag, round := c.round } ∧
              (e.timed = true → hasDeadline t (e.home, c.round + e.dlRound, e.dlPhase) = true)))))))

/-- R203: a main command that is admitted asks every running fill command that shares a stope with it to yield. -/
def FillCommandsYield : Prop := ∀ (tag : Nat) (ecc : Ecc) (c f : Cmd) (s : State),
  cmdIn s tag (fun c => decide (c.state = .queued)) = some c → c.heldEnergy = false → isCandidate s c = true →
  ¬(c.round = s.rnd.round ∧ c.past = false ∧ s.rnd.decided = true) →
  admitLost s c ecc = false → refusalOf (admitRead s c ecc) c = none → c.desc.fill = false →
  f ∈ s.cmds → f.order ≠ c.order → f.desc.fill = true → f.state = .running → targetsMeet c f = true →
  (∀ g ∈ s.cmds, g.order = f.order → g = f) →
  ∃ t, Gives (.commandAdmit ⟨tag, ecc⟩) s t ∧ ∃ g ∈ t.cmds, g.order = f.order ∧ g.tag = f.tag ∧ g.state = .preempting ∧
    g.awaitFree = targetsOf f ∧ g.preemptAt = s.now

/-- R82, R131, R187, R202, R331: a command that starts is running, its declared tallies recorded at its first dispatch; the overmen of
its stopes work for it and are told by a command event, and the generators of its stopes' crews are seeded from its round. -/
def CommandsStart : Prop := ∀ (tag : Nat) (c : Cmd) (s : State),
  cmdIn s tag (fun c => decide (c.state = .admitted ∨ c.state = .preempted)) = some c → mayStart s c = true →
  ∃ t, Gives (.commandStart tag) s t ∧
    (∃ d ∈ t.cmds, d.order = c.order ∧ d.state = .running ∧ d.everStarted = true ∧
      d.start = (if c.everStarted then c.start else s.now) ∧
      d.recorded = (if c.everStarted then c.recorded
        else (tallyKeys c).map (fun k => (k.1, k.2.1, k.2.2, (tallyOf s k.1 k.2.1 k.2.2).count)))) ∧
    (∀ st, st ∈ targetsOf c →
      (crewOf t st 16).tag = c.tag ∧ (crewOf t st 16).epoch = c.epoch ∧ (crewOf t st 16).round = c.round ∧
      ({ cls := 4, tag := c.tag, epoch := c.epoch } ∈ (stopeOf t st).events ∨ bit (stopeOf t st).overrun 4 = true) ∧
      (stopeOf t st).srKey = BitVec.ofNat 32 c.round ∧
      (c.everStarted = false → ∀ cr, cr < 16 → (crewOf t st cr).gens = seedGens st cr (c.round % 2 ^ 32)))

/-- R203, R291: a stope reported free leaves the list of those a fill command waits for; with the last one it is preempted, and its stopes
take the density that is left to them. -/
def StopesReportFree : Prop := ∀ (st : Nat) (c : Cmd) (s : State),
  s.cmds.find? (fun c => decide (c.state = .preempting) && c.awaitFree.contains st) = some c →
  ∃ v, Gives (.stopeFreeReport st) s (if c.awaitFree.erase st = [] then (targetsOf c).foldl tuneStope v else v) ∧
    OnlyTraced (putCmd s { c with
      awaitFree := c.awaitFree.erase st, state := if c.awaitFree.erase st = [] then .preempted else .preempting
      preempts := if c.awaitFree.erase st = [] then c.preempts + 1 else c.preempts }) v st 1

/-- R204: a fill command that has not yielded 1 ms after its preempt event ends with FILL_TIMEOUT, its stopes reset: crews idle,
overman at word 0. -/
def FillCommandsTimeOut : Prop := ∀ (tag : Nat) (c : Cmd) (s : State),
  cmdIn s tag (fun c => decide (c.state = .preempting)) = some c →
  ∃ t, Gives (.fillTimeout tag) s t ∧ t.now = max s.now (c.preemptAt + 1000000) ∧ Ended t c 5 0x050C t.now ∧
    (∀ st, st ∈ targetsOf c → (∀ cr, cr < 16 → (crewOf t st cr).state = .idle ∧ (crewOf t st cr).wait = none) ∧
      (levelHeld s (stopeLevel st) = false → (physHolding s st).isSome = true →
        (crewOf t st 16).state = .running ∧ (crewOf t st 16).pc = 0 ∧ (stopeOf t st).evOn = false))

/-- R326, R327: a RUN starts every idle or stopped crew of CREWS on every target stope at the entry word; the other crews stand. -/
def RunStartsCrews : Prop := ∀ (tag : Nat) (c : Cmd) (s : State),
  cmdIn s tag (fun c => decide (c.state = .running ∧ c.desc.opcode = 1) && !c.launched) = some c →
  ∃ t, Gives (.run tag) s t ∧ t.cmds = withCmd s { c with launched := true } ∧ t.now = s.now ∧
    (∀ st cr, st ∈ targetsOf c → cr < 16 → bit c.desc.crews cr = true → CanLaunch s st cr → Launched t c st cr) ∧
    (∀ st cr, st ∈ targetsOf c → cr < 16 → (bit c.desc.crews cr = false ∨ ¬ CanLaunch s st cr) → crewOf t st cr = crewOf (settle s st) st cr) ∧
    (∀ st, st ∉ targetsOf c → stopeOf t st = stopeOf s st)

/-- Nothing that is due on a command's stopes has still to land, and no stope stands twice in a list. -/
def Settled (s : State) (sts : List Nat) : Prop := sts.Nodup ∧ ∀ st ∈ sts, settle s st = s

/-- The command's image stands as a copy at the tail of the tram's queue of every stope of a list that has room, and no other stope
changes; without room the stope is left for later (R152, R326, R328). -/
def CopiesQueued (s t : State) (c : Cmd) (sts : List Nat) : Prop :=
  let room := fun (st : Nat) => decide ((stopeOf s st).queue.length < 64 ∧ tramShare (stopeOf s st) < 16)
  { t with stopes := [], cmds := [] } = { s with stopes := [], cmds := [] } ∧
  (∀ st, stopeOf t st = if st ∈ sts ∧ room st = true then enqueue (stopeOf s st) (imageCopy s c st) else stopeOf s st) ∧
  t.cmds = withCmd s { c with
    launched := true, awaitQueue := sts.filter (fun st => !room st), awaitCopy := if c.launched then c.awaitCopy else sts }

/-- R152, R326, R328: LOAD_PROG has the tram of every target stope copy the image into its inactive bank, from and to physical
addresses; a stope whose tram has no place takes its copy with a later LOAD_PROG of the command. The copy starts, meets BANK_BUSY, moves
its row and asks for its swap as every transfer does. How a copy stands in its tram is the model's reading (log 14). -/
def LoadProgQueuesCopies : Prop := ∀ (tag : Nat) (c : Cmd) (s : State),
  let sts := if c.launched then c.awaitQueue else targetsOf c
  cmdIn s tag (fun c => decide (c.state = .running ∧ c.desc.opcode = 2) && (!c.launched || decide (c.awaitQueue ≠ []))) = some c →
  Settled s sts → ∃ t, Gives (.loadProg tag) s t ∧ CopiesQueued s t c sts

/-- R265, R326, R327: QUERY_INSTALL has the image copied once; on every one of its stopes that has swapped the crews start and the stope
serves queries; a stope whose swap cannot take place yet is waited for. The command's course is the model's reading (log 35). -/
def QueryInstallStartsCrews : Prop := ∀ (tag : Nat) (c : Cmd) (s : State),
  cmdIn s tag (fun c => decide (c.state = .running ∧ c.desc.opcode = 4)) = some c →
  (c.launched = true → c.awaitQueue = [] → (∀ st, st ∈ c.awaitLoad → (stopeOf s st).swapPending = false) → c.awaitLoad.Nodup →
    ∃ t, Gives (.queryInstall tag) s t ∧ t.cmds = withCmd s { c with awaitLoad := [] } ∧
      (∀ st cr, st ∈ c.awaitLoad → cr < 16 → bit c.desc.crews cr = true → CanLaunch s st cr → Launched t c st cr) ∧
      (∀ st i, st ∈ c.awaitLoad → reservedIndex s st = some i → tget t.qheld false i = false)) ∧
  (∀ st, let u := settle s st
    c.launched = true → c.awaitQueue = [] → c.awaitLoad = [st] → (stopeOf u st).swapPending = true →
    (swapReady (stopeOf u st) u.now = false ∨ inactiveWrite u st = true) → Gives (.queryInstall tag) s (putCmd u { c with awaitLoad := [st] })) ∧
  (c.launched = false → c.awaitLoad = [] → Settled s (targetsOf c) →
    ∃ t, Gives (.queryInstall tag) s t ∧ CopiesQueued s t c (targetsOf c))

/-- R346 to R348: a command whose program image, or an access of whose crews to the store, met a word that stays uncorrectable ends with
that code; MEM_UNCORR leaves a fault record before it. That it ends at its next COMMAND_FINISH is the model's reading (log 35). -/
def UncorrectableWordsEndCommands : Prop := ∀ (tag : Nat) (c : Cmd) (s : State),
  cmdIn s tag (fun c => decide (c.state = .running)) = some c → faultedCrew s c = none → c.endCode ≠ 0 →
  ∃ t, Gives (.commandFinish tag) s t ∧ Ended t c 3 c.endCode s.now ∧
    (c.endCode = 0x0302 → s.flt.takeover = none → s.flt.count < t.flt.count)

/-- R196 to R198, R200, R346: a sieve command makes the sieve of its level busy with its job list, the first job read and its first row
fetched; a job that breaks its layout, or cannot be read, ends the command before any of its rows. A busy sieve takes no command, and none starts in a takeover (log 1). -/
def SievesTakeJobs : Prop := ∀ (tag : Nat) (ecc : Ecc) (c : Cmd) (s : State),
  cmdIn s tag (fun c => decide (c.state = .running ∧ c.desc.opcode = 3) && !c.launched) = some c →
  Alone s c →
  let n := c.desc.arg % 8
  let list := c.desc.table % 2 ^ 48
  let bs := readBytes s list 64
  let z := readEcc (putCmd s { c with launched := true }) list ecc
  let u := settleReads z (rowReads (jobOf bs) 0)
  ((tramsOff s = true ∨ s.flt.takeover.isSome = true ∨ (levelOf s n).sieve.busy = true) → Gives (.sieve ⟨tag, ecc⟩) s s) ∧
  (tramsOff s = false → s.flt.takeover = none → (levelOf s n).sieve.busy = false →
    ((readFault z list 64 ecc).isSome = true → ∃ t, Gives (.sieve ⟨tag, ecc⟩) s t ∧ Ended t c 3 0x0302 s.now ∧ (levelOf t n).sieve.busy = false) ∧
    (readFault z list 64 ecc = none → jobBad z bs = true →
      ∃ t, Gives (.sieve ⟨tag, ecc⟩) s t ∧ Ended t c 3 0x050A s.now ∧ (levelOf t n).sieve.busy = false) ∧
    (readFault z list 64 ecc = none → jobBad z bs = false → ∃ t, Gives (.sieve ⟨tag, ecc⟩) s t ∧ OnlyLevel u t n ∧
      levelOf t n = { levelOf s n with sieve := { (levelOf s n).sieve with
        busy := true, tag := tag, list := list, jobs := c.desc.table / 2 ^ 48, job := 0, row := 0, cleared := [], cmdDiff := 0
        first := none, rowAt := s.now, func := (jobOf bs).func, jobRec := bs, ahead := some (fetchRow u (jobOf bs) 0) } }))

/-- R193, R195, R197 to R199, R346: after the time of its passes a row of a job, as it was fetched, leaves its statistics in the side
memory, its differences counted and its output written, and the sieve stands at the next row, fetched before that output; after the last
row of the last job the sieve is idle. A row that cannot be read, or whose place does not exist, ends the command. -/
def SieveRowsAdvance : Prop := ∀ (n : Nat) (e : Ecc) (c : Cmd) (s : State),
  let v := (levelOf s n).sieve
  let j := jobOf v.jobRec
  let u := advance s (v.rowAt + sievePasses j.func * ((j.len + 63) / 64) + 24)
  let more := decide (v.row + 1 < j.rows)
  let w := if more then settleReads u (rowReads j (v.row + 1)) else u
  let f := v.ahead.getD (fetchRow w j v.row)
  let y := computeRow w n j v.row f
  let ref := if j.cmp then f.ref else y.out
  let o := j.o + v.row * j.pitch
  let may := (rowReads j v.row).all (fun p => sieveMay u p.1 p.2) && (j.noOut || !refusedWrite u .sieve o (outBytes j))
  let stats := fun (pa : Nat) => sieveAddr n (16 * (j.stat + v.row)) ≤ pa ∧ pa < sieveAddr n (16 * (j.stat + v.row)) + 16
  n < 8 → cmdIn s v.tag isRunning = some c → v.busy = true → tramsOff s = false → jobBad u v.jobRec = false →
  (may = false → ∃ t, Gives (.sieveRow n e) s t ∧ Ended t c 3 fcAddrHole u.now ∧ (levelOf t n).sieve.busy = false) ∧
  (∀ code, may = true → (rowReads j v.row).findSome? (fun p => readFault w p.1 p.2 e) = some code →
    ∃ t, Gives (.sieveRow n e) s t ∧ Ended t c 3 code u.now ∧ (levelOf t n).sieve.busy = false) ∧
  (may = true → (rowReads j v.row).findSome? (fun p => readFault w p.1 p.2 e) = none →
    (j.noOut = true → ∃ t, Gives (.sieveRow n e) s t ∧ t.now = u.now ∧ (levelOf t n).sieve.rows = v.rows + 1 ∧
      (∀ e ∈ y.stats, statOf t n j v.row e.1 = e.2) ∧
      (v.row + 1 < j.rows → t.cmds = w.cmds ∧ t.stopes = w.stopes ∧ (∀ pa, ¬ stats pa → cellAt t.mem pa = cellAt w.mem pa) ∧
        (levelOf t n).sieve.row = v.row + 1 ∧ (levelOf t n).sieve.busy = true ∧
        (levelOf t n).sieve.ahead.isSome = true ∧ (levelOf t n).sieve.cmdDiff = v.cmdDiff + (differing y.out ref).length) ∧
      (j.rows ≤ v.row + 1 → v.jobs ≤ v.job + 1 → (levelOf t n).sieve.busy = false)) ∧
    (j.noOut = false → v.row + 1 < j.rows → inHbm u o (outBytes j) = true → s.snap.op ≠ 2 →
      (∀ g ∈ granulesOf u o (outBytes j), commitGranule u g.1 (g.2 / 4096 * 4096) = false) →
      ∃ t, Gives (.sieveRow n e) s t ∧ t.now = u.now ∧ readBytes t o (outBytes j) = y.out.flatMap (fun w => toBytes 4 w.toNat) ∧
        (∀ g ∈ granulesOf u o (outBytes j), ¬ v.cleared.contains ((if o < 2 ^ 40 then hbmAddr g.1 g.2 else stripedAddr g.1 g.2)) →
          bit (sideEntry t (hbmAddr g.1 g.2)).toNat 55 = false) ∧
        (levelOf t n).sieve.row = v.row + 1 ∧ t.stopes = w.stopes ∧ t.cmds = w.cmds))

/-- R133, R187, R291, R331, R332: a command whose work is done ends OK with its tallies compared and posts its COMPLETION; a tally that
differs is reported; a faulted crew ends it with the crew's code. One that still works is left alone (log 1); when a command counts as done
is the model's reading (log 35). -/
def CommandsFinish : Prop := ∀ (tag : Nat) (c : Cmd) (s : State),
  cmdIn s tag (fun c => decide (c.state = .running)) = some c →
  (faultedCrew s c = none → c.endCode = 0 → isDone s c = false → Gives (.commandFinish tag) s s) ∧
  (faultedCrew s c = none → c.endCode = 0 → isDone s c = true →
    let e := { c with state := .finished, outcome := 0, code := 0, finish := s.now, heldEnergy := false }
    ((∀ k ∈ c.recorded, (tallyOf s k.1 k.2.1 k.2.2.1).count = k.2.2.2) → CanPost s c.mbx → c.everStarted = true →
      ∃ t, Gives (.commandFinish tag) s t ∧
        t.cmds = withCmd s e ∧ Posts s t c.mbx (Completion c) ∧
        ((∀ st ∈ targetsOf c, (stopeOf s st).clk.div = densityDiv (stopeDensity (putCmd s e) st)) →
          ∀ st a, crewOf t st a = crewOf s st a)) ∧
    (∀ k, c.recorded = [k] → (tallyOf s k.1 k.2.1 k.2.2.1).count ≠ k.2.2.2 → c.reports.length < 7 →
      ∃ t, Gives (.commandFinish tag) s t ∧ ∃ d ∈ t.cmds, d.order = c.order ∧ d.state = .finished ∧ d.outcome = 0 ∧
        d.nrep = c.nrep + 1 ∧ d.reports = c.reports ++ [(1, k.2.2.1 + scopeCode k.1 * 2 ^ 10 + k.2.1 * 2 ^ 12)])) ∧
  (∀ st cr, faultedCrew s c = some (st, cr) → ∃ t, Gives (.commandFinish tag) s t ∧ Ended t c 3 (crewOf s st cr).faultCode s.now)

/-! ## Mailboxes -/

/-- R301, R311 to R314: a tail write exposes slots, one that would expose more than 128 sets OVERRUN; a head write frees slots and
lets what waits be posted; FLUSH of a disabled mailbox zeroes its four indices and closes its session; the hold-off ends in a covering
vector, or in its pending bit while MSI-X is off or the function or the vector is masked (the bits that turn it off are PRESUMED, log
20). Indices of an unavailable mailbox ignore writes, which is the model's reading of the rows too (log 1). -/
def MailboxIndicesMove : Prop := ∀ (m : Nat) (v : Word32) (s : State),
  (m < 8 → mailboxesOn s = true →
    (ringDist (v.toNat % 2 ^ 16) (mbxOf s m).reqHead ≤ 128 →
      Gives (.mbxReqTailWrite m v) s (putMbx s m { mbxOf s m with reqTail := v.toNat % 2 ^ 16 })) ∧
    (128 < ringDist (v.toNat % 2 ^ 16) (mbxOf s m).reqHead →
      Gives (.mbxReqTailWrite m v) s (putMbx s m { mbxOf s m with overrun := true })) ∧
    (ringDist (v.toNat % 2 ^ 16) (mbxOf s m).rspHead ≤ ringDist (mbxOf s m).rspTail (mbxOf s m).rspHead →
      ((mbxOf s m).pend = [] → Gives (.mbxRspHeadWrite m v) s (putMbx s m { mbxOf s m with rspHead := v.toNat % 2 ^ 16 })) ∧
      (∀ p, (mbxOf s m).pend = [p] → (p.note = true → (mbxOf s m).isOpen = true) → p.mbx = m →
        p.typ ≠ 0x40 → p.typ ≠ 0x41 → p.typ ≠ 0x43 → ringDist (mbxOf s m).rspTail (v.toNat % 2 ^ 16) < 128 →
        ∃ t, Gives (.mbxRspHeadWrite m v) s t ∧ (mbxOf t m).pend = [] ∧ (mbxOf t m).rspHead = v.toNat % 2 ^ 16 ∧
          Posts s t m (fun x => x.typ = p.typ ∧ x.reqSeq = p.reqSeq ∧ x.payload = p.payload) ∧ t.cmds = s.cmds) ∧
      (∀ n p, (mbxOf s m).pend = [n, p] → n.note = true → p.note = false → (mbxOf s m).isOpen = false → p.mbx = m →
        p.typ ≠ 0x40 → p.typ ≠ 0x41 → p.typ ≠ 0x43 → ringDist (mbxOf s m).rspTail (v.toNat % 2 ^ 16) < 128 →
        ∃ t, Gives (.mbxRspHeadWrite m v) s t ∧ (mbxOf t m).pend = [n] ∧
          Posts s t m (fun x => x.typ = p.typ ∧ x.reqSeq = p.reqSeq ∧ x.payload = p.payload) ∧ t.cmds = s.cmds)) ∧
    (ringDist (mbxOf s m).rspTail (mbxOf s m).rspHead < ringDist (v.toNat % 2 ^ 16) (mbxOf s m).rspHead →
      Gives (.mbxRspHeadWrite m v) s s)) ∧
  (8 ≤ m ∨ mailboxesOn s = false → Gives (.mbxReqTailWrite m v) s s ∧ Gives (.mbxRspHeadWrite m v) s s) ∧
  (m < 8 → (mbxOf s m).enable = false → Gives (.mbxFlush m) s (putMbx s m { mbxOf s m with
    isOpen := false, lastSubmit := none, pend := (mbxOf s m).pend.filter (fun p => decide (p.typ = 0x40) || !p.note), reqTail := 0, reqHead := 0, rspHead := 0, rspTail := 0 })) ∧
  (8 ≤ m ∨ (mbxOf s m).enable = true → Gives (.mbxFlush m) s s) ∧
  (m < 8 → 0 < (mbxOf s m).uncovered → (mbxOf s m).coal.toNat ≠ 0 →
    let u := advance s ((mbxOf s m).uncoveredAt + 1000 * bits (mbxOf s m).coal.toNat 0 16)
    let w := putMbx u m { mbxOf u m with uncovered := 0 }
    let on := bit u.ep.msixCtl.toNat 15 = true ∧ bit u.ep.msixCtl.toNat 14 = false ∧ tget u.ep.msixMask true m = false
    (bit u.ep.intMask.toNat m = true → Gives (.mbxCoalHoldoff m) s w) ∧
    (bit u.ep.intMask.toNat m = false → on → Gives (.mbxCoalHoldoff m) s { w with out := .msix m :: u.out }) ∧
    (bit u.ep.intMask.toNat m = false → ¬ on →
      Gives (.mbxCoalHoldoff m) s { w with ep := { u.ep with pba := u.ep.pba ||| 2 ^ m } })) ∧
  (8 ≤ m ∨ (mbxOf s m).uncovered = 0 ∨ (mbxOf s m).coal.toNat = 0 → Gives (.mbxCoalHoldoff m) s s)

/-- R310, R314, R316: a reply stands in the next slot of its response ring, header and payload, and the ring's tail moves on; while
the ring is full, or another reply waits, it waits. The reply goes before notes that wait only for a session, the model's reading
(log 30). -/
def RepliesArePosted : Prop := ∀ (m : Nat) (r : Req) (st : Nat) (s : State),
  r.reserved = none → served s m = true → sessionStatus (mbxOf s m) 0x53 2 r = some st →
  (HasRoom s m → ∃ t x, Gives (.retireRead m r) s t ∧ Posts s t m (fun y => y = x) ∧ IsReply 0x53 st r [] x ∧
    x.seq = (mbxOf s m).rspSeq ∧ x.round = s.rnd.round ∧
    (∀ i, i < 64 → cellAt t.mem (ringAddr m (0x8000 + 256 * ((mbxOf s m).rspTail % 128)) + i) = (msgBytes x)[i]?.getD 0) ∧
    (∀ pa, ¬ (ringAddr m (0x8000 + 256 * ((mbxOf s m).rspTail % 128)) ≤ pa ∧
      pa < ringAddr m (0x8000 + 256 * ((mbxOf s m).rspTail % 128)) + 64) → cellAt t.mem pa = cellAt s.mem pa)) ∧
  (s.flt.takeover = none → ¬ HasRoom s m → ∃ t x, Gives (.retireRead m r) s t ∧ IsReply 0x53 st r [] x ∧
    (mbxOf t m).pend = (mbxOf s m).pend ++ [x] ∧ (mbxOf t m).rspTail = (mbxOf s m).rspTail ∧ t.out = s.out ∧ t.mem = s.mem)

/-- R317, R319: a request of a mailbox that is not served stays in its ring; one that its session does not let stand is consumed and
answered with the status that says why, and does nothing else; one of a TYPE that no version carries is BAD_TYPE. The order in which the
session's conditions are tried is the model's (log 30). -/
def RequestsNeedASession : Prop := ∀ row ∈ requestRows, ∀ (m : Nat) (r : Req) (s : State),
  (served s m = false → Gives (row.instr m r) s s) ∧
  (∀ st, r.reserved = none → served s m = true → sessionStatus (mbxOf s m) row.typ row.minVer r = some st → HasRoom s m →
    ∃ t, Gives (row.instr m r) s t ∧ Answered s t m row.typ st r [] ∧ t.cmds = s.cmds ∧ t.stopes = s.stopes ∧ t.trust = s.trust ∧
      t.snap = s.snap ∧ t.nrg = s.nrg ∧ t.flt = s.flt ∧ t.fabId = s.fabId ∧ (mbxOf t m).isOpen = (mbxOf s m).isOpen) ∧
  (∀ typ, r.reserved = some typ → typ < 0x80 → served s m = true → HasRoom s m → (mbxOf s m).isOpen = true →
    r.version = (mbxOf s m).version → r.version ≤ 3 → r.len ≤ 192 →
    ((mbxOf s m).version = 3 → r.check = (crc32c (reqHeader typ r ++ payloadOf r)).toNat) →
    ∃ t, Gives (row.instr m r) s t ∧ Answered s t m typ 2 r [] ∧ t.cmds = s.cmds ∧ t.stopes = s.stopes ∧ t.trust = s.trust ∧
      t.snap = s.snap ∧ t.nrg = s.nrg ∧ t.flt = s.flt ∧ t.fabId = s.fabId)

/-- R318, R319, R333: HELLO opens a session in the highest common version, its tags from 0, and no note of the session before it waits
on; without a common version it is refused, a malformed one is BAD_FIELD, and either leaves the mailbox as it was; BYE closes the session.
That each HELLO is counted is the model's reading (log 30). -/
def SessionsOpenAndClose : Prop := ∀ (m : Nat) (r : Req) (s : State),
  let lo := pay r 0 1
  let v := min (pay r 1 1) 3
  let x := mbxOf s m
  let qid := m * 4096 + x.hellos % 4096
  let good := r.len = 24 ∧ lo ≠ 0 ∧ lo ≤ pay r 1 1 ∧ pay r 2 6 = 0
  (served s m = false → Gives (.hello m r) s s) ∧
  (r.reserved = none → served s m = true → HasRoom s m →
    (good → lo ≤ v → ∃ t, Gives (.hello m r) s t ∧ Sent s t m (IsReply 1 0 r (helloBytes s v qid)) ∧
      (x.pend = [] → Answered s t m 1 0 r (helloBytes s v qid)) ∧ (mbxOf t m).isOpen = true ∧
      (mbxOf t m).version = v ∧ (mbxOf t m).qid = qid ∧ (mbxOf t m).nextSeq = 0 ∧ (mbxOf t m).epoch = 0 ∧
      (∀ p ∈ (mbxOf t m).pend, p.typ = 0x40) ∧
      (mbxOf t m).lastSubmit = none ∧ (mbxOf t m).hellos = x.hellos + 1 ∧ t.cmds = s.cmds ∧ t.stopes = s.stopes) ∧
    (good → v < lo → ∃ t, Gives (.hello m r) s t ∧ Answered s t m 1 1 r [] ∧ (mbxOf t m).isOpen = x.isOpen ∧
      (mbxOf t m).version = x.version ∧ (mbxOf t m).hellos = x.hellos + 1 ∧ t.cmds = s.cmds) ∧
    (¬ good → ∃ t, Gives (.hello m r) s t ∧ Answered s t m 1 3 r [] ∧ (mbxOf t m).isOpen = x.isOpen ∧
      (mbxOf t m).version = x.version ∧ (mbxOf t m).hellos = x.hellos + 1 ∧ t.cmds = s.cmds)) ∧
  (Stands s m 0x02 1 r →
    (r.len = 0 → ∃ t, Gives (.bye m r) s t ∧ Answered s t m 0x02 0 r [] ∧ (mbxOf t m).isOpen = false ∧
      (mbxOf t m).lastSubmit = none ∧ (∀ p ∈ (mbxOf t m).pend, p.typ = 0x40) ∧ t.cmds = s.cmds) ∧
    (r.len ≠ 0 → ∃ t, Gives (.bye m r) s t ∧ Answered s t m 0x02 3 r [] ∧ (mbxOf t m).isOpen = true ∧ t.cmds = s.cmds))

/-- R316, R317, R321, R322: an accepted SUBMIT queues its descriptors in order, each with its epoch and its extended round; any other
status queues none; the reply names the tag, and its epoch when the tag is the session's next one or that of the SUBMIT before. That a
device not ready for commands answers BUSY is the model's reading (log 30). -/
def SubmitQueuesCommands : Prop := ∀ (m : Nat) (r : Req) (s : State), Stands s m 0x10 1 r →
  let n := r.len / 64
  let x := mbxOf s m
  ((submitStatus s m r = 0 ∨ submitStatus s m r = 6) → ∃ t e, Gives (.submit m r) s t ∧
    Sent s t m (fun y => y.typ = 0x90 ∧ y.tag = r.tag ∧ y.epoch = e) ∧
    (∀ n, x.lastSubmit = some (r.tag, n) → e = x.lastEpoch) ∧ (x.lastSubmit = none → e = x.epoch)) ∧
  (submitStatus s m r = 0 → ∃ t cs, Gives (.submit m r) s t ∧ Answered s t m 0x10 0 r [] ∧ t.cmds = s.cmds ++ cs ∧
    cs.map (·.desc) = (List.range n).map (submitted r) ∧ cs.map (·.order) = (List.range n).map (s.nextOrder + ·) ∧
    cs.map (·.epoch) = (List.range n).map (fun i => (x.epoch + (x.nextSeq + i) / 65536) % 65536) ∧
    (∀ c ∈ cs, c.state = .queued ∧ c.tag = c.desc.tag ∧ c.mbx = m ∧ c.session = x.qid ∧ c.version = x.version ∧
      (c.round : Int) = extendRound c.desc.wire s.rnd.round % 2 ^ 48) ∧
    t.nextOrder = s.nextOrder + n ∧ (mbxOf t m).nextSeq = (x.nextSeq + n) % 65536 ∧
    (mbxOf t m).epoch = (x.epoch + (x.nextSeq + n) / 65536) % 65536 ∧ (mbxOf t m).lastEpoch = x.epoch ∧ t.stopes = s.stopes) ∧
  (submitStatus s m r ≠ 0 → ∃ t, Gives (.submit m r) s t ∧ Answered s t m 0x10 (submitStatus s m r) r [] ∧ t.cmds = s.cmds ∧
    t.nextOrder = s.nextOrder ∧ (mbxOf t m).nextSeq = x.nextSeq ∧ (mbxOf t m).epoch = x.epoch)

/-- R316, R317, R322, R330: CANCEL ends a queued command with CANCELLED and its COMPLETION follows, answers BUSY for one admitted already
and BAD_FIELD for an unknown tag; STATUS tells a command's state and the cycle of its start; both replies bear the tag and the epoch of
the command named, in version 3 the one of the request's EPOCH, before it the latest of the tag (the model's reading, log 30). -/
def CancelAndStatus : Prop := ∀ (m : Nat) (r : Req) (s : State),
  let named := cmdNamed s m r (pay r 0 4)
  (∀ c, named = some c → c ∈ s.cmds ∧ c.tag = pay r 0 4 ∧ ((mbxOf s m).version = 3 → c.epoch = r.epoch)) ∧
  (named = none → ∀ c ∈ s.cmds, c.tag = pay r 0 4 → (mbxOf s m).version = 3 ∧ c.epoch ≠ r.epoch) ∧
  (Stands s m 0x11 1 r → r.len = 4 →
    (∀ c, named = some c → c.state = .queued → ∃ t, Gives (.cancel m r) s t ∧
      Sent s t m (fun x => IsReply 0x11 0 r [] x ∧ x.tag = c.tag ∧ x.epoch = c.epoch) ∧
      Ended t c 4 0 s.now ∧ (c.mbx ≠ m → CanPost s c.mbx → Sent s t c.mbx (Completion c)) ∧
      (c.mbx = m → (mbxOf s m).pend = [] → ringDist (mbxOf s m).rspTail (mbxOf s m).rspHead < 127 → Sent s t m (Completion c))) ∧
    (∀ c, named = some c → c.state ≠ .queued → ∃ t, Gives (.cancel m r) s t ∧ Answered s t m 0x11 7 r [] ∧
      Sent s t m (fun x => IsReply 0x11 7 r [] x ∧ x.tag = c.tag ∧ x.epoch = c.epoch) ∧ t.cmds = s.cmds) ∧
    (named = none → ∃ t, Gives (.cancel m r) s t ∧ Answered s t m 0x11 3 r [] ∧ t.cmds = s.cmds)) ∧
  (Stands s m 0x11 1 r → r.len ≠ 4 → ∃ t, Gives (.cancel m r) s t ∧ Answered s t m 0x11 3 r [] ∧ t.cmds = s.cmds) ∧
  (Stands s m 0x12 1 r → r.len = 4 → ∃ t, Gives (.status m r) s t ∧ t.cmds = s.cmds ∧
    (∀ c, named = some c → Sent s t m (fun x => x.typ = 0x92 ∧ x.tag = c.tag ∧ x.epoch = c.epoch)) ∧
    Answered s t m 0x12 0 r (match named with
      | none => List.replicate 16 (0 : Byte)
      | some c => toBytes 8 (statusCode c) ++ toBytes 8 (if c.everStarted then c.start else 0))) ∧
  (Stands s m 0x12 1 r → r.len ≠ 4 → ∃ t, Gives (.status m r) s t ∧ Answered s t m 0x12 3 r [] ∧ t.cmds = s.cmds)

/-- A request row: a request of one TYPE that the row serves, told from the other rows of the TYPE by its payload. -/
structure PowerRow where
  instr : Nat → Req → Instr
  value : Nat

def powerRows : List PowerRow := [⟨.powerWake, 0⟩, ⟨.powerDoze, 2⟩, ⟨.powerVigil, 3⟩]

/-- R287, R292, R317: SET_BUDGET writes the next round's budget, SET_FAB_ID the identifier, POWER starts the exit from Doze or Vigil
or the way into one, refused while the device must stay: with a command working, a hoist slot loaded, a PUT under way, a snapshot
drain, in ebb, in Vigil or on the way to another state. A malformed one is BAD_FIELD. In Vigil no mailbox serves, and the request that
starts the exit is the row's only effect there (the model's reading, log 29); rows of other values leave the state (the model's choice,
log 43). -/
def BudgetIdentifierAndPower : Prop := ∀ (m : Nat) (r : Req) (s : State),
  (Stands s m 0x20 2 r →
    (r.len = 4 → ∃ t, Gives (.setBudget m r) s t ∧ Answered s t m 0x20 0 r [] ∧ t.cmds = s.cmds ∧
      t.nrg = { s.nrg with budgetNext := pay r 0 4 % 2 ^ 32, budgetNew := true }) ∧
    (r.len ≠ 4 → ∃ t, Gives (.setBudget m r) s t ∧ Answered s t m 0x20 3 r [] ∧ t.nrg = s.nrg)) ∧
  (Stands s m 0x22 2 r →
    (r.len = 2 → pay r 0 2 < 4096 → ∃ t, Gives (.setFabId m r) s t ∧ Answered s t m 0x22 0 r [] ∧
      t.fabId = pay r 0 2 ∧ t.cmds = s.cmds) ∧
    (r.len ≠ 2 ∨ 4096 ≤ pay r 0 2 → ∃ t, Gives (.setFabId m r) s t ∧ Answered s t m 0x22 3 r [] ∧ t.fabId = s.fabId)) ∧
  (s.power ≠ .vigil → Stands s m 0x21 2 r → r.len = 1 → pay r 0 1 = 0 →
    (s.power = .doze → s.powerNext = none → s.boot.steps = [] → tramsOff s = false → ∃ t, Gives (.powerWake m r) s t ∧
      Answered s t m 0x21 0 r [] ∧ t.power = s.power ∧ t.powerNext = some (.full, s.now + 25000000)) ∧
    (s.power ≠ .doze ∨ s.powerNext ≠ none ∨ s.boot.steps ≠ [] ∨ tramsOff s = true → ∃ t, Gives (.powerWake m r) s t ∧
      Answered s t m 0x21 0 r [] ∧ t.power = s.power ∧ t.powerNext = s.powerNext)) ∧
  (s.power = .vigil →
    (m < 8 → r.reserved = none → r.len = 1 → pay r 0 1 = 0 → s.powerNext = none → s.boot.steps = [] → tramsOff s = false →
      Gives (.powerWake m r) s { s with boot := { s.boot with steps := vigilSteps, t0 := s.now } }) ∧
    (r.len ≠ 1 ∨ pay r 0 1 ≠ 0 ∨ s.powerNext ≠ none ∨ s.boot.steps ≠ [] ∨ tramsOff s = true → Gives (.powerWake m r) s s)) ∧
  (Stands s m 0x21 2 r → r.len = 1 → pay r 0 1 = 2 →
    (mustStay s = false → ∃ t, Gives (.powerDoze m r) s t ∧ Answered s t m 0x21 0 r [] ∧ t.power = s.power ∧
      t.powerNext = if s.power = .doze then none else some (.doze, s.now + 1000000)) ∧
    (mustStay s = true → ∃ t, Gives (.powerDoze m r) s t ∧ Answered s t m 0x21 7 r [] ∧ t.powerNext = s.powerNext)) ∧
  (Stands s m 0x21 2 r → r.len = 1 → pay r 0 1 = 3 →
    (mustStay s = false → ∃ t, Gives (.powerVigil m r) s t ∧ Answered s t m 0x21 0 r [] ∧ t.power = s.power ∧
      t.powerNext = some (.vigil, s.now + 5000000)) ∧
    (mustStay s = true → ∃ t, Gives (.powerVigil m r) s t ∧ Answered s t m 0x21 7 r [] ∧ t.powerNext = s.powerNext)) ∧
  ((∃ c ∈ s.cmds, isAdmitted c = true) ∨ (∃ n, n < 8 ∧ 0 < slotsLoaded (hoistOf s n)) ∨ s.puts ≠ [] ∨ s.snap.op = 3 ∨ s.ebb = true ∨
    s.power = .vigil ∨ s.powerNext ≠ none ∨ s.boot.steps ≠ [] → mustStay s = true) ∧
  (∀ row ∈ powerRows, s.power ≠ .vigil ∨ row.value ≠ 0 →
    (Stands s m 0x21 2 r → r.len ≠ 1 ∨ (pay r 0 1 ≠ 0 ∧ pay r 0 1 ≠ 2 ∧ pay r 0 1 ≠ 3) →
      ∃ t, Gives (row.instr m r) s t ∧ Answered s t m 0x21 3 r [] ∧ t.power = s.power ∧ t.powerNext = s.powerNext) ∧
    (∀ st, r.reserved = none → served s m = true → HasRoom s m → sessionStatus (mbxOf s m) 0x21 2 r = some st → r.len = 1 → pay r 0 1 = row.value →
      ∃ t, Gives (row.instr m r) s t ∧ Answered s t m 0x21 st r [] ∧ t.power = s.power ∧ t.powerNext = s.powerNext) ∧
    (r.len = 1 → pay r 0 1 ≠ row.value → pay r 0 1 = 0 ∨ pay r 0 1 = 2 ∨ pay r 0 1 = 3 → Gives (row.instr m r) s s) ∧
    (served s m = false → Gives (row.instr m r) s s))

/-- RECOVERY's rows: entered and left by their value (R369). -/
def recoveryRows : List (PowerRow) := [⟨.recoveryEnter, 1⟩, ⟨.recoveryLeave, 0⟩]

/-- R311, R352, R368, R369: the log and the retirement list are read, a RETIRE_CLEAR is kept for the next reset, recovery mode is
entered and left while no command works, each change of it with the READY interrupt and with every monitor figure at its value of then;
a malformed one is BAD_FIELD. What is read past the log's end and which records the history names are the model's (log 30). -/
def LogsRetirementAndRecovery : Prop := ∀ (m : Nat) (r : Req) (s : State),
  (Stands s m 0x51 2 r →
    (r.len = 4 → ∃ t, Gives (.logRead m r) s t ∧ Answered s t m 0x51 0 r (logBytes s (pay r 0 4)) ∧ t.flt = s.flt ∧ t.cmds = s.cmds) ∧
    (r.len ≠ 4 → ∃ t, Gives (.logRead m r) s t ∧ Answered s t m 0x51 3 r [] ∧ t.flt = s.flt)) ∧
  (Stands s m 0x53 2 r →
    (r.len = 0 → ∃ t, Gives (.retireRead m r) s t ∧ Answered s t m 0x53 0 r (retireBytes s) ∧ t.flt = s.flt ∧ t.cmds = s.cmds) ∧
    (r.len ≠ 0 → ∃ t, Gives (.retireRead m r) s t ∧ Answered s t m 0x53 3 r [] ∧ t.flt = s.flt)) ∧
  (Stands s m 0x54 3 r →
    (r.len = 0 → ∃ t, Gives (.retireClear m r) s t ∧ Answered s t m 0x54 0 r [] ∧
      t.flt = { s.flt with clearAtReset := true } ∧ t.cmds = s.cmds) ∧
    (r.len ≠ 0 → ∃ t, Gives (.retireClear m r) s t ∧ Answered s t m 0x54 3 r [] ∧ t.flt = s.flt)) ∧
  (∀ row ∈ recoveryRows,
    (Stands s m 0x55 3 r → r.len = 1 → pay r 0 1 = row.value →
      (working s = false → ∃ t, Gives (row.instr m r) s t ∧ Answered s t m 0x55 0 r [] ∧
        t.flt.recovery = decide (row.value = 1) ∧
        (s.flt.recovery = decide (row.value = 1) ∨ (∀ st, AllLanded s st) →
          t.flt = { s.flt with recovery := decide (row.value = 1) } ∧ t.cmds = s.cmds) ∧
        (s.flt.recovery = decide (row.value = 1) → t.stopes = s.stopes) ∧
        (s.flt.recovery ≠ decide (row.value = 1) → bit t.ep.intStat.toNat 8 = true)) ∧
      (working s = true → ∃ t, Gives (row.instr m r) s t ∧ Answered s t m 0x55 7 r [] ∧ t.flt = s.flt)) ∧
    (Stands s m 0x55 3 r → r.len ≠ 1 ∨ 2 ≤ pay r 0 1 →
      ∃ t, Gives (row.instr m r) s t ∧ Answered s t m 0x55 3 r [] ∧ t.flt = s.flt) ∧
    (r.len = 1 → pay r 0 1 ≠ row.value → pay r 0 1 < 2 → Gives (row.instr m r) s s) ∧
    (served s m = false → Gives (row.instr m r) s s))

/-- The request is answered first: the state in which what it asks for is then done. -/
def AnsweredFirst (s u : State) (m typ : Nat) (r : Req) : Prop :=
  Answered s u m typ 0 r [] ∧ u.cmds = s.cmds ∧ u.stopes = s.stopes ∧ u.levels = s.levels ∧ u.now = s.now ∧ u.trust = s.trust

/-- R361, R368, R424: a RESET request of a stope leaves its crews idle and its overman at word 0, one of a level its tallies, marks and
hoist as after reset, one of the device keeps flash and retirement list and begins the bring-up (how far each command takes it: log 19); the reply goes out first, and a malformed
request is BAD_FIELD. Rows of another kind leave the state (the model's choice, log 43). -/
def ResetRequestsReset : Prop := ∀ (m : Nat) (r : Req) (s : State),
  let n := pay r 1 2
  (Stands s m 0x52 2 r → r.len = 3 →
    (pay r 0 1 = 3 → n < 160 → ∃ u t, AnsweredFirst s u m 0x52 r ∧ Gives (.resetStope m r) s t ∧
      t = stopeReset (endOnStopes u [n] 0x0703) n ∧
      (∀ cr, cr < 16 → (crewOf t n cr).state = .idle ∧ (crewOf t n cr).wait = none) ∧ (stopeOf t n).queue = [] ∧ (stopeOf t n).evOn = false ∧
      (levelHeld t (stopeLevel n) = false → (physHolding t n).isSome = true → (crewOf t n 16).state = .running ∧ (crewOf t n 16).pc = 0)) ∧
    (pay r 0 1 = 3 → 160 ≤ n → ∃ t, Gives (.resetStope m r) s t ∧ Answered s t m 0x52 3 r [] ∧ t.stopes = s.stopes) ∧
    (pay r 0 1 = 2 → n < 8 → (∀ fails, ∃ u, AnsweredFirst s u m 0x52 r ∧ Gives (.resetLevel m r fails) s (resetLevelNow fails u n)) ∧
      ∃ t, Gives (.resetLevel m r []) s t ∧ (levelOf t n).tallies = [] ∧ (levelOf t n).marks = [] ∧
      (hoistOf t n).slots = [] ∧ (hoistOf t n).early = [] ∧ (hoistOf t n).waiting = [] ∧ (hoistOf t n).unacked = [] ∧
      (hoistOf t n).size = t.conf.winSize ∧ (levelOf t n).sieve = {} ∧ (levelOf t n).up = !levelHeld t n ∧
      (∀ i cr, i < 20 → cr < 16 → crewOf t (20 * n + i) cr = {})) ∧
    (pay r 0 1 = 2 → 8 ≤ n → ∀ fails, ∃ t, Gives (.resetLevel m r fails) s t ∧ Answered s t m 0x52 3 r [] ∧ t.levels = s.levels) ∧
    (pay r 0 1 = 1 → ∀ e : BootEnv, ∃ u t, AnsweredFirst s u m 0x52 r ∧ Gives (.resetDevice m r e) s t ∧ t = deviceReset u e ∧
      BringsUp t e ∧ ResetKeepsFlash s t)) ∧
  (∀ i, i = Instr.resetStope m r ∨ (∃ e, i = .resetDevice m r e) ∨ (∃ fails, i = .resetLevel m r fails) →
    (Stands s m 0x52 2 r → r.len ≠ 3 ∨ pay r 0 1 = 0 ∨ 3 < pay r 0 1 → ∃ t, Gives i s t ∧ Answered s t m 0x52 3 r [] ∧ t.stopes = s.stopes) ∧
    (served s m = false → Gives i s s)) ∧
  (r.len = 3 → (pay r 0 1 = 1 ∨ pay r 0 1 = 2 → Gives (.resetStope m r) s s) ∧
    (pay r 0 1 = 1 ∨ pay r 0 1 = 3 → ∀ fails, Gives (.resetLevel m r fails) s s) ∧
    (pay r 0 1 = 2 ∨ pay r 0 1 = 3 → ∀ e, Gives (.resetDevice m r e) s s))

/-! ## Snapshots, identity and firmware -/

/-- The state with one NVMe command on its way to a drive, its completion awaited (R373, R374). -/
def withNvme (u : State) (drive : Nat) (c : Nvme) (seg : Option Nat) : State :=
  { u with
    snap := { u.snap with waits := u.snap.waits ++ [{ drive := drive, cmd := c, since := u.now, seg := seg }] }, out := .nvme drive c :: u.out }

/-- What the end of an operation leaves of the engine: nothing staged, listed or awaited, the result in SNP_LAST (R382, R387). -/
def engineDone (n : Snap) (result seg : Nat) : Snap :=
  { n with
    op := 0, last := snapLast result n.isRestore n.slot seg, todo := [], staged := [], segs := [], old := {}, phase := 1, waits := []
    restarted := false, segTodo := [], mismatched := [] }

/-- R375, R378, R379: SNAP takes a plan that keeps its rules and waits for its round; from the round's decision on the granules of its
regions are copied into the stage one by one with their sidecar entries; a granule that stays uncorrectable ends the snapshot with MEM and
leaves a fault record, whose arguments are free (log 13). That the plan is judged as SNAP is accepted is the model's reading (log 31), as is what a row that cannot happen
leaves (log 1). -/
def SnapshotsAreStaged : Prop := ∀ (m : Nat) (r : Req) (s : State),
  let pa := pay r 0 8
  let w := extendRound (pay r 8 4) s.rnd.round
  let u := beginStaging s
  (Stands s m 0x60 2 r → r.len ≠ 12 ∨ addrOk s pa 64 = false ∨ w < (s.rnd.round : Int) →
    ∃ t, Gives (.snap m r) s t ∧ Answered s t m 0x60 3 r [] ∧ t.snap = s.snap) ∧
  (Stands s m 0x60 2 r → r.len = 12 → addrOk s pa 64 = true → (s.rnd.round : Int) ≤ w →
    (s.snap.op ≠ 0 → ∃ t, Gives (.snap m r) s t ∧ Answered s t m 0x60 7 r [] ∧ t.snap = s.snap) ∧
    (s.snap.op = 0 → (planOf s pa).2.2 = 0 → ∃ t, Gives (.snap m r) s t ∧ Answered s t m 0x60 0 r [] ∧
      t.snap.op = (if decidedBy s (w.toNat % 2 ^ 48) then 2 else 1) ∧ t.snap.round = s.rnd.lastCommit ∧
      t.snap.atRound = w.toNat % 2 ^ 48 ∧ t.snap.regions = (planOf s pa).1 ∧ t.snap.tensors = (planOf s pa).2.1 ∧
      t.snap.todo = granuleList (planOf s pa).1 ∧ t.snap.slot = targetSlot s.snap ∧ t.snap.isRestore = false ∧
      t.snap.slotA = s.snap.slotA ∧ t.snap.slotB = s.snap.slotB ∧ t.cmds = s.cmds) ∧
    (s.snap.op = 0 → (planOf s pa).2.2 ≠ 0 → ∃ t, Gives (.snap m r) s t ∧ Sent s t m (IsReply 0x60 0 r []) ∧ t.snap.op = 0 ∧
      t.snap.last = snapLast (planOf s pa).2.2 false (targetSlot s.snap) 0)) ∧
  (s.snap.op = 1 → decidedBy s s.snap.atRound = true → u = { s with snap := { s.snap with
    op := 2, round := s.rnd.lastCommit, committed := decide (s.rnd.lastCommit = s.snap.atRound) } }) ∧
  (s.snap.op ≠ 1 ∨ decidedBy s s.snap.atRound = false → u = s) ∧
  (∀ ecc, tramsOff s = true ∨ asleep s = true → Gives (.snapshotStaging ecc) s s) ∧
  (tramsOff s = false → asleep s = false →
    (∀ ecc, u.snap.op ≠ 2 ∨ u.snap.todo = [] → Gives (.snapshotStaging ecc) s u) ∧
    (∀ ecc k o rest, ecc ≠ .bad → u.snap.op = 2 → u.snap.todo = (k, o) :: rest → o % 4096 = 0 → poisoned s (hbmAddr k o) 4096 = false →
      Gives (.snapshotStaging ecc) s { hbmEcc u k (pcOf o) ecc with snap := { u.snap with
        todo := u.snap.todo.filter (fun t => decide (t ≠ (k, o)))
        staged := u.snap.staged ++
          [(hbmAddr k o, cellsAt (hbmAddr k o) ((List.range 4096).map (fun j => cellAt s.mem (hbmAddr k (o + j)))), sideEntry s (hbmAddr k o))]
        stagedBytes := u.snap.stagedBytes + 4096 } }) ∧
    (∀ ecc k o rest, u.snap.op = 2 → u.snap.todo = (k, o) :: rest → ecc = .bad ∨ poisoned s (hbmAddr k (o / 4096 * 4096)) 4096 = true →
      ∃ t, Gives (.snapshotStaging ecc) s t ∧ t.snap = engineDone u.snap 4 0 ∧ (s.flt.takeover = none → s.flt.count < t.flt.count)))

/-- R373, R376, R381, R382, R384: the drain reads the old manifest when its slot is valid, writes a header of zeros, which empties the slot,
writes segment after segment but for those that the old manifest already holds, flushes every drive, writes the body, flushes drive 0 and
writes the header; each step awaits the completion of the one before, and the slot becomes valid with the header's. The body follows the
two blocks that the header takes (the model's choice, log 51), the first sequence number is the model's choice (log 31), and a row that
cannot happen leaves the state as it is (log 1). -/
def SnapshotsDrain : Prop := ∀ (s : State),
  let n := s.snap
  let x := slotNo n n.slot
  let first := n.slot * n.half
  (tramsOff s = true ∨ headsUp s = false ∨ s.flt.takeover.isSome = true ∨ n.rate = 0 ∨ (n.op ≠ 2 ∧ n.op ≠ 3) ∨ (n.op = 2 ∧ n.todo ≠ []) ∨
    (n.waits ≠ [] ∧ (n.phase ≠ 3 ∨ n.segs = [] ∨ (segmentsIn n.regions)[n.segs.length]? = none)) → Gives .snapshotDrain s s) ∧
  (tramsOff s = false → headsUp s = true → s.flt.takeover = none → n.rate ≠ 0 → n.op = 3 ∨ (n.op = 2 ∧ n.todo = []) →
  (n.waits = [] →
    (n.phase = 1 → slotUsable n n.slot = true → Gives .snapshotDrain s
      (withNvme { s with snap := { n with op := 3, old := x, phase := 2 } } 0 (.read (first + 2) (blocksFor (slotBodyLen x))) none)) ∧
    (n.phase = 1 → slotUsable n n.slot = false → Gives .snapshotDrain s { s with snap := { n with op := 3, old := {}, phase := 2 } }) ∧
    (n.phase = 2 → Gives .snapshotDrain s (withNvme { s with
      snap := { putUsable (putSlotNo n n.slot { x with header := [] }) n.slot false with phase := 3 } } 0 (.write first 2 true) none)) ∧
    (n.phase = 3 → (segmentsIn n.regions)[n.segs.length]? = none → ∃ t, Gives .snapshotDrain s t ∧ { t with snap := n, out := s.out } = s ∧
      t.snap = { n with
        phase := 5, waits := (List.range n.drives).map (fun d => { drive := d, cmd := .flush, since := s.now, seg := none }) } ∧
      t.out = ((List.range n.drives).map (fun d => Out.nvme d .flush)).reverse ++ s.out) ∧
    (n.phase = 5 →
      let bs := bodyBytes n.regions (manifestTensors s) n.segs
      Gives .snapshotDrain s (withNvme { s with snap := { putSlotNo n n.slot { x with body := bs } with phase := 6 } } 0
        (.write (first + 2) (blocksFor bs.length) false) none)) ∧
    (n.phase = 6 → Gives .snapshotDrain s (withNvme { s with snap := { n with phase := 7 } } 0 .flush none)) ∧
    (n.phase = 7 → Gives .snapshotDrain s (withNvme { s with snap := { n with phase := 8 } } 0 (.write first 2 true) none))) ∧
  (∀ g, n.phase = 3 → n.waits = [] ∨ n.segs ≠ [] → (segmentsIn n.regions)[n.segs.length]? = some g →
    let b := buildSegment s n.segs.length g
    (unchanged n b.1 = true → Gives .snapshotDrain s { s with snap := { n with
      segs := n.segs ++ [b.1], digested := n.digested + segBytes b.1, skipped := n.skipped + 1 } }) ∧
    (unchanged n b.1 = false → Gives .snapshotDrain s (withNvme { s with snap := { putSlotNo n n.slot (putDiskSeg x b.2) with
      segs := n.segs ++ [b.1], digested := n.digested + segBytes b.1, written := n.written + segBytes b.1 } }
      b.1.drive (.write b.1.lba 16416 false) none)))) ∧
  (∀ drive w disturbed, headsUp s = true → s.flt.takeover = none → tramsOff s = false → oldestJob n drive = some w → n.op = 3 →
    (n.phase ≠ 8 → Gives (.nvmeCompletion drive true disturbed) s { s with snap := { n with waits := n.waits.erase w } }) ∧
    (n.phase = 8 → ∃ t, Gives (.nvmeCompletion drive true disturbed) s t ∧ t.snap = engineDone (putUsable (putSlotNo n n.slot
        { x with header := headerBytes s }) n.slot true) 0 0 ∧
      (let y := slotNo t.snap n.slot
      slotSeq y = (match newerSlot n with | some i => slotSeq (slotNo n i) + 1 | none => 1) % 2 ^ 64 ∧ slotRound y = n.round % 2 ^ 48 ∧
      slotUnsigned y = !hasKey s ∧ slotRegCount y = n.regions.length % 2 ^ 16 ∧ slotTenCount y = n.tensors.length % 2 ^ 32 ∧
      slotSegCount y = n.segs.length % 2 ^ 32 ∧ slotBodyLen y = x.body.length % 2 ^ 32)))

/-- R374, R386: a restore that is not refused reads its manifest again and judges it; then it reads every segment of the selected regions
from its drive; each comes into the stage, one whose digest mismatches is read once more and ends the restore the second time; a failed
or late NVMe command ends the operation with MEDIA. That commands of a drive complete in their order is the model's reading (log 31), and
a row that cannot happen leaves the state as it is (log 1). -/
def RestoresRead : Prop := ∀ (m drive i : Nat) (r : Req) (w : NvmeJob) (g : Segm) (s : State),
  let n := s.snap
  let x := slotNo n (pay r 0 1)
  let y := slotNo n n.slot
  let d := { s with snap := { n with waits := n.waits.erase w } }
  let good := r.len = 10 ∧ pay r 0 1 ≤ 1 ∧ pay r 1 1 ≤ 3
  let free := working s = false ∧ s.rnd.backfill = false ∧ n.op = 0
  (Stands s m 0x62 2 r →
    (¬ good ∨ (free ∧ slotUsable n (pay r 0 1) = false) → ∃ t, Gives (.restore m r) s t ∧ Answered s t m 0x62 3 r [] ∧ t.snap = n) ∧
    (good → ¬ free → ∃ t, Gives (.restore m r) s t ∧ Answered s t m 0x62 7 r [] ∧ t.snap = n) ∧
    (good → free → slotUsable n (pay r 0 1) = true → ∃ t, Gives (.restore m r) s t ∧ Answered s t m 0x62 0 r [] ∧
      t.snap.op = 4 ∧ t.snap.isRestore = true ∧ t.snap.slot = pay r 0 1 ∧ t.snap.mask = pay r 2 8 ∧ t.snap.staged = [] ∧
      t.snap.foreignOk = bit (pay r 1 1) 0 ∧ t.snap.unsignedOk = bit (pay r 1 1) 1 ∧
      t.snap.waits = [⟨0, .read (pay r 0 1 * n.half) 2, s.now, none⟩, ⟨0, .read (pay r 0 1 * n.half + 2) (blocksFor (slotBodyLen x)), s.now, none⟩])) ∧
  (headsUp s = true → s.flt.takeover = none → tramsOff s = false → oldestJob n drive = some w →
    (∀ disturbed, n.op = 4 → w.seg = none → n.waits.erase w ≠ [] → Gives (.nvmeCompletion drive true disturbed) s d) ∧
    (∀ disturbed, n.op = 4 → w.seg = none → n.waits = [w] →
      let v := { d with snap := { d.snap with round := slotRound y, regions := slotRegions y, tensors := slotTensors y } }
      ∃ t, Gives (.nvmeCompletion drive true disturbed) s t ∧
        (∀ res, restoreRefusal v y = some res → t.snap = engineDone v.snap res 0 ∧
          (∀ pa k o, locate s pa = .hbm k o → byteAt t pa = byteAt s pa)) ∧
        (restoreRefusal v y = none → pickedSegs v.snap y = [] → t.snap.op = 0 ∧ t.snap.last = snapLast 0 n.isRestore n.slot 0) ∧
        (restoreRefusal v y = none → pickedSegs v.snap y ≠ [] → t.snap.op = 4 ∧ t.snap.segTodo = pickedSegs v.snap y ∧
          t.snap.waits = (pickedSegs v.snap y).filterMap (fun j =>
            ((slotSegs y)[j]?).map (fun h => ⟨h.drive, .read h.lba 16416, s.now, some j⟩)))) ∧
    (n.op = 4 → w.seg = some i → (slotSegs y)[i]? = some g →
      let base := ((n.regions[g.region]?).getD (0, 0)).1
      let data := diskBytes (diskSegOf y g) g.len
      let side := (List.range (g.len / 4096)).map (fun j => ((diskSegOf y g).side[j]?).getD 0)
      let fine := segDigest data side base g.offset = g.digest
      (fine → n.segTodo.erase i ≠ [] → Gives (.nvmeCompletion drive true false) s { d with snap := { d.snap with
        segTodo := n.segTodo.erase i, digested := n.digested + segBytes g, stagedBytes := n.stagedBytes + g.len
        staged := n.staged ++ stageSegment s base g data side } }) ∧
      (∀ disturbed, disturbed = true ∨ ¬ fine → n.mismatched.contains i = false → Gives (.nvmeCompletion drive true disturbed) s
        (withNvme { d with snap := { d.snap with digested := n.digested + segBytes g, mismatched := n.mismatched ++ [i] } }
          g.drive (.read g.lba 16416) (some i))) ∧
      (∀ disturbed, disturbed = true ∨ ¬ fine → n.mismatched.contains i = true → ∃ t, Gives (.nvmeCompletion drive true disturbed) s t ∧
        t.snap = engineDone { d.snap with digested := n.digested + segBytes g } 6 i)) ∧
    (∀ disturbed, ∃ t, Gives (.nvmeCompletion drive false disturbed) s t ∧ t.snap = engineDone d.snap 5 0)) ∧
  (headsUp s = true → oldestJob n drive = some w → ∃ t, Gives (.nvmeTimeout drive) s t ∧ w.since + 10000000000 ≤ t.now ∧
    t.snap = engineDone (advance s (w.since + 10000000000)).snap 5 0) ∧
  (∀ ok disturbed, headsUp s = false ∨ s.flt.takeover.isSome = true ∨ tramsOff s = true ∨ oldestJob n drive = none →
    Gives (.nvmeCompletion drive ok disturbed) s s) ∧
  (headsUp s = false ∨ oldestJob n drive = none → Gives (.nvmeTimeout drive) s s)

/-- R280, R386: with its last segment a restore puts the granules of the stage and their sidecar entries back in their places, and then
the records of its tensors; no save of the gob that a later drop would write back over a restored granule remains. -/
def RestoresWriteBack : Prop := ∀ (drive i : Nat) (w : NvmeJob) (g : Segm) (s : State),
  let n := s.snap
  let y := slotNo n n.slot
  let base := ((n.regions[g.region]?).getD (0, 0)).1
  let data := diskBytes (diskSegOf y g) g.len
  let side := (List.range (g.len / 4096)).map (fun j => ((diskSegOf y g).side[j]?).getD 0)
  let grans := n.staged ++ stageSegment s base g data side
  let recs := (pickedTensors n).filter (fun x => decide (x.recPa ≠ 0))
  headsUp s = true → s.flt.takeover = none → tramsOff s = false → n.op = 4 → oldestJob n drive = some w → w.seg = some i → n.segTodo = [i] →
  (slotSegs y)[i]? = some g → segDigest data side base g.offset = g.digest →
  (grans.map (·.1)).Nodup → (∀ e ∈ grans, ∃ k o, e.1 = hbmAddr k o ∧ k < 16 ∧ o < dataEnd s k ∧ o % 4096 = 0) →
  (∀ x ∈ recs, x.recData.length = 128 ∧ (∃ k o, x.recPa = hbmAddr k o ∧ k < 16 ∧ o + 128 ≤ dataEnd s k) ∧
    ∀ z ∈ recs, z = x ∨ z.recPa + 128 ≤ x.recPa ∨ x.recPa + 128 ≤ z.recPa) →
  ∃ t, Gives (.nvmeCompletion drive true false) s t ∧ t.snap.op = 0 ∧ t.snap.last = snapLast 0 n.isRestore n.slot 0 ∧
    (∀ e ∈ grans, (∀ j, j < 4096 → (∀ x ∈ recs, ¬ (x.recPa ≤ e.1 + j ∧ e.1 + j < x.recPa + 128)) →
      byteAt t (e.1 + j) = cellAt e.2.1 (e.1 + j)) ∧ sideEntry t e.1 = e.2.2) ∧
    (∀ e ∈ grans, ∀ k o, e.1 = hbmAddr k o → k < 16 → o < dataEnd s k → ∀ v ∈ (stackOf t k).saved, v.offset ≠ o) ∧
    (∀ x ∈ recs, readBytes t x.recPa 128 = x.recData) ∧ t.stopes = s.stopes ∧ t.cmds = s.cmds

/-- R383, R387, R397: the loss of the snapshot link shows in rate and width and ends an unfinished drain with ABORTED; a note goes out
only when a failover had restarted the drain. -/
def LinkLossEndsTheDrain : Prop := ∀ (s : State),
  (s.snap.op ≠ 3 → Gives .snapshotLinkLoss s { s with snap := { s.snap with rate := 0, width := 0 } }) ∧
  (s.snap.op = 3 → s.snap.restarted = false → Gives .snapshotLinkLoss s { s with
    snap := { engineDone s.snap 1 0 with rate := 0, width := 0 } }) ∧
  (s.snap.op = 3 → s.snap.restarted = true → ∃ t, Gives .snapshotLinkLoss s t ∧
    t.snap = { engineDone s.snap 1 0 with rate := 0, width := 0 } ∧
    (∀ k, k < 8 → CanPost s k → 2 ≤ (mbxOf s k).version → Sent s t k (fun m => m.typ = 0x61 ∧ m.note = true)))

/-- R385, R389, R395, R396: SLOT_INFO shows both slots; a quote is written where the request says, over the device's state and the
host's nonce, and refused without an identity; CERT_READ writes the certificates; a malformed request is BAD_FIELD. -/
def QuotesAndCertificates : Prop := ∀ (m : Nat) (r : Req) (s : State),
  let n := Config.certificates.length
  (Stands s m 0x63 2 r →
    (r.len = 0 → ∃ t, Gives (.slotInfo m r) s t ∧ Answered s t m 0x63 0 r (slotInfoBytes s 0 ++ slotInfoBytes s 1) ∧ t.snap = s.snap) ∧
    (r.len ≠ 0 → ∃ t, Gives (.slotInfo m r) s t ∧ Answered s t m 0x63 3 r [] ∧ t.snap = s.snap)) ∧
  (Stands s m 0x64 2 r →
    (r.len ≠ 40 ∨ addrOk s (pay r 32 8) 3821 = false → ∃ t, Gives (.quote m r) s t ∧ Answered s t m 0x64 3 r [] ∧ t.freeCtr = s.freeCtr) ∧
    (r.len = 40 → addrOk s (pay r 32 8) 3821 = true →
      (hasKey s = true → ∃ t, Gives (.quote m r) s t ∧ Sent s t m (IsReply 0x64 0 r (toBytes 2 3821)) ∧
        (s.snap.op ≠ 2 → Answered s t m 0x64 0 r (toBytes 2 3821)) ∧
        readBytes t (pay r 32 8) 3821 = quoteBytes s ((payloadOf r).take 32) ++
          fixedBytes 3309 (Config.signature s.freeCtr (quoteBytes s ((payloadOf r).take 32))) ∧
        t.trust = s.trust ∧ t.cmds = s.cmds) ∧
      (hasKey s = false → ∃ t, Gives (.quote m r) s t ∧ Answered s t m 0x64 7 r [] ∧ t.trust = s.trust ∧ t.freeCtr = s.freeCtr))) ∧
  (Stands s m 0x65 2 r →
    (r.len ≠ 8 ∨ addrOk s (pay r 0 8) (max n 1) = false → ∃ t, Gives (.certRead m r) s t ∧ Answered s t m 0x65 3 r [] ∧ t.trust = s.trust) ∧
    (r.len = 8 → addrOk s (pay r 0 8) (max n 1) = true → ∃ t, Gives (.certRead m r) s t ∧ t.trust = s.trust ∧
      Sent s t m (IsReply 0x65 0 r (toBytes 2 n)) ∧ (s.snap.op ≠ 2 → Answered s t m 0x65 0 r (toBytes 2 n)) ∧
      readBytes t (pay r 0 8) n = Config.certificates))

/-- R391, R394: an image that verifies goes pending into the slot that does not run, BUSY while a slot is pending; FW_COMMIT raises the
fuses to the running image's security version once it is confirmed; a configuration record that verifies and is newer replaces the
older copy; what fails is BAD_FIELD. -/
def FirmwareAndConfigurationUpdate : Prop := ∀ (m : Nat) (r : Req) (s : State),
  let pa := pay r 0 8
  let n := pay r 8 4
  let good := r.len = 12 ∧ n ≠ 0 ∧ n ≤ 28 * 2 ^ 20 - 4096 ∧ addrOk s pa n = true
  let pending := s.trust.fwA.pending = true ∨ s.trust.fwB.pending = true
  (Stands s m 0x66 2 r →
    (¬ good → ∃ t, Gives (.fwUpdate m r) s t ∧ Answered s t m 0x66 3 r [] ∧ t.trust = s.trust) ∧
    (good → pending → ∃ t, Gives (.fwUpdate m r) s t ∧ Answered s t m 0x66 7 r [] ∧ t.trust = s.trust) ∧
    (good → ¬ pending →
      (let ok := imagePasses s.trust.fuses (readBytes s pa n)
      ∃ t, Gives (.fwUpdate m r) s t ∧ Answered s t m 0x66 (if ok then 0 else 3) r [] ∧ t.cmds = s.cmds ∧
        t.trust = (if ok then putFwSlot s.trust (!s.trust.runningB) (imageSlot (readBytes s pa n)) else s.trust)))) ∧
  (Stands s m 0x67 2 r →
    (r.len ≠ 0 → ∃ t, Gives (.fwCommit m r) s t ∧ Answered s t m 0x67 3 r [] ∧ t.trust = s.trust) ∧
    (r.len = 0 → (fwSlot s.trust s.trust.runningB).confirmed = true → ∃ t, Gives (.fwCommit m r) s t ∧ Answered s t m 0x67 0 r [] ∧
      t.trust = { s.trust with fuses := max s.trust.fuses (slotSvn (fwSlot s.trust s.trust.runningB)) }) ∧
    (r.len = 0 → (fwSlot s.trust s.trust.runningB).confirmed = false → ∃ t, Gives (.fwCommit m r) s t ∧ Answered s t m 0x67 7 r [] ∧
      t.trust = s.trust)) ∧
  (Stands s m 0x68 2 r →
    (r.len ≠ 12 ∨ n ≠ 3597 ∨ addrOk s pa 3597 = false → ∃ t, Gives (.cfgUpdate m r) s t ∧ Answered s t m 0x68 3 r [] ∧ t.trust = s.trust) ∧
    (r.len = 12 → n = 3597 → addrOk s pa 3597 = true →
      (let ok := recordNewer s (readBytes s pa 3597)
      ∃ t, Gives (.cfgUpdate m r) s t ∧ Answered s t m 0x68 (if ok then 0 else 3) r [] ∧ t.conf = s.conf ∧
        t.trust = (if ok = false then s.trust
          else if olderCopy s then { s.trust with conf1 := readBytes s pa 3597 } else { s.trust with conf0 := readBytes s pa 3597 }))))

/-! ## Ports, messages and queries -/

/-- From u to t only port p changes, to x, and `o` leaves. -/
def OnlyPort (u t : State) (p : Nat) (x : Port) (o : List Out) : Prop :=
  { t with ports := [], out := [] } = { u with ports := [], out := [] } ∧ portOf t p = x ∧ (∀ q, q ≠ p → portOf t q = portOf u q) ∧
  t.out = o ++ u.out

/-- From u to t port p has gone down, and the hoists have taken note of it; every other port keeps its state. -/
def PortFell (u t : State) (p : Nat) : Prop :=
  (portOf t p).state = .down ∧ (portOf t p).gen = 0 ∧ (portOf t p).lanes = 0 ∧ (portOf t p).buffer = [] ∧ (portOf t p).sendq = [] ∧
  (∀ q, q ≠ p → (portOf t q).state = (portOf u q).state ∧ (portOf t q).cfg = (portOf u q).cfg)

/-- Nothing stands before message m at a port, and its channel has credit for all of it: it leaves at once, whole (R236, R238, R242,
R249). -/
def Sendable (x : Port) (m : FabMsg) : Prop :=
  carriesType x m.typ = true ∧ x.sendq = [] ∧ x.retiring = none ∧ x.buffer.length + flitsOf m.payload.length ≤ 1024 ∧
  (x.buffer.filter (fun k => decide (k.vc = vcOf m.typ))).length + flitsOf m.payload.length ≤ channelRoom (vcOf m.typ)

/-- The flits of its replay buffer that a port carries in its state: on a Vigil lane those of control flits and VC0 (R249). -/
def carriedFlits (x : Port) : Nat := (x.buffer.filter (fun k => decide (x.state ≠ .vigil ∨ k.vc = 4 ∨ k.vc = 0))).length

/-- R235 to R237, R239, R249: a port is configured, trains with its CAPS, sent again every 10 µs until one comes, settles generation and
lanes with its partner's and carries flits at READY; without a common generation or lane set a training port goes down; a retraining
one resends what its buffer holds. CAPS with one common lane take a port that runs to its Vigil lane; CAPS with more are answered there with
CAPS, and with READY when generation and lanes are common; each of these flits is counted as received. How the lanes come back is the
model's reading (log 34), and a row that cannot happen leaves the state as it is (log 1). -/
def PortsTrain : Prop := ∀ (p : Nat) (v : Word32) (c : Caps) (s : State),
  let x := portOf s p
  let trains := x.state = .training ∨ x.state = .retraining
  let again := fun (u : State) => if (portOf u p).capsSeen then 0 else (u.now - (portOf u p).trainAt - 1) / 10000
  let repeated := fun (n : Nat) => if n = 0 then [] else [Out.capsAgain p n]
  let begun := fun (y : Port) (u : State) (n : Nat) => { y with
    state := .training, live := y.cfg, trainAt := u.now, capsSeen := false, tx := y.tx + 272 * n + 272 }
  let first := fun (y : Port) (u : State) => Out.caps p { gen := cfgMaxGen y.cfg, lanes := usableLanes y, three := true, dev := u.fabId }
  let raw := { x with rx := x.rx + 272 }
  let common := usableLanes x &&& (c.lanes % 16)
  let ls := chosenLanes common c.three
  let g := min (cfgMaxGen x.live) c.gen
  (p < 12 → headsUp s = true → bit v.toNat 0 = true → Gives (.uasCfgWrite p v) s (putPort s p { x with cfg := v &&& 0x3FF })) ∧
  (p < 12 → headsUp s = true → bit v.toNat 0 = false → ∃ t, Gives (.uasCfgWrite p v) s t ∧ PortFell s t p ∧ (portOf t p).cfg = v &&& 0x3FF ∧
    { t with ports := [], levels := [], out := [] } = { s with ports := [], levels := [], out := [] }) ∧
  (12 ≤ p ∨ headsUp s = false → Gives (.uasCfgWrite p v) s s) ∧
  (p < 12 → x.state = .down → bit x.cfg.toNat 0 = true → usableLanes x ≠ 0 → headsUp s = true → s.boot.steps.contains .calibrate = false →
    ∃ t, Gives (.portTrain p) s t ∧ OnlyPort s t p (begun x s 0) [first x s]) ∧
  (12 ≤ p ∨ x.state ≠ .down ∨ bit x.cfg.toNat 0 = false ∨ usableLanes x = 0 ∨ headsUp s = false ∨
    s.boot.steps.contains .calibrate = true → Gives (.portTrain p) s s) ∧
  (x.state = .training → x.capsSeen = false →
    let u := advance s (x.trainAt + 100000000)
    let y := portOf u p
    ∃ t, Gives (.trainRetry p) s t ∧ OnlyPort u t p (begun y u (again u)) (first y u :: repeated (again u))) ∧
  (x.state ≠ .training ∨ x.capsSeen = true → Gives (.trainRetry p) s s) ∧
  (trains → g ≠ 0 → ls ≠ 0 → ∃ t, Gives (.caps p c) s t ∧ OnlyPort s t p
    { raw with gen := g, lanes := ls, partner := c.dev % 4096, capsSeen := true, tx := x.tx + 272 * again s + 272 }
    (.ready p :: repeated (again s))) ∧
  (x.state = .training → g = 0 ∨ ls = 0 → ∃ t, Gives (.caps p c) s t ∧ PortFell s t p) ∧
  (x.state = .retraining → g = 0 ∨ ls = 0 → Gives (.caps p c) s (putPort s p raw)) ∧
  (x.state = .down → Gives (.caps p c) s s) ∧
  (x.state = .up → Gives (.caps p c) s
    (putPort s p (if laneCount common = 1 then { raw with state := .vigil, lanes := lowestLane common } else raw))) ∧
  (x.state = .vigil →
    let own := Out.caps p { gen := cfgMaxGen x.cfg, lanes := usableLanes x, three := true, dev := s.fabId }
    let y := { raw with state := .retraining, live := x.cfg, trainAt := s.now, capsSeen := false, tx := x.tx + 272 }
    let h := min (cfgMaxGen x.cfg) c.gen
    (laneCount common ≤ 1 ∨ s.power = .vigil ∨ s.flt.safeHalt = true → Gives (.caps p c) s (putPort s p raw)) ∧
    (1 < laneCount common → s.power ≠ .vigil → s.flt.safeHalt = false →
      (h = 0 ∨ ls = 0 → ∃ t, Gives (.caps p c) s t ∧ OnlyPort s t p y [own]) ∧
      (h ≠ 0 → ls ≠ 0 → ∃ t, Gives (.caps p c) s t ∧ OnlyPort s t p
        { y with gen := h, lanes := ls, partner := c.dev % 4096, capsSeen := true, tx := x.tx + 544 } [.ready p, own]))) ∧
  (x.capsSeen = true → x.state = .training → ∃ t, Gives (.ready p) s t ∧ (portOf t p).state = .up ∧ (portOf t p).capsSeen = false ∧
    (portOf t p).lastValid = s.now ∧ (portOf t p).ackedSeq = 0 ∧ (portOf t p).recvSeq = 0 ∧
    ((∀ n, n < 8 → (levelOf s n).up = false ∧ (hoistOf s n).waiting = []) → OnlyPort s t p
      { raw with state := .up, capsSeen := false, lastValid := s.now, sendSeq := 0, ackedSeq := 0, recvSeq := 0, buffer := [], sendq := [] } [])) ∧
  (x.capsSeen = true → x.state = .retraining → ∃ t, Gives (.ready p) s t ∧ (portOf t p).state = .up ∧ (portOf t p).capsSeen = false ∧
    (portOf t p).lastValid = s.now ∧ (portOf t p).ackedSeq = x.ackedSeq ∧ (portOf t p).recvSeq = x.recvSeq ∧
    ((∀ n, n < 8 → (levelOf s n).up = false ∧ (hoistOf s n).waiting = []) → x.sendq = [] → x.buffer ≠ [] → OnlyPort s t p
      { raw with
        state := .up, capsSeen := false, lastValid := s.now, replay := satAdd 32 x.replay x.buffer.length
        tx := x.tx + 272 * x.buffer.length } [.resend p ((x.ackedSeq + 1) % 4096)])) ∧
  (x.state = .down → Gives (.ready p) s s) ∧
  (x.state ≠ .down → x.capsSeen = false ∨ ¬ trains → Gives (.ready p) s (putPort s p raw))

/-- R234, R238 to R240: the next flit in sequence is taken, its acknowledgement frees the replay buffer and what waited leaves; a bad
one is answered with NAK and those after it discarded; the third in a row retrains the port; a NAK resends what the buffer holds; the
corrected bytes are counted by the lane that carried them, two of a codeword at most. The bytes that arrive wrong are the row's operand (the
model's choice, log 20). -/
def FlitsAreChecked : Prop := ∀ (p : Nat) (f : Flit) (s : State),
  let x := portOf s p
  let kept := x.window.filter (fun w => decide (s.now < w.1 + 1000000000))
  let next := f.seq % 4096 = (x.recvSeq + 1) % 4096
  let acked := takeAck x f.ack
  let cured := fun (l : Nat) => ((correctedBytes f).filter (fun b => decide (laneOfByte x b = l))).length
  (carries x = false → Gives (.flitReceive p f) s s ∧ ∀ ack, Gives (.nak p ack) s s) ∧
  (carries x = true → ∃ t, Gives (.flitReceive p f) s t ∧ ∀ l, l < 4 → tget (portOf t p).corr 0 l =
    if cured l = 0 then tget x.corr 0 l else satAdd 32 (tget x.corr 0 l) (cured l)) ∧
  (carries x = true → f.errs = [] → x.crcFail < 2 ^ 32 → (∀ l, l < 4 → laneOver x s.now l = false) →
    (flitSound f = true → next → f.nak = false →
      let y := { acked with window := kept, recvSeq := f.seq % 4096, discarding := false, fails := 0, lastValid := s.now, rx := x.rx + 272 }
      (x.sendq = [] → ∃ t, Gives (.flitReceive p f) s t ∧ OnlyPort s t p y []) ∧
      (∀ q, x.sendq = [q] → q.vc ≤ 4 → q.sent = 0 → q.flits = 1 → mayLeave y q = true → acked.buffer.length < 1024 →
        ∃ t, Gives (.flitReceive p f) s t ∧ t.out = q.out :: s.out ∧ (portOf t p).sendq = [] ∧ (portOf t p).recvSeq = y.recvSeq ∧
          (portOf t p).sendSeq = (x.sendSeq + 1) % 4096 ∧ (portOf t p).tx = x.tx + 272 ∧
          (portOf t p).buffer = acked.buffer ++ [{ seq := (x.sendSeq + 1) % 4096, vc := q.vc, som := true, eom := true, out := q.out, part := 0 }])) ∧
    (flitSound f = true → next → f.nak = true → x.sendq = [] → carriedFlits acked ≠ 0 → ∃ t, Gives (.flitReceive p f) s t ∧ OnlyPort s t p
      { acked with
        window := kept, recvSeq := f.seq % 4096, discarding := false, fails := 0, lastValid := s.now, rx := x.rx + 272
        replay := satAdd 32 x.replay (carriedFlits acked), tx := x.tx + 272 * carriedFlits acked }
      [.resend p ((acked.ackedSeq + 1) % 4096)]) ∧
    (flitSound f = false → (x.discarding = false ∨ next) → x.fails < 2 → ∃ t, Gives (.flitReceive p f) s t ∧
      (portOf t p).crcFail = satAdd 32 x.crcFail 1 ∧ (portOf t p).rx = x.rx + 272 ∧ (portOf t p).fails = x.fails + 1 ∧ (portOf t p).discarding = true ∧
      (portOf t p).recvSeq = x.recvSeq ∧ (portOf t p).state = x.state ∧ (Clear x → t.out = .nak p x.recvSeq :: s.out)) ∧
    (flitSound f = false → (x.discarding = false ∨ next) → 2 ≤ x.fails → ∃ t, Gives (.flitReceive p f) s t ∧
      (portOf t p).state = .retraining ∧ (portOf t p).retrains = satAdd 8 x.retrains 1 ∧ (portOf t p).trainAt = s.now ∧
      (portOf t p).buffer = x.buffer ∧ (portOf t p).sendq = x.sendq) ∧
    (flitSound f = true → ¬ next → x.discarding = false → x.fails < 3 → ∃ t, Gives (.flitReceive p f) s t ∧
      (portOf t p).fails = x.fails ∧ (portOf t p).discarding = true ∧ (portOf t p).recvSeq = x.recvSeq ∧ (portOf t p).state = x.state ∧
      (Clear x → t.out = .nak p x.recvSeq :: s.out)) ∧
    (¬ next → x.discarding = true → Gives (.flitReceive p f) s (putPort s p { x with
      window := kept, rx := x.rx + 272, crcFail := satAdd 32 x.crcFail (b2n (!flitSound f)) }))) ∧
  (∀ ack, carries x = true → x.sendq = [] →
    let y := takeAck x ack
    (carriedFlits y ≠ 0 → ∃ t, Gives (.nak p ack) s t ∧ OnlyPort s t p
      { y with replay := satAdd 32 x.replay (carriedFlits y), tx := x.tx + 272 * carriedFlits y } [.resend p ((y.ackedSeq + 1) % 4096)]) ∧
    (carriedFlits y = 0 → Gives (.nak p ack) s (putPort s p y)))

/-- R239 to R241: a silent port retrains, one not up again in time goes down with a record; a lane retired by both ends leaves the
link on three lanes, one refused ends it; a retirement that the partner starts is acknowledged on four lanes and refused on three. What
the partner's row means when the device has asked for no lane is the model's reading (log 34). -/
def LinksFailAndLoseLanes : Prop := ∀ (p lane : Nat) (s : State),
  let x := portOf s p
  (x.state = .up →
    let u := advance s (x.lastValid + 10000)
    let y := portOf u p
    ∃ t, Gives (.linkSilence p) s t ∧ OnlyPort u t p { y with
      state := .retraining, live := y.cfg, trainAt := u.now, capsSeen := false, fails := 0, discarding := false
      retrains := satAdd 8 y.retrains 1, tx := y.tx + 272 }
      [.caps p { gen := cfgMaxGen y.cfg, lanes := usableLanes y, three := true, dev := u.fabId }]) ∧
  (x.state ≠ .up → Gives (.linkSilence p) s s ∧ ∀ accept, Gives (.laneRetire p lane accept) s s) ∧
  (x.state = .retraining →
    let u := advance s (x.trainAt + 160000000)
    ∃ t, Gives (.uasLinkDown p) s t ∧ t.now = u.now ∧ PortFell u t p ∧ (portOf t p).downs = satAdd 8 (portOf u p).downs 1 ∧
      (u.flt.takeover = none → t.flt.count = u.flt.count + 1)) ∧
  (x.state ≠ .retraining → Gives (.uasLinkDown p) s s) ∧
  (∀ accept, x.state = .up → bit x.lanes lane = true → laneCount x.lanes = 4 → x.retiring ≠ some lane ∨ accept = true →
    ∃ t l, Gives (.laneRetire p lane accept) s t ∧
    (x.retiring ≠ some lane → Clear { x with retiring := none } → t.out = l ++ Out.laneAnswer p lane true :: s.out) ∧
    (portOf t p).lanes = (x.lanes &&& (15 - 2 ^ lane)) ∧ (portOf t p).retired = (x.retired ||| 2 ^ lane) ∧ (portOf t p).state = .up ∧
    (portOf t p).lanesRetired = satAdd 8 x.lanesRetired 1 ∧
    t.flt.retLanes = s.flt.retLanes ++ [4 * p + lane] ∧ (s.flt.takeover = none → t.flt.count = s.flt.count + 1)) ∧
  (∀ accept, x.state = .up → bit x.lanes lane = true → (x.retiring = some lane ∧ accept = false) ∨ laneCount x.lanes ≠ 4 →
    ∃ t l, Gives (.laneRetire p lane accept) s t ∧ PortFell s t p ∧ (portOf t p).downs = satAdd 8 x.downs 1 ∧
      (x.retiring ≠ some lane → Clear { x with retiring := none } → t.out = l ++ Out.laneAnswer p lane false :: s.out) ∧
      (s.flt.takeover = none → t.flt.count = s.flt.count + 1)) ∧
  (∀ accept, bit x.lanes lane = false → Gives (.laneRetire p lane accept) s s)

/-- R250, R251: ECHO leaves 10 ms after the last and measures half the round trip without the turnaround; a partner's ECHO is answered;
WAKE starts the exit from Vigil, whose steps are the model's reading, or Doze (log 29). What an ECHO changes of the delay when it is the
partner's is the model's choice (log 34). -/
def EchoAndWake : Prop := ∀ (p a b : Nat) (s : State),
  let x := portOf s p
  let measured := { x with delay := (a - b) / 2 % 2 ^ 20, echoOut := false }
  (carries x = false → Gives (.echoSend p) s s ∧ Gives (.echo p a b) s s ∧ Gives (.wake p) s s) ∧
  (carries x = true →
    (let u := match x.echoAt with | some n => advance s (n + 10000000) | none => s
    ∃ t, Gives (.echoSend p) s t ∧ (portOf t p).echoOut = true ∧ (portOf t p).echoAt = some u.now ∧
      (Clear (portOf u p) → t.out = .echo p 0 :: u.out ∧ (portOf t p).tx = (portOf u p).tx + 272) ∧
      (∀ q, q ≠ p → portOf t q = portOf u q)) ∧
    (x.echoOut = true → Gives (.echo p a b) s (putPort s p measured)) ∧
    (x.echoOut = false → ∃ t n, Gives (.echo p a b) s t ∧ (portOf t p).delay = measured.delay ∧ (portOf t p).echoOut = false ∧
      (Clear x → t.out = .echo p n :: s.out) ∧ (∀ q, q ≠ p → portOf t q = portOf s q)) ∧
    (bit x.live.toNat 7 = true → s.power = .doze → s.powerNext = none → s.boot.steps = [] → tramsOff s = false →
      Gives (.wake p) s { s with powerNext := some (.full, s.now + 25000000) }) ∧
    (bit x.live.toNat 7 = true → s.power = .vigil → s.powerNext = none → s.boot.steps = [] → tramsOff s = false →
      Gives (.wake p) s { s with boot := { s.boot with steps := vigilSteps, t0 := s.now } }) ∧
    (bit x.live.toNat 7 = false ∨ asleep s = false ∨ s.powerNext ≠ none ∨ s.boot.steps ≠ [] ∨ tramsOff s = true → Gives (.wake p) s s))

/-- R236, R239, R244, R249: a message for another device leaves by its route's port with one TTL less, waits there while the port
retrains, or is discarded and counted, and so is an answer for this device on a Vigil lane; R245: a tally message for this device reaches its device tally, or is discarded on a port that
takes none. A row that cannot happen leaves the state as it is (the model's choice, log 1). -/
def MessagesAreRouted : Prop := ∀ (p : Nat) (m : FabMsg) (s : State),
  let x := portOf s p
  let discarded := putPort s p { x with discarded := satAdd 8 x.discarded 1 }
  let on := { m with ttl := m.ttl - 1 }
  (carries x = false → Gives (.messageArrival p m) s s ∧ Gives (.tallyMessage p m) s s) ∧
  (carries x = true → consumes s m = true → x.state = .vigil → m.typ = 0x31 ∨ m.typ = 0x32 → Gives (.messageArrival p m) s discarded) ∧
  (consumes s m = true → x.state ≠ .vigil ∨ (m.typ ≠ 0x31 ∧ m.typ ≠ 0x32) → Gives (.messageArrival p m) s s) ∧
  (carries x = true → consumes s m = false →
    (s.fabId = 0xFFF ∨ carriesType x m.typ = false ∨ m.ttl = 0 ∨ s.power = .vigil ∨ routePort s m.dst = none →
      Gives (.messageArrival p m) s discarded) ∧
    (∀ q, routePort s m.dst = some q → takesType (portOf s q) m.typ = false → Gives (.messageArrival p m) s discarded) ∧
    (s.fabId ≠ 0xFFF → carriesType x m.typ = true → 0 < m.ttl → s.power ≠ .vigil → ∀ q, routePort s m.dst = some q →
      (Sendable (portOf s q) m → ∃ t, Gives (.messageArrival p m) s t ∧ t.out = .fab q on :: s.out ∧ (portOf t q).sendq = [] ∧
        (portOf t q).tx = (portOf s q).tx + 272 * flitsOf m.payload.length ∧ (∀ r, r ≠ q → portOf t r = portOf s r)) ∧
      ((portOf s q).state = .retraining → genCarries (portOf s q).gen m.typ = true → Gives (.messageArrival p m) s (putPort s q { portOf s q with
        sendq := (portOf s q).sendq ++ [{ vc := vcOf m.typ, out := .fab q on, flits := flitsOf m.payload.length }] })))) ∧
  (m.typ ≠ 0x20 ∨ consumes s m = false → Gives (.tallyMessage p m) s s) ∧
  (m.typ = 0x20 → carries x = true → consumes s m = true →
    (received s p m = false ∨ bit x.live.toNat 6 = false → Gives (.tallyMessage p m) s discarded) ∧
    (received s p m = true → bit x.live.toNat 6 = true →
      let k := field m.spec 0 2 % 1024
      let n := field m.spec 4 4
      let z := tallyOf s .device 0 k
      Gives (.tallyMessage p m) s (signalOne s .device 0 k n (decide (field m.spec 2 1 = 1)) { source := 8, unit := p, tag := field m.spec 8 4 }) ∧
      (Fresh z s.now → z.waiters = [] →
        (field m.spec 2 1 ≠ 1 → z.count + n < 2 ^ 32 → ∃ t, Gives (.tallyMessage p m) s t ∧
          (tallyOf t .device 0 k).count = z.count + n ∧ t.stopes = s.stopes ∧ t.mem = s.mem ∧
          (∀ j, j ≠ k → tallyOf t .device 0 j = tallyOf s .device 0 j)) ∧
        (field m.spec 2 1 = 1 → n ≤ z.count → ∃ t, Gives (.tallyMessage p m) s t ∧ (tallyOf t .device 0 k).count = z.count - n ∧
          t.stopes = s.stopes ∧ t.mem = s.mem ∧ (∀ j, j ≠ k → tallyOf t .device 0 j = tallyOf s .device 0 j)))))

/-- The bulk list of a command with entry i in state n. -/
def bulkNow (c : Cmd) (i n : Nat) : List Bulk :=
  (List.range c.bulk.length).zip c.bulk |>.map (fun e => if e.1 = i then { e.2 with state := n } else e.2)

/-- The DONE tally of an entry, if it names one, has counted one more from u to t. -/
def DoneCounts (u t : State) (b : Bulk) : Prop :=
  (∀ k, b.done = some k → CountsOne u t .device 0 k) ∧ (b.done = none → t.devTallies = u.devTallies)

/-- R236, R246, R247: a PUT leaves with its data and its entry counts as sent; an acknowledgement completes it and signals DONE, a
refusal is reported; a TALLY entry leaves once every earlier entry to its destination has been answered and signals DONE. A PUT with an
uncorrectable source ends its command (R346; the model's choice, log 27); that a TALLY entry is complete as it leaves is the model's
reading (log 28); the layout of the messages is the model's (log 24). -/
def BulkEntriesAreSent : Prop := ∀ (tag i p : Nat) (c : Cmd) (b : Bulk) (s : State),
  bulkAt s tag i = some (c, b) → (∀ d ∈ s.cmds, d.order = c.order → d = c) → (∀ d ∈ s.cmds, d.tag = tag → isRunning d = true → d = c) →
  (routePort s b.dst = some p → b.put = true → b.state = 0 → s.fabId ≠ 0xFFF → carriesType (portOf s p) 0x01 = true → tramsOff s = false →
    earlierDone c i b (fun e => decide (1 ≤ e.state)) = true →
    (∀ ecc, let u := readEcc s b.src ecc
      (readFault u b.src b.length ecc = none →
      ∃ t, Gives (.bulkPutSend tag ⟨i, ecc⟩) s t ∧ bulkAt t tag i = some ({ c with bulk := bulkNow c i 1 }, { b with state := 1 }) ∧
        t.mem = s.mem ∧ t.devTallies = s.devTallies ∧ (∀ q, q ≠ p → portOf t q = portOf s q) ∧
        t.stackTab = u.stackTab ∧ t.flt = u.flt ∧
        (0 < b.length → b.length ≤ putChunk → Sendable (portOf s p) (putMessage s c i b 0) →
          t.out = .fab p { putMessage s c i b 0 with ttl := freeAt u 0 % 256 } :: u.out) ∧
        ((portOf s p).buffer.length = 1024 → t.out = u.out ∧ (portOf t p).sendq = (portOf s p).sendq ++
          (List.range ((b.length + putChunk - 1) / putChunk)).map (fun k =>
            let m := { putMessage s c i b k with ttl := freeAt u k % 256 }
            { vc := vcOf m.typ, out := .fab p m, flits := flitsOf m.payload.length }))) ∧
      ((readFault u b.src b.length ecc).isSome = true → ∃ t, Gives (.bulkPutSend tag ⟨i, ecc⟩) s t ∧ Ended t c 3 fcMemUncorr s.now))) ∧
  (routePort s b.dst = some p → b.put = false → b.state = 0 → s.fabId ≠ 0xFFF → carriesType (portOf s p) 0x20 = true →
    earlierDone c i b (fun e => decide (2 ≤ e.state)) = true →
    ∃ t m d, Gives (.bulkTallySend tag i) s t ∧ m.typ = 0x20 ∧ m.dst = b.dst ∧ m.src = s.fabId ∧ field m.spec 0 2 = b.target % 2 ^ 16 ∧
      field m.spec 2 1 = b2n b.sub ∧ field m.spec 4 4 = b.n % 2 ^ 32 ∧ (Sendable (portOf s p) m → t.out = .fab p m :: s.out) ∧
      bulkAt t tag i = some (d, { b with state := 2 }) ∧ DoneCounts s t b) ∧
  (carries (portOf s p) = true → (portOf s p).state ≠ .vigil → s.fabId ≠ 0xFFF → b.state = 1 →
    (∃ t d, Gives (.bulkAck p tag i false) s t ∧ bulkAt t tag i = some (d, { b with state := 2 }) ∧ DoneCounts s t b ∧ t.mem = s.mem) ∧
    (∃ t d, Gives (.bulkAck p tag i true) s t ∧ bulkAt t tag i = some (d, { b with state := 3 }) ∧ d.nrep = c.nrep + 1 ∧
      t.devTallies = s.devTallies ∧ t.mem = s.mem)) ∧
  (b.state ≠ 0 ∨ s.fabId = 0xFFF ∨ routePort s b.dst = none → (∀ ecc, Gives (.bulkPutSend tag ⟨i, ecc⟩) s s) ∧ Gives (.bulkTallySend tag i) s s) ∧
  (∀ refused, carries (portOf s p) = false → Gives (.bulkAck p tag i refused) s s) ∧
  (∀ refused, carries (portOf s p) = true → (portOf s p).state = .vigil ∨ s.fabId = 0xFFF → Gives (.bulkAck p tag i refused) s
    (putPort s p { portOf s p with discarded := satAdd 8 (portOf s p).discarded 1 })) ∧
  (∀ refused, carries (portOf s p) = true → (portOf s p).state ≠ .vigil → s.fabId ≠ 0xFFF → b.state ≠ 1 → Gives (.bulkAck p tag i refused) s s)

/-- R247 to R249, R267: data for a landing window lands from its base on, with its entries or with PRESENT = 0, and counts as a PUT in
progress; its last part signals the window's DONE tally and is acknowledged; a PUT without a window, past its end or into a hole or a region that it
does not reach (R428) writes nothing and is refused; an abort forgets the PUT. The layout of the messages is the model's (log 24). -/
def BulkDataLands : Prop := ∀ (p base size done : Nat) (m : FabMsg) (s : State),
  let x := portOf s p
  let carried := bit (field m.spec 6 1) 6
  let w := field m.spec 6 1 % 64
  let n := if carried then m.payload.length / 4104 * 4096 else m.payload.length
  let off := 64 * field m.spec 7 8
  let len := 64 * field m.spec 15 4
  let pos := putChunk * field m.spec 19 1
  let pa := base + off + pos
  let id := field m.spec 0 6
  let rest := s.puts.filter (fun e => decide (e ≠ (m.src, id)))
  let discarded := putPort s p { x with discarded := satAdd 8 x.discarded 1 }
  let refusing := landFor s w m.src = none ∨ (landFor s w m.src = some (base, size, done) ∧ (size < off + len ∨ len < pos + n ∨
    refusedWrite s .bulk (base + off) len = true))
  let answer := fun (t : State) (a : FabMsg) (flag : Nat) => a.typ = 0x03 ∧ a.dst = m.src ∧ a.src = s.fabId ∧
    (6 ≤ m.spec.length → field a.spec 6 1 = flag) ∧ (s.snap.op ≠ 2 → Sendable x a → t.out = .fab p a :: s.out)
  (m.typ = 0x01 ∨ m.typ = 0x02 → received s p m = true → tramsOff s = false →
    (refusing → Gives (.bulkData p m false) s s ∧
      ∃ t a, Gives (.bulkData p m true) s t ∧ answer t a 1 ∧ t.mem = s.mem ∧ t.puts = s.puts ∧ t.devTallies = s.devTallies) ∧
    (landFor s w m.src = some (base, size, done) → off + len ≤ size → pos + n ≤ len → refusedWrite s .bulk (base + off) len = false →
      (0 < n → inHbm s pa n = true) →
      (∃ t, Gives (.bulkData p m false) s t ∧ readBytes t pa n = m.payload.take n ∧ t.puts = rest ++ [(m.src, id)] ∧
        t.stopes = s.stopes ∧ t.devTallies = s.devTallies ∧
        (carried = false → 0 < n → ∀ g ∈ outGranules pa n, bit (sideEntry t g).toNat 55 = false) ∧
        (carried = true → pa % 4096 = 0 → ∀ g, g < n / 4096 →
          sideEntry t (pa + 4096 * g) = BitVec.ofNat 64 (field (m.payload.drop n) (8 * g) 8))) ∧
      (∃ t a, Gives (.bulkData p m true) s t ∧ readBytes t pa n = m.payload.take n ∧ t.puts = rest ∧
        CountsOne s t .device 0 done ∧ answer t a 0))) ∧
  (∀ last, (m.typ ≠ 0x01 ∧ m.typ ≠ 0x02) ∨ carries x = false ∨ consumes s m = false → Gives (.bulkData p m last) s s) ∧
  (∀ last, m.typ = 0x01 ∨ m.typ = 0x02 → carries x = true → consumes s m = true → received s p m = false ∨ tramsOff s = true →
    Gives (.bulkData p m last) s discarded) ∧
  (∀ src j, (carries x = false → Gives (.bulkAbort p src j) s s) ∧
    (carries x = true → x.state = .vigil ∨ s.fabId = 0xFFF → Gives (.bulkAbort p src j) s discarded) ∧
    (carries x = true → x.state ≠ .vigil → s.fabId ≠ 0xFFF →
      Gives (.bulkAbort p src j) s { s with puts := s.puts.filter (fun e => decide (e ≠ (src, j))) }))

/-- From s to t a VOID of a reason has been counted, and leaves by port p where nothing stands before it (R263, R264, R267). -/
def VoidSent (s t : State) (p src qid reason : Nat) : Prop :=
  tget t.qVoid 0 (reason - 1) = satAdd 8 (tget s.qVoid 0 (reason - 1)) 1 ∧
  ∃ a : FabMsg, a.typ = 0x32 ∧ a.dst = src ∧ a.src = s.fabId ∧ field a.spec 0 4 = reason ∧ field a.spec 4 4 = qid % 2 ^ 32 ∧
    (s.fabId ≠ 0xFFF → Sendable (portOf s p) a → t.out = .fab p a :: s.out)

/-- R249, R259 to R261, R264: a query that is not refused goes to the inbox of the chosen stope's lowest free slot and signals its
tally; one that is refused, or for which no stope is free, is answered with VOID and its reason; a port that takes none discards it.
The order of the reasons is the model's reading (log 38), and a row that cannot happen leaves the state as it is (log 1). -/
def QueriesAreDelivered : Prop := ∀ (p i k : Nat) (m : FabMsg) (s : State),
  let x := portOf s p
  let cls := field m.spec 0 1 % 8
  let qid := field m.spec 4 4
  let st := reservedNumber i
  let choice := chooseStope s (headOfPort p) (bits (tget s.qclass 0 cls).toNat 0 16)
  (m.typ ≠ 0x30 ∨ carries x = false ∨ consumes s m = false → Gives (.query p m) s s) ∧
  (m.typ = 0x30 → carries x = true → consumes s m = true →
    (carriesType x 0x30 = false ∨ bit x.live.toNat 5 = false →
      Gives (.query p m) s (putPort s p { x with discarded := satAdd 8 x.discarded 1 })) ∧
    (carriesType x 0x30 = true → bit x.live.toNat 5 = true →
      (∀ r, voidReason s cls m.payload.length = some r → ∃ t, Gives (.query p m) s t ∧ VoidSent s t p m.src qid r ∧
        t.stopes = s.stopes ∧ t.qslots = s.qslots) ∧
      (voidReason s cls m.payload.length = none → choice = none → ∃ t, Gives (.query p m) s t ∧ VoidSent s t p m.src qid 2 ∧
        t.stopes = s.stopes ∧ t.qslots = s.qslots) ∧
      (voidReason s cls m.payload.length = none → choice = some i → freeQslot s i = some k →
        let voidAt := s.now + 5000 - answerTime p i
        let u := settle s st
        ∃ t, Gives (.query p m) s t ∧
          qslotOf t i k = { busy := true, qid := qid, cls := cls, port := p, src := m.src, arrival := s.now, voidAt := voidAt } ∧
          (∀ j, j < 64 + m.payload.length → cellAt t.mem (storeAddr st (inboxOffset k) + j) =
            (inboxBytes m cls qid s.now voidAt)[j]?.getD 0) ∧
          CountsOne u t .stope st (32 + k) ∧ t.out = u.out)))

/-- R261 to R264: an answer that is collected in time leaves for its sender and frees its slot, one too long is VOID, one whose VOID has
been sent, or is due, is discarded; only an answer that leaves counts as served; a slot whose VOID_AT passes unread is answered VOID LATE
and stays busy. -/
def AnswersAreCollected : Prop := ∀ (i k : Nat) (s : State),
  let st := reservedNumber i
  let q := qslotOf s i k
  let out := storeAddr st (outboxOffset k)
  let z := tallyOf s .stope st (48 + k)
  let u := settle s st
  let n := readNat u out 2
  let taken := fun (t : State) => Fresh (tallyOf u .stope st (48 + k)) u.now →
    (tallyOf t .stope st (48 + k)).count = (tallyOf u .stope st (48 + k)).count - 1
  (q.busy = false ∨ s.conf.q ≤ i ∨ 16 ≤ k ∨ tramsOff s = true ∨ z.count = 0 → Gives (.answerCollect i k) s s) ∧
  (q.busy = true → i < s.conf.q → k < 16 → tramsOff s = false → 0 < z.count →
    (q.voided = false → s.now ≤ q.voidAt → n ≤ 1984 →
      ∃ t a, Gives (.answerCollect i k) s t ∧ a.typ = 0x31 ∧ a.dst = q.src ∧ a.src = s.fabId ∧ field a.spec 4 4 = q.qid % 2 ^ 32 ∧
        field a.spec 0 1 = readNat u (out + 2) 1 ∧ a.payload = readBytes u (out + 64) n ∧
        (s.fabId ≠ 0xFFF → Sendable (portOf u q.port) a → t.out = .fab q.port a :: u.out) ∧ qslotOf t i k = {} ∧
        t.qServed = u.qServed + b2n (takesType (portOf u q.port) 0x31 && decide (s.fabId ≠ 0xFFF)) ∧ taken t) ∧
    (q.voided = false → s.now ≤ q.voidAt → 1984 < n →
      ∃ t, Gives (.answerCollect i k) s t ∧ VoidSent u t q.port q.src q.qid 5 ∧ qslotOf t i k = {} ∧ t.qServed = u.qServed ∧ taken t) ∧
    (q.voided = true → ∃ t, Gives (.answerCollect i k) s t ∧ t.out = u.out ∧ qslotOf t i k = {} ∧ t.qLate = satAdd 32 u.qLate 1 ∧
      t.qServed = u.qServed ∧ taken t) ∧
    (q.voided = false → q.voidAt < s.now → ∃ t, Gives (.answerCollect i k) s t ∧ VoidSent u t q.port q.src q.qid 1 ∧
      qslotOf t i k = {} ∧ t.qLate = satAdd 32 u.qLate 1 ∧ t.qServed = u.qServed ∧ taken t)) ∧
  (q.busy = false ∨ q.voided = true → Gives (.queryVoidLate i k) s s) ∧
  (q.busy = true → q.voided = false →
    let v := advance s q.voidAt
    ∃ t, Gives (.queryVoidLate i k) s t ∧ t.now = v.now ∧ VoidSent v t q.port q.src q.qid 1 ∧ qslotOf t i k = { q with voided := true })

/-! ## Sideband -/

/-- R416, R417, R419: the I3C target takes, changes and drops its dynamic address, switches its in-band interrupts, and answers with its
identity. When it takes an address and the values that it returns are PRESUMED (log 33); without VAUX a row leaves the state (log 1). -/
def I3cAddressesAndCodes : Prop := ∀ (a : Nat) (s : State),
  (s.pins.vauxOk = false → ∀ i ∈ [Instr.i3cEntdaa a, .i3cSetdasa a, .i3cSetnewda a, .i3cRstdaa, .i3cEnec, .i3cDisec, .i3cGetpid, .i3cGetbcr,
    .i3cGetdcr, .i3cGetstatus], Gives i s s) ∧
  (s.pins.vauxOk = true →
  (s.i3c.dyn = none → Gives (.i3cEntdaa a) s { s with i3c := { s.i3c with dyn := some (a % 2 ^ 7) } } ∧
    Gives (.i3cSetdasa a) s { s with i3c := { s.i3c with dyn := some (a % 2 ^ 7) } } ∧ Gives (.i3cSetnewda a) s s) ∧
  (∀ d, s.i3c.dyn = some d → Gives (.i3cEntdaa a) s s ∧ Gives (.i3cSetdasa a) s s ∧
    Gives (.i3cSetnewda a) s { s with i3c := { s.i3c with dyn := some (a % 2 ^ 7) } }) ∧
  Gives .i3cRstdaa s { s with i3c := { s.i3c with dyn := none } } ∧
  Gives .i3cEnec s { s with i3c := { s.i3c with enec := true } } ∧ Gives .i3cDisec s { s with i3c := { s.i3c with enec := false } } ∧
  Gives .i3cGetpid s { s with out := .i3c (toBytes 6 Config.provisionedId) :: s.out } ∧
  Gives .i3cGetbcr s { s with out := .i3c (toBytes 1 Config.busCharacteristics) :: s.out } ∧
  Gives .i3cGetdcr s { s with out := .i3c (toBytes 1 Config.deviceCharacteristics) :: s.out } ∧
  (∃ bs, bs.length = 2 ∧ Gives .i3cGetstatus s { s with freeCtr := s.freeCtr + 1, out := .i3c bs :: s.out }))

/-- R10, R416, R418: one byte sets the index; the index and four bytes write a register in a cycle of their own: alert causes are
cleared by ones, the mask leaves bits 1 and 2 open, the warning threshold takes 80 to 110; a read returns the registers from the index
on and moves it. A cause that becomes set while in-band interrupts are on makes one pending, and it leaves, with the causes of that moment,
in the next device cycle without a command (R419; the model's choice, log 33). The cycle of its own is the model's reading (log 32). -/
def I3cRegisters : Prop := ∀ (i v n : Nat) (s : State),
  (s.pins.vauxOk = false → (∀ bs, Gives (.i3cPrivateWrite bs) s s) ∧ Gives (.i3cPrivateRead n) s s) ∧
  (s.pins.vauxOk = true → i < 256 → v < 2 ^ 32 →
  let w := fun (j : Nat) => ((BitVec.ofNat 8 j :: toBytes 4 v : List Byte))
  let u := advance s (s.now + 1)
  Gives (.i3cPrivateWrite [BitVec.ofNat 8 i]) s { s with i3c := { s.i3c with index := i } } ∧
  Gives (.i3cPrivateWrite (w 0x14)) s { u with i3c := { u.i3c with index := 0x14, alert := u.i3c.alert &&& ~~~ (BitVec.ofNat 32 v) } } ∧
  Gives (.i3cPrivateWrite (w 0x18)) s { u with i3c := { u.i3c with index := 0x18, mask := BitVec.ofNat 32 v &&& 0xF9 } } ∧
  Gives (.i3cPrivateWrite (w 0x1C)) s { u with i3c := { u.i3c with
    index := 0x1C, warn := if 80 ≤ v % 2 ^ 8 ∧ v % 2 ^ 8 ≤ 110 then v % 2 ^ 8 else u.i3c.warn } } ∧
  (i ≠ 0x14 → i ≠ 0x18 → i ≠ 0x1C → Gives (.i3cPrivateWrite (w i)) s { u with i3c := { u.i3c with index := i } }) ∧
  (∀ bs, bs.length ≠ 1 → bs.length ≠ 5 → Gives (.i3cPrivateWrite bs) s s) ∧
  Gives (.i3cPrivateRead n) s { s with
    i3c := { s.i3c with index := (s.i3c.index + 4 * n) % 2 ^ 8 }
    out := .i3c ((List.range n).flatMap (fun k => toBytes 4 (i3cReg s ((s.i3c.index + 4 * k) % 2 ^ 8)))) :: s.out }) ∧
  (∀ b, bit s.i3c.alert.toNat b = false → setAlert s b =
    { s with i3c := { s.i3c with alert := s.i3c.alert ||| BitVec.ofNat 32 (2 ^ b), ibi := s.i3c.ibi || s.i3c.enec } }) ∧
  (s.pending = [] →
    let u := advance s (s.now + 1)
    step s = .next (if u.i3c.ibi = true ∧ u.i3c.enec = true then
      { u with i3c := { u.i3c with ibi := false }, out := .ibi (BitVec.ofNat 8 u.i3c.alert.toNat) :: u.out } else u)) ∧
  i3cReg s 0x00 = 0x00018160 ∧ i3cReg s 0x14 = s.i3c.alert.toNat ∧ i3cReg s 0x18 = s.i3c.mask.toNat ∧ i3cReg s 0x1C = s.i3c.warn

/-- R409, R420: each JTAG instruction is taken while VAUX stands and its register's bits leave on TDO: one 0 of BYPASS, the 32 of IDCODE,
the levels of the 26 lands that the boundary register covers, which SAMPLE_PRELOAD shifts on; EXTEST and CLAMP drive the lands and HIGHZ
releases them while RESET_N is low, otherwise they act as BYPASS. Levels of lands that the device does not hold are free, and the moments
of capture are PRESUMED (log 33). -/
def JtagInstructions : Prop := ∀ (bs : List Bool) (s : State),
  let p := fun (j : JInstr) => { s with pins := { s.pins with instr := j } }
  let u := fun (j : JInstr) (o : List Bool) => { p j with out := .tdo o :: s.out }
  let driven := s.pins.boundary
  (s.pins.vauxOk = true →
    Gives .jtagBypass s (u .bypass [false]) ∧
    Gives .jtagIdcode s (u .idcode ((List.range 32).map (fun i => (0x18160A6B).testBit i))) ∧
    (∃ o : List Bool, o.length = 26 ∧ o[0]? = some (!s.pins.resetLow) ∧ o[2]? = some (!alertAsserted s) ∧ o[3]? = some (!tripAsserted s) ∧
      Gives (.jtagSamplePreload bs) s { s with
        freeCtr := s.freeCtr + 26
        pins := { s.pins with instr := .sample, boundary := ((o ++ bs).drop bs.length).take 26 }
        out := .tdo ((o ++ bs).take bs.length) :: s.out }) ∧
    (s.pins.resetLow = false → Gives .jtagExtest s (u .extest [false])) ∧
    (s.pins.resetLow = true → ∃ o : List Bool, o.length = 26 ∧ o[0]? = some false ∧ o[2]? = some ((driven[2]?).getD true) ∧
      o[3]? = some ((driven[3]?).getD true) ∧ Gives .jtagExtest s { p .extest with freeCtr := s.freeCtr + 26, out := .tdo o :: s.out }) ∧
    Gives .jtagClamp s (u .clamp [false]) ∧ Gives .jtagHighz s (u .highz [false])) ∧
  (s.pins.vauxOk = false → ∀ i ∈ [Instr.jtagBypass, .jtagIdcode, .jtagSamplePreload bs, .jtagExtest, .jtagClamp, .jtagHighz], Gives i s s) ∧
  (∀ j, landsDriven (p j) = if s.pins.vauxOk = true ∧ s.pins.resetLow = true ∧ (j = .extest ∨ j = .clamp) then some driven else none) ∧
  (s.pins.vauxOk = false ∨ (s.pins.resetLow = true ∧ s.pins.instr = .highz) → alertAsserted s = false ∧ tripAsserted s = false) ∧
  (s.pins.vauxOk = true → s.pins.resetLow = false →
    alertAsserted s = (s.flt.safeHalt || decide (s.i3c.alert &&& ~~~ s.i3c.mask ≠ 0)) ∧ tripAsserted s = s.pins.tripLatch)

/-! ## Power, faults and registers -/

/-- R37, R249, R292, R293, R303: Idle follows from Full after IDLE_DELAY of its condition; Doze, Vigil and Full when the time of their
transition is reached. Doze holds the levels in reset; Vigil takes everything but AUX and AON from the device, whose ports go to their
Vigil lanes. What the transitions keep and how the ports go is the model's reading (logs 29, 34), and a row that cannot happen leaves the
state as it is (log 1). -/
def PowerStatesAreReached : Prop := ∀ (e : BootEnv) (n : Nat) (s : State),
  let u := advance s n
  (s.power = .full → s.powerNext = none → tramsOff s = false → idleHolds s = true →
    let v := advance s (s.busyAt + 1000 * bits s.nrg.cfg.toNat 8 16)
    ∃ t, Gives .idleEntry s t ∧ t.power = .idle ∧ t.now = v.now ∧ t.cmds = v.cmds ∧ t.stopes = v.stopes) ∧
  (s.power ≠ .full ∨ s.powerNext ≠ none ∨ tramsOff s = true ∨ idleHolds s = false → Gives .idleEntry s s) ∧
  (s.boot.steps = [] →
    (s.powerNext = none → Gives (.powerStateReached e) s s) ∧
    (∀ p, s.powerNext = some (p, n) → tramsOff s = true ∨ p = .idle ∨ p = .starting ∨ p = .quenched ∨ (p = .full ∧ s.power ≠ .doze) →
      Gives (.powerStateReached e) s { u with powerNext := none }) ∧
    (tramsOff s = false → s.powerNext = some (.doze, n) → ∃ t, Gives (.powerStateReached e) s t ∧ t.now = u.now ∧
      t.power = .doze ∧ t.powerNext = none ∧ t.ep.cmdReady = false ∧ ∀ k, k < 8 → (levelOf t k).up = false) ∧
    (tramsOff s = false → s.powerNext = some (.vigil, n) → ∃ t, Gives (.powerStateReached e) s t ∧ t.now = u.now ∧
      t.power = .vigil ∧ t.powerNext = none ∧ t.stopes = [] ∧ t.levels = [] ∧ t.cmds = [] ∧ t.mem = [] ∧ t.ep.ready = false ∧
      t.ep.cmdReady = false ∧ headsUp t = false ∧ t.boot.aon = true ∧ t.rnd.round = s.rnd.round ∧ t.rnd.origin = s.rnd.origin ∧
      t.fabId = s.fabId ∧ t.nrg = s.nrg ∧ t.i3c = s.i3c ∧ t.trust.bootSel = s.trust.bootSel ∧
      t.trust.fwA = s.trust.fwA ∧ t.trust.fwB = s.trust.fwB ∧ t.snap.slotA = s.snap.slotA ∧ t.snap.slotB = s.snap.slotB ∧
      (∀ p, p < 12 → ((portOf s p).state = .up → (portOf t p).state = .vigil ∧ (portOf t p).lanes = lowestLane (portOf s p).lanes) ∧
        ((portOf s p).state = .training ∨ (portOf s p).state = .retraining → (portOf t p).state = .down))) ∧
    (tramsOff s = false → s.powerNext = some (.full, n) → s.power = .doze → ∃ t, Gives (.powerStateReached e) s t ∧
      t.power = .full ∧ t.ep.cmdReady = true ∧ t.now = u.now ∧ t.phys = s.phys ∧ ∀ k, k < 8 → (levelOf t k).up = true))

/-- R20, R37, R240, R250, R352, R372, R373, R385, R392, R393, R424 to R426: the steps of the bring-up, and of the exit from Vigil, end one
after the other, each at its time within the bounds: the AON domain runs, the ROM picks a slot or stops, the active controller starts
under the configuration record, each level leaves reset with its stopes tested, the mailbox is ready and the slot confirmed, HBM is zeroed,
the drives are enumerated, commands are accepted; a stopped SYSCLK (R407) stops them. The bounds of each step and its split are the
model's choice (log 19), the exit's steps its reading (log 29). -/
def BringUpProceeds : Prop := ∀ (e : BootEnv) (x : BootStep) (rest : List BootStep) (s : State), s.boot.steps = x :: rest →
  let at' := stepTime s e x
  let u := advance { s with boot := { s.boot with steps := rest } } at'
  let r := bootChain (deriveKeys u.trust e)
  let used := ((foundDrives u e).filter driveFits).take 4
  (s.boot.clkLost = true → Gives (.powerStateReached e) s s) ∧
  (s.boot.clkLost = false → ∃ t, Gives (.powerStateReached e) s t ∧ t.now = max s.now at' ∧
    (x = .aon → t.boot.aon = true ∧ t.rnd.origin = (t.now : Int) ∧ t.nrg.tickAt = t.now ∧ t.boot.steps = rest) ∧
    (x = .lanes → ∀ p, p < 12 → (portOf s p).state = .vigil → (portOf t p).state = .retraining) ∧
    (x = .firmware → r.2 = none → t.boot.steps = [] ∧ headsUp t = headsUp u ∧ t.ep = u.ep) ∧
    (∀ b, x = .firmware → r.2 = some b → headsUp t = true ∧ t.trust.runningB = b ∧ t.flt.lastBeat = t.now ∧
      t.conf = (match chosenRecord r.1 with | some bs => confOf bs | none => {}) ∧
      (s.boot.reset = true → s.flt.clearAtReset = true → t.flt.retStopes = [] ∧ t.flt.retPcs = [] ∧ t.flt.retLanes = [] ∧ t.boot.fresh = true) ∧
      (s.pins.tripLatch = true → t.quench = true ∧ t.power = .quenched ∧ t.boot.steps = [.mailbox]) ∧
      (s.pins.tripLatch = false → t.boot.steps = rest ∧ t.power = s.power)) ∧
    (∀ n, x = .level n → n < 8 → s.quench = false → s.flt.safeHalt = false → s.power = .starting ∨ s.power = .vigil →
      (levelOf t n).up = true ∧
      (∀ k, 22 * n ≤ k → k < 22 * n + 22 →
        (k ∈ e.stopeFails ∨ k ∈ s.flt.retStopes → (physOf t k).state = 4) ∧
        (k ∉ e.stopeFails → k ∉ s.flt.retStopes → (physOf t k).state = 1 ∨ (physOf t k).state = 2)) ∧
      (∀ i, i < 20 → (physHolding t (20 * n + i)).isSome = true → (crewOf t (20 * n + i) 16).state = .running ∧ (crewOf t (20 * n + i) 16).pc = 0)) ∧
    (x = .mailbox → t.ep.ready = true ∧ t.flt.standby = true ∧ t.boot.released = none ∧
      (fwSlot t.trust t.trust.runningB).confirmed = true ∧ (fwSlot t.trust t.trust.runningB).pending = false ∧
      (u.ep.ready = false → u.flt.takeover = none → bit t.ep.intStat.toNat 8 = true)) ∧
    (x = .calibrate → t.flt.retLanes = (if s.boot.fresh then s.flt.retLanes ++ e.laneFails else s.flt.retLanes)) ∧
    (x = .memory → (∀ a, a < 2 ^ 40 → cellAt t.mem a = 0) ∧ (s.boot.fresh = false → t.flt.retPcs = s.flt.retPcs)) ∧
    (x = .drives → t.snap.drives = used.length ∧ t.snap.serials = used.map (·.serial) ∧ t.snap.refused = (foundDrives u e).length - used.length ∧
      t.snap.rate = e.rate ∧ t.snap.width = e.width ∧
      (used ≠ [] → t.snap.okA = slotHolds t.snap t.snap.slotA ∧ t.snap.okB = slotHolds t.snap t.snap.slotB)) ∧
    (x = .ready → t.ep.cmdReady = true ∧ t.power = .full ∧ t.boot.steps = rest)) ∧
  (s.boot.t0 + 15000000 ≤ at' ∧ at' ≤ s.boot.t0 + 5020000000) ∧
  (s.power = .starting → x = .ready → s.boot.t0 + 3400000000 ≤ at') ∧
  (s.power = .starting → x = .mailbox → s.boot.t0 + 850000000 ≤ at' ∧ at' ≤ s.boot.t0 + 2220000000) ∧
  (s.power = .vigil → x = .mailbox → s.boot.t0 + 900000000 ≤ at' ∧ at' ≤ s.boot.t0 + 1100000000) ∧
  (s.power = .vigil → x = .ready → s.boot.t0 + 3500000000 ≤ at' ∧ at' ≤ s.boot.t0 + 3900000000)

/-- R294 to R297, R423, R426: ebb is entered and left; a quench, by the supply or by the trip latch, stops the device with every level in
reset and lets the round in progress drop; without controllers its mark is set and a bring-up stops; it counts in safe halt too. The return
to service brings the levels back, or starts a bring-up that the quench broke off. What a quench does in Vigil and in safe halt is the
model's reading (log 42), that a bring-up starts again under the straps last sampled its choice (log 19), and a row that cannot happen leaves
the state as it is (log 1). -/
def EbbAndQuench : Prop := ∀ (s : State),
  let dropped := s.rnd.quenched || !s.rnd.decided
  let counted := fun (t : State) => t.quench = true ∧ t.nrg.quenches = satAdd 16 s.nrg.quenches 1 ∧ t.rnd.quenched = dropped ∧
    bit t.i3c.alert.toNat 3 = true
  (supervised s = false → Gives .ebbEnter s s ∧ Gives .thermTrip s s ∧ (∀ q, Gives (.quench q) s s) ∧ ∀ fs, Gives (.returnToService fs) s s) ∧
  (supervised s = true → s.ebb = false → s.quench = false → ∃ t, Gives .ebbEnter s t ∧ t.ebb = true ∧
    t.nrg.ebbs = satAdd 16 s.nrg.ebbs 1 ∧ bit t.i3c.alert.toNat 4 = true ∧
    (headsUp s = true → s.flt.takeover = none → t.flt.count = s.flt.count + 1) ∧ t.now = s.now ∧ t.power = s.power) ∧
  (s.ebb = true ∨ s.quench = true → Gives .ebbEnter s s) ∧
  (s.ebb = true → ∃ t, Gives .ebbExit s t ∧ t.ebb = false ∧ t.now = s.now ∧ t.power = s.power) ∧
  (s.ebb = false → Gives .ebbExit s s) ∧
  (supervised s = true → ∀ q : QuenchCause, (q = .trip → s.pins.tripLatch = true) →
    (s.quench = true → Gives (.quench q) s s) ∧
    (s.quench = false → s.flt.safeHalt = true → ∃ t, Gives (.quench q) s t ∧ counted t ∧ t.stopes = s.stopes ∧ t.cmds = s.cmds ∧ t.mem = s.mem) ∧
    (s.quench = false → s.flt.safeHalt = false → headsUp s = true → ∃ t, Gives (.quench q) s t ∧ counted t ∧ t.power = .quenched ∧
      t.powerNext = none ∧ t.ebb = false ∧ t.snap.op ≠ 3 ∧ t.ep.cmdReady = false ∧ t.boot.steps = [] ∧
      t.boot.again = !s.boot.steps.isEmpty ∧ ∀ k, k < 8 → (levelOf t k).up = false) ∧
    (s.quench = false → s.flt.safeHalt = false → headsUp s = false → ∃ t, Gives (.quench q) s t ∧ counted t ∧ t.stopes = s.stopes ∧
      t.cmds = s.cmds ∧ t.mem = s.mem ∧ t.boot.steps = [] ∧ (s.boot.steps ≠ [] → t.power = .quenched ∧ t.boot.again = true))) ∧
  (s.pins.tripLatch = false → Gives (.quench .trip) s s) ∧
  (supervised s = true → ∃ t, Gives .thermTrip s t ∧ t.pins.tripLatch = true ∧ bit t.i3c.alert.toNat 1 = true ∧ t.quench = true) ∧
  (s.quench = false ∨ s.pins.tripLatch = true ∨ s.flt.safeHalt = true → ∀ fs, Gives (.returnToService fs) s s) ∧
  (supervised s = true → s.quench = true → s.pins.tripLatch = false → s.flt.safeHalt = false →
    (s.boot.again = true → ∀ fs, ∃ t, Gives (.returnToService fs) s t ∧ t.quench = false ∧ BringsUp t { bootSel := s.trust.bootSel } ∧
      ResetKeepsFlash s t) ∧
    (s.boot.again = false → headsUp s = false → ∀ fs, Gives (.returnToService fs) s { s with quench := false, ebb := false }) ∧
    (s.boot.again = false → headsUp s = true → ∀ fs, ∃ t, Gives (.returnToService fs) s t ∧ t.quench = false ∧ t.ebb = false ∧
      t.power = .full ∧ t.ep.cmdReady = true ∧ (fs = [] → t.phys = s.phys ∧ ∀ k, k < 8 → (levelOf t k).up = true)))

/-- R37, R294, R297, R403, R404, R411, R424: the loss of VIN leaves AUX and flash, that of VAUX flash alone; with both supplies valid the
bring-up begins, or RESET_N holds the device with AON alone running; a pulse of RESET_N of 10 µs resets the device, one under 1 µs does
nothing, one between the two either, and the bring-up begins as the pin rises. What a pulse of several rows does is the model's reading (log
42), and a row that cannot happen leaves the state as it is (log 1). -/
def SuppliesAndResetPin : Prop := ∀ (e : BootEnv) (n : Nat) (s : State),
  let total := s.pins.lowNs + n
  let pin := fun (held : Bool) => { s with pins := { s.pins with
    resetLow := held, lowNs := if held then total else 0, lowActed := held && s.pins.lowActed } }
  let waits := s.power = .starting ∧ s.boot.steps = [] ∧ s.boot.released = none ∧ s.boot.aon = false ∧ headsUp s = false ∧ s.flt.safeHalt = false
  (s.pins.vinOk = true → ∃ t, Gives .vinPowerLoss s t ∧ t.mem = [] ∧ t.stopes = [] ∧ t.levels = [] ∧ t.cmds = [] ∧ t.now = 0 ∧
    t.power = .starting ∧ t.pins = { s.pins with vinOk := false, tripLatch := false } ∧ t.i3c = s.i3c ∧
    t.flt.canary0 = s.flt.canary0 ∧ t.flt.history = s.flt.history ∧ t.flt.recLog = s.flt.recLog ∧ t.trust.fwA = s.trust.fwA ∧
    t.trust.fwB = s.trust.fwB ∧ t.trust.fuses = s.trust.fuses ∧ t.snap.slotA = s.snap.slotA) ∧
  (s.pins.vinOk = false → Gives .vinPowerLoss s s) ∧
  (s.pins.vauxOk = true → ∃ t, Gives .vauxLoss s t ∧ t.mem = [] ∧ t.stopes = [] ∧ t.cmds = [] ∧ t.i3c = {} ∧
    t.flt.canary0 = 0 ∧ t.flt.recLog = [] ∧ t.pins.vauxOk = false ∧ t.pins.vinOk = s.pins.vinOk ∧ t.flt.history = s.flt.history ∧
    t.trust.fwA = s.trust.fwA ∧ t.trust.fuses = s.trust.fuses) ∧
  (s.pins.vauxOk = false → Gives .vauxLoss s s) ∧
  Gives .vauxValid s { s with pins := { s.pins with vauxOk := true } } ∧
  (¬ waits → Gives (.suppliesValid e) s s) ∧
  (waits →
    (s.pins.resetLow = true → Gives (.suppliesValid e) s { s with
      pins := { s.pins with vinOk := true, vauxOk := true, served := true }, boot := { s.boot with aon := true }
      rnd := { s.rnd with origin := (s.now : Int) }, nrg := { s.nrg with tickAt := s.now, toMark := s.rnd.comNs } }) ∧
    (s.pins.resetLow = false → ∃ t, Gives (.suppliesValid e) s t ∧ BringsUp t e ∧ t.now = s.now ∧ t.pins.vinOk = true ∧
      t.pins.vauxOk = true ∧ t.pins.served = true)) ∧
  (∀ held, s.flt.safeHalt = true ∨ supervised s = false → Gives (.resetN n held e) s (pin held)) ∧
  (supervised s = true → s.flt.safeHalt = false →
    (s.pins.lowActed = false →
      (total < 1000 → ∀ held, Gives (.resetN n held e) s (pin held)) ∧
      (total < 10000 → Gives (.resetN n true e) s (pin true)) ∧
      (1000 ≤ total → total < 10000 →
        let u := { pin false with freeCtr := s.freeCtr + 1 }
        Gives (.resetN n false e) s u ∨ Gives (.resetN n false e) s (deviceReset u e)) ∧
      (10000 ≤ total → ∃ t, Gives (.resetN n true e) s t ∧ t.pins.resetLow = true ∧ t.pins.lowActed = true ∧ t.mem = [] ∧ t.cmds = [] ∧
        t.now = 0 ∧ t.power = .starting ∧ t.boot.steps = [] ∧ t.boot.aon = true ∧ headsUp t = false ∧
        t.nrg.total = s.nrg.total ∧ t.flt.history = s.flt.history)) ∧
    (s.pins.lowActed = true → Gives (.resetN n true e) s (pin true)) ∧
    (s.pins.lowActed = true ∨ 10000 ≤ total → ∃ t, Gives (.resetN n false e) s t ∧ BringsUp t e ∧ ResetKeepsFlash s t ∧
      t.pins.resetLow = false ∧ t.pins.lowNs = 0))

/-- R304, R343, R407, R412, R418: a warm junction and an input voltage out of its band set their alert; PERST_N and a hot reset put the
endpoint back to reset; a reference clock that stops takes down what runs on it. That a reading sets its alert in every row that brings one
is the model's choice (log 37), what the canaries make of a stopped SYSCLK too (log 20), and a row that cannot happen leaves the state as
it is (log 1). -/
def AlertsEndpointAndClocks : Prop := ∀ (lvl : Option Nat) (temp h : Nat) (s : State),
  let known := ∀ n, lvl = some n → n < 8
  let fresh : Endpoint := {}
  let reset := { s.ep with
    msixMask := [], msixEntry := [], pba := 0, aerFatal := false, command := fresh.command, bar0 := fresh.bar0, bar2 := fresh.bar2
    msixCtl := fresh.msixCtl, devCtl := fresh.devCtl }
  (supervised s = true →
    (known → s.i3c.warn ≤ temp → ∃ t, Gives (.junctionWarn lvl temp) s t ∧ bit t.i3c.alert.toNat 0 = true ∧
      { t with i3c := {} } = { s with i3c := {} }) ∧
    (s.ebb = false → s.quench = false → ∃ t, Gives .vinRange s t ∧ bit t.i3c.alert.toNat 7 = true ∧
      { t with i3c := {} } = { s with i3c := {} }) ∧
    Gives .perstN s { s with ep := { reset with cfgServed := true } } ∧
    Gives .pcieHotReset s { s with ep := reset } ∧
    (∃ t, Gives (.refclkLoss (.fab h)) s t ∧ (∀ p, p < 12 → headOfPort p = h → (portOf t p).state = .down) ∧
      ∀ p, (12 ≤ p ∨ headOfPort p ≠ h) → (portOf t p).state = (portOf s p).state ∧ (portOf t p).lanes = (portOf s p).lanes) ∧
    Gives (.refclkLoss .pe) s { s with ep := { s.ep with cfgServed := false } } ∧
    (∃ t, Gives (.refclkLoss .sn) s t ∧ t.snap.rate = 0 ∧ t.snap.width = 0 ∧ t.snap.op ≠ 3 ∧
      (s.snap.restarted = false → { t with snap := {} } = { s with snap := {} })) ∧
    (∃ t, Gives (.refclkLoss .sys) s t ∧ t.flt = { s.flt with h0Active := false, h1Active := false, standby := false } ∧
      t.ep.ready = false ∧ t.ep.cmdReady = false ∧ t.boot.clkLost = true ∧ t.stopes = s.stopes)) ∧
  (supervised s = false → ∀ clk, Gives (.junctionWarn lvl temp) s s ∧ Gives .vinRange s s ∧ Gives .perstN s s ∧ Gives .pcieHotReset s s ∧
    Gives (.refclkLoss clk) s s) ∧
  (¬ known ∨ temp < s.i3c.warn → Gives (.junctionWarn lvl temp) s s) ∧
  (s.ebb = true ∨ s.quench = true → Gives .vinRange s s)

/-- R346, R351, R353, R355, R356: the scrub counts what it corrects and records what stays bad; a location test counts or retires; a
pseudo-channel past its trigger migrates while a spill is left, or waits for the one that migrates already, and is retired with its record
when the migration is done. The hour steps of the counts and the waiting are the model's reading (log 36), and a row that cannot happen
leaves the state as it is (log 1). -/
def MemoryIsScrubbedAndRetired : Prop := ∀ (k pc o : Nat) (s : State),
  let x := stackOf s k
  let start := fun (c : Nat) => modStack s k (fun x => { x with migrating := some c })
  let known := fun (c : Nat) => bit x.retired c = true ∨ x.migrating = some c ∨ c ∈ x.due
  let left := x.moved.length + b2n x.migrating.isSome + x.due.length < spillOf s k
  (16 ≤ k ∨ 32 ≤ pc → Gives (.pcRetire k pc) s s) ∧
  (16 ≤ k ∨ 32 ≤ pc ∨ headsUp s = false → ∀ ecc, Gives (.patrolScrub k pc ecc) s s) ∧
  (headsUp s = false → ∀ pa n fs, Gives (.locationTest pa n fs) s s) ∧
  (k < 16 → pc < 32 → headsUp s = true → s.flt.takeover = none →
    Gives (.patrolScrub k pc .clean) s s ∧
    Gives (.patrolScrub k pc .cured) s { s with flt := { s.flt with memCured := satAdd 16 s.flt.memCured 1 } } ∧
    (let once := modStack s k (fun x => { x with corrected := satAdd 32 x.corrected 1, pcCorr := dayAdd s x.pcCorr pc })
    (dayCount s (dayAdd s x.pcCorr pc) pc ≠ 65 → Gives (.patrolScrub k pc .corrected) s once) ∧
    (dayCount s (dayAdd s x.pcCorr pc) pc = 65 → ∃ t, Gives (.patrolScrub k pc .corrected) s t ∧ t.stackTab = once.stackTab ∧
      t.flt.count = s.flt.count + 1)) ∧
    (∃ t, Gives (.patrolScrub k pc .bad) s t ∧ t.flt.count = s.flt.count + 1 ∧
      stackOf t k = { x with pcBad := dayAdd s x.pcBad pc } ∧ t.stopes = s.stopes) ∧
    (pcTrigger s k pc = true → ¬ known pc →
      (left → x.migrating = none → Gives (.pcRetire k pc) s (start pc)) ∧
      (left → x.migrating ≠ none → Gives (.pcRetire k pc) s (modStack s k (fun x => { x with due := x.due ++ [pc] }))) ∧
      (¬ left → ∃ t, Gives (.pcRetire k pc) s t ∧ (stackOf t k).exhausted = true ∧ (stackOf t k).migrating = x.migrating ∧
        t.flt.count = s.flt.count + 1)) ∧
    (pcTrigger s k pc = false ∨ known pc → Gives (.pcRetire k pc) s s)) ∧
  (k < 16 → o < dataEnd s k → headsUp s = true →
    Gives (.locationTest (hbmAddr k o) 1 []) s (modStack s k (fun x => { x with pcBad := dayAdd s x.pcBad (pcOf o) })) ∧
    (¬ known (pcOf o) → x.migrating = none → left → Gives (.locationTest (hbmAddr k o) 1 [0]) s (start (pcOf o)))) ∧
  (∀ st p, st < 160 → o < 2 ^ 24 → headsUp s = true → physHolding s st = some p →
    Gives (.locationTest (storeAddr st o) 1 []) s (putPhys s p { physOf s p with hits := dayTimes s (physOf s p).hits ++ [s.now] }) ∧
    Gives (.locationTest (storeAddr st o) 1 [0]) s (retireStope s p)) ∧
  (x.migrating = none → ∀ bad, Gives (.pcMigrationDone k bad) s s) ∧
  (∀ c bad, x.migrating = some c → ∃ t, Gives (.pcMigrationDone k bad) s t ∧ (stackOf t k).migrating = x.due.head? ∧
    (stackOf t k).due = x.due.drop 1 ∧
    (stackOf t k).retired = (x.retired ||| 2 ^ c) ∧ (stackOf t k).moved = x.moved ++ [c] ∧ t.flt.retPcs = s.flt.retPcs ++ [(k, c)] ∧
    (∀ w, w ∈ (stackOf t k).poison ↔ w ∈ x.poison ∨ (w ∈ bad ∧ pcOf (32 * w) = c ∧ 32 * w < stackData)) ∧
    (s.flt.takeover = none → t.flt.count = s.flt.count + 1) ∧ (∀ a, a < 2 ^ 40 → cellAt t.mem a = cellAt s.mem a))

/-- Every command of s that p names has ended in t with a code, if its place in the order is its own. -/
def AllEnded (s t : State) (p : Cmd → Bool) (code : Nat) : Prop :=
  ∀ c ∈ s.cmds, p c = true → (∀ d ∈ s.cmds, d.order = c.order → d = c) → Ended t c 3 code s.now

/-- R22 to R24, R34, R132, R357, R359: a stope past its trigger is retired, its running commands end, and a reserve stope of its level
takes its number over, or none; when that passes its test its overman starts; a test in place that fails retires; a double fault resets
the stope and ends its commands. The day's window of the counts is the model's reading (log 36), and a row that cannot happen leaves the
state as it is (log 1). -/
def StopesAreRetiredAndRemapped : Prop := ∀ (p q st : Nat) (s : State),
  let x := physOf s p
  let gone := fun (t : State) => (physOf t p).state = 4 ∧ (physOf t p).logical = 255 ∧ p ∈ t.flt.retStopes
  let taken := fun (t : State) => s.conf.remap = true → reserveOf s (stopeLevel x.logical) = some q →
    (physOf t q).state = 3 ∧ (physOf t q).logical = x.logical
  let runs := fun (st : Nat) (c : Cmd) => isRunning c && bit c.desc.target st && decide (st < 160)
  (stopeTrigger s p = false ∨ x.state ≠ 1 → Gives (.stopeRetire p) s s) ∧
  (stopeTrigger s p = true → x.state = 1 → ∃ t, Gives (.stopeRetire p) s t ∧ gone t ∧ taken t ∧ AllEnded s t (runs x.logical) 0x0702) ∧
  (x.state ≠ 3 → ∀ pass, Gives (.remapComplete p pass) s s) ∧
  (x.state = 3 → levelHeld s (stopeLevel x.logical) = false → ∃ t, Gives (.remapComplete p true) s t ∧ (physOf t p).state = 1 ∧ (physOf t p).logical = x.logical ∧
    (crewOf t x.logical 16).state = .running ∧ (crewOf t x.logical 16).pc = 0 ∧ (∀ cr, cr < 16 → (crewOf t x.logical cr).state = .idle)) ∧
  (x.state = 3 → ∃ t, Gives (.remapComplete p false) s t ∧ gone t ∧ taken t ∧ (physOf t p).fails = min 255 (x.fails + 1)) ∧
  (x.testing = false → ∀ pass, Gives (.selfTestDone p pass) s s) ∧
  (x.testing = true → Gives (.selfTestDone p true) s (putPhys s p { x with testing := false })) ∧
  (x.testing = true → x.state = 1 → ∃ t, Gives (.selfTestDone p false) s t ∧ gone t ∧ taken t) ∧
  (x.testing = true → x.state = 2 → ∃ t, Gives (.selfTestDone p false) s t ∧ gone t ∧ (∀ r, r ≠ p → physOf t r = physOf s r)) ∧
  ((stopeOf s st).double = false → Gives (.stopeDoubleFaultReset st) s s) ∧
  ((stopeOf s st).double = true → ∃ t, Gives (.stopeDoubleFaultReset st) s t ∧ AllEnded s t (runs st) 0x0703 ∧
    (∀ cr, cr < 16 → (crewOf t st cr).state = .idle) ∧ (stopeOf t st).double = false ∧
    ∀ r, physHolding s st = some r → (physOf t r).doubles = dayTimes s (physOf s r).doubles ++ [s.now] ∧
      (levelHeld s (stopeLevel st) = false → (crewOf t st 16).state = .running ∧ (crewOf t st 16).pc = 0))

/-- R349 to R351, R360: a level fault is recorded, its commands end, queued ones too, its level is reset and its stopes put under test; a
monitor that fails is retired; a submitted record enters the log with its physical stope and frees its overman once none of its records
waits, another as it stands; STORE_UNCORR counts against its stope. Which commands a level fault ends and how a record counts is the model's
reading (log 36), and a row that cannot happen leaves the state as it is (log 1). -/
def LevelFaultsAndRecords : Prop := ∀ (n st p : Nat) (bs : List Byte) (s : State),
  let logged := fun (t : State) => tget t.flt.log 0 (s.flt.count % 512)
  (8 ≤ n ∨ (levelOf s n).up = false → Gives (.levelFault n) s s) ∧
  (n < 8 → (levelOf s n).up = true → ∃ t, Gives (.levelFault n) s t ∧ (levelOf t n).tallies = [] ∧ (levelOf t n).marks = [] ∧
    (levelOf t n).sieve = {} ∧ (∀ i cr, i < 20 → cr < 16 → crewOf t (20 * n + i) cr = {}) ∧
    AllEnded s t (fun c => unfinished c && (workLevels c).contains n) 0x0704 ∧
    ∀ i, i < 22 → (physOf t (22 * n + i)).state = 1 ∨ (physOf t (22 * n + i)).state = 2 → (physOf t (22 * n + i)).testing = true) ∧
  (8 ≤ n ∨ (levelOf s n).monRetired = true ∨ headsUp s = false → Gives (.monitorRetired n) s s) ∧
  (headsUp s = false → Gives (.faultRecordAppend bs) s s) ∧
  (n < 8 → (levelOf s n).monRetired = false → headsUp s = true → s.flt.takeover = none → ∃ t, Gives (.monitorRetired n) s t ∧ levelOf t n = { levelOf s n with monRetired := true } ∧
    t.flt.retMons = s.flt.retMons ++ [n] ∧ t.flt.count = s.flt.count + 1 ∧ t.stopes = s.stopes) ∧
  (bs.length = 64 → headsUp s = true → s.flt.takeover = none →
    (s.flt.subm.find? (fun e => decide (e.2 = bs)) = some (st, bs) → ∃ t, Gives (.faultRecordAppend bs) s t ∧
      t.flt.count = s.flt.count + 1 ∧ t.flt.subm = s.flt.subm.erase (st, bs) ∧
      stopeOf t st = { stopeOf s st with fltBusy := (s.flt.subm.erase (st, bs)).any (fun g => decide (g.1 = st)) } ∧
      bits (logged t).toNat 0 16 = field bs 0 2 ∧ bits (logged t).toNat 48 16 = physUnit s st % 2 ^ 16 ∧
      bits (logged t).toNat 384 32 = s.flt.count % 2 ^ 32) ∧
    (s.flt.subm.find? (fun e => decide (e.2 = bs)) = none → ∃ t, Gives (.faultRecordAppend bs) s t ∧
      t.flt.count = s.flt.count + 1 ∧ t.flt.subm = s.flt.subm ∧ t.stopes = s.stopes ∧
      bits (logged t).toNat 0 384 = field bs 0 48 ∧ bits (logged t).toNat 384 32 = s.flt.count % 2 ^ 32 ∧
      (field bs 0 2 ≠ fcStoreUncorr → t.phys = s.phys) ∧
      (field bs 0 2 = fcStoreUncorr → storeStope s (field bs 0x20 8) = none → physHolding s (field bs 4 2) = some p →
        t.phys = (putPhys s p { physOf s p with hits := dayTimes s (physOf s p).hits ++ [s.now] }).phys)))

/-- The active controller stands on headframe h. -/
def ActiveOn (f : Faults) (h : Nat) : Prop := (h = 0 ∧ f.h0Active = true) ∨ (h = 1 ∧ f.h0Active = false ∧ f.h1Active = true)

/-- The two records, and those that waited for a controller (R364). -/
def recordsWaiting (f : Faults) : Nat := (f.evq.filter (fun e => match e with | .record _ => true | _ => false)).length

/-- R362 to R367, R383: heartbeats come every 100 µs; three missed ones, or the stop of the active controller, begin a takeover by the
synchronised standby, in which MBX_READY reads 0 and events wait; its end gives the roles, the records and what waited, and a drain starts
again. A failed standby is recorded and comes back, unless it failed twice in a day; a canary that sees its trigger halts the device, a lost
one is marked. The takeover's two rows and its trigger, a free value, are the model's choice (log 40), the triggers' times its reading (log 36), and a row that cannot
happen leaves the state as it is (log 1). -/
def ControllersFailOver : Prop := ∀ (h g n c : Nat) (s : State),
  let f := s.flt
  let word := fun (w : Word32) (k : Nat) => k % 16 + 16 + bits w.toNat 5 1 * 32 + (bits w.toNat 16 16 + 1) % 2 ^ 16 * 2 ^ 16
  let again := fun (k now : Nat) => ∃ a, (k, a) ∈ f.ctlFails ∧ now ≤ a + 86400000000000
  (ActiveOn f h → f.takeover = none →
    (let u := advance s (f.lastBeat + 100000)
    let missed := min ((u.now - f.lastBeat) / 100000 - 1) 255
    ∃ t, Gives .heartbeat s t ∧ t.now = u.now ∧ t.flt.lastBeat = u.now ∧
      t.flt.hbMissed0 = (if h = 0 then max f.hbMissed0 missed else f.hbMissed0) ∧
      t.flt.hbMissed1 = (if h = 0 then f.hbMissed1 else max f.hbMissed1 missed)) ∧
    (f.standby = true → f.safeHalt = false →
      ∃ stopped : Bool, let u := if stopped then s else advance s (f.lastBeat + 300000)
      ∃ t, Gives .controllerTakeover s t ∧ t.now = u.now ∧ t.flt.takeover = some (h, u.now) ∧ readyBits t.ep t.flt = 0 ∧
        t.flt.h0Active = false ∧ t.flt.h1Active = false ∧ t.flt.standby = false ∧ t.flt.ctlFails = f.ctlFails ++ [(h, u.now)] ∧
        (again h u.now → h ∈ t.flt.dead) ∧ t.stopes = u.stopes ∧ t.cmds = u.cmds) ∧
    (f.standby = false ∨ f.safeHalt = true → Gives .controllerTakeover s s) ∧
    (1 - h ∉ f.dead → Gives (.standbyResync true) s { s with flt := { f with standby := true } }) ∧
    (1 - h ∈ f.dead → Gives (.standbyResync true) s s) ∧
    (f.standby = true → ∃ t, Gives .deputyFail s t ∧ t.flt.standby = false ∧ t.flt.h0Active = f.h0Active ∧ t.flt.h1Active = f.h1Active ∧
      t.flt.ctlFails = f.ctlFails ++ [(1 - h, s.now)] ∧ (again (1 - h) s.now → 1 - h ∈ t.flt.dead) ∧ t.flt.count = f.count + 1 ∧
      t.stopes = s.stopes) ∧
    (f.standby = false → Gives .deputyFail s s)) ∧
  (f.takeover = some (g, n) → ∃ t, Gives .controllerTakeover s t ∧ t.flt.takeover = none ∧ t.flt.h0Active = decide (g = 1) ∧
    t.flt.h1Active = decide (g = 0) ∧ t.flt.evq = [] ∧ t.flt.takeovers = satAdd 8 f.takeovers 1 ∧ t.flt.lastBeat = s.now ∧
    t.flt.count = f.count + 2 + recordsWaiting f ∧ t.ep.deputy = decide (g = 0) ∧ t.stopes = s.stopes ∧ t.cmds = s.cmds ∧
    (s.snap.op = 3 → t.snap.op = 3 ∧ t.snap.phase = 2 ∧ t.snap.segs = [] ∧ t.snap.restarted = true)) ∧
  Gives (.standbyResync false) s s ∧
  (f.h0Active = false → f.h1Active = false → Gives .heartbeat s s ∧ Gives .deputyFail s s ∧ Gives (.standbyResync true) s s ∧
    (f.takeover = none → Gives .controllerTakeover s s)) ∧
  (∀ at', f.safeHalt = false → h < 2 → s.pins.vauxOk = true →
    (c = 1 ∧ 0 < f.lastBeat ∧ f.takeover = none ∧ at' = f.lastBeat + 300000) ∨
    (c = 2 ∧ f.takeover = some (g, n) ∧ at' = n + 2000000) ∨
    (c = 3 ∧ (f.h0Active = true ∨ f.h1Active = true) ∧ f.standby = false ∧ at' = s.now) ∨
    (c = 4 ∧ s.boot.released = some n ∧ at' = n + 2500000000) →
    ∃ t, Gives (.safeHalt h c) s t ∧ t.now = (advance s at').now ∧ t.flt.safeHalt = true ∧ headsUp t = false ∧ t.ep.ready = false ∧
      t.ep.cmdReady = false ∧ t.ep.aerFatal = true ∧ t.boot.steps = [] ∧ bit t.i3c.alert.toNat 2 = true ∧ t.snap.op ≠ 3 ∧
      t.flt.canary0.toNat = word f.canary0 (if h = 0 then c else 5) ∧ t.flt.canary1.toNat = word f.canary1 (if h = 0 then 5 else c) ∧
      (∀ k, k < 8 → (levelOf t k).up = false) ∧ ∀ p, p < 12 → (portOf s p).state = .up → (portOf t p).state = .vigil) ∧
  (f.safeHalt = true ∨ 2 ≤ h ∨ s.pins.vauxOk = false ∨ (c ≠ 1 ∧ c ≠ 2 ∧ c ≠ 3 ∧ c ≠ 4) ∨ (c = 1 ∧ (f.lastBeat = 0 ∨ f.takeover ≠ none)) ∨
    (c = 2 ∧ f.takeover = none) ∨ (c = 3 ∧ (f.standby = true ∨ (f.h0Active = false ∧ f.h1Active = false))) ∨
    (c = 4 ∧ s.boot.released = none) → Gives (.safeHalt h c) s s) ∧
  (2 ≤ h ∨ s.pins.vauxOk = false → Gives (.canaryLost h) s s) ∧
  (h < 2 → s.pins.vauxOk = true →
    let m := if h = 0 then { f with canary0 := f.canary0 ||| 0x20 } else { f with canary1 := f.canary1 ||| 0x20 }
    (f.h0Active = false → f.h1Active = false → Gives (.canaryLost h) s { s with flt := m }) ∧
    (f.h0Active = true ∨ f.h1Active = true → ∃ t, Gives (.canaryLost h) s t ∧ t.flt.canary0 = m.canary0 ∧ t.flt.canary1 = m.canary1 ∧
      (f.takeover = none → t.flt.count = f.count + 1)))

/-- R8 to R11, R31, R305 to R308, R312: a write of a register takes effect in a cycle of its own, one of a read-only register, past the
maps or misaligned none; flags are cleared by ones; the low half of a 64-bit register is held until its high half comes; the mailbox
rings take bytes; the host reaches its interface and its window through BAR0 while configuration space is served, and may not write the
registers that R307 excepts; a block whose domain is in reset or unpowered and a controller that has failed write nothing (R37, R364, R403).
The cycle of its own is the model's reading (log 32), and so is what powers a block (log 26). -/
def RegisterWritesTakeEffect : Prop := ∀ (host : Bool) (k m o : Nat) (v : Word64) (s : State), k < 16 → m < 8 →
  let w := v.toNat % 2 ^ 32
  let u := advance s (s.now + 1)
  let key := 0x030300200100 + 8 * k
  let budget := { u with nrg := { u.nrg with budgetNext := w, budgetNew := true } }
  let setClass := fun (n : Nat) => { u with
    lowHeld := tdel u.lowHeld key, nrg := { u.nrg with classes := tset u.nrg.classes 0 k (BitVec.ofNat 64 (n % 2 ^ 58)) } }
  let refused := { u with ep := { u.ep with winErr := true } }
  ((activeHead u).isSome = false → ∀ pa width, Gives (.registerWrite false pa width v) s u) ∧
  ((activeHead u).isSome = true →
  (aonOn u = false → Gives (.registerWrite false 0x030300200008 4 v) s u ∧ Gives (.registerWrite false key 8 v) s u) ∧
  (∃ t, Gives (.registerWrite false 0x030200100000 4 v) s t ∧ t.fabId = w % 2 ^ 12 ∧ t.stopes = u.stopes ∧ t.mem = u.mem) ∧
  (aonOn u = true →
  Gives (.registerWrite false 0x030300200008 4 v) s budget ∧
  Gives (.registerWrite false 0x030300200004 4 v) s u ∧
  Gives (.registerWrite false 0x030300100004 4 v) s { u with rnd := { u.rnd with
    cadLost := u.rnd.cadLost && !bit w 2, cregIgn := u.rnd.cregIgn && !bit w 7
    phaseIgn := u.rnd.phaseIgn && !bit w 8, gobIgn := u.rnd.gobIgn && !bit w 9 } } ∧
  Gives (.registerWrite false key 8 v) s (setClass v.toNat) ∧
  Gives (.registerWrite false key 4 v) s { u with lowHeld := tput u.lowHeld key (BitVec.ofNat 32 w) } ∧
  (∀ x, heldLow u key = some x → Gives (.registerWrite false (key + 4) 4 v) s (setClass (x.toNat + w * 2 ^ 32))) ∧
  (heldLow u key = none →
    Gives (.registerWrite false (key + 4) 4 v) s (setClass ((tget u.nrg.classes 0 k).toNat % 2 ^ 32 + w * 2 ^ 32))) ∧
  (o % 4 = 0 → o < 2 ^ 16 → ∃ t, Gives (.registerWrite false (ringAddr m o) 4 v) s t ∧
    (∀ i, i < 4 → cellAt t.mem (ringAddr m o + i) = BitVec.ofNat 8 (w / 2 ^ (8 * i))) ∧
    (∀ pa, ¬ (ringAddr m o ≤ pa ∧ pa < ringAddr m o + 4) → cellAt t.mem pa = cellAt u.mem pa)))) ∧
  (∀ width, o % 4 ≠ 0 ∨ (width ≠ 4 ∧ width ≠ 8) ∨ (host = false ∧ (o < 0x030000000000 ∨ 0x030400000000 ≤ o)) →
    Gives (.registerWrite host o width v) s u) ∧
  (u.ep.cfgServed = false ∨ aonOn u = false → ∀ width, Gives (.registerWrite true o width v) s u) ∧
  (u.ep.cfgServed = true → aonOn u = true →
    Gives (.registerWrite true (0x114 + 32 * m) 4 v) s (putMbx u m { mbxOf u m with coal := BitVec.ofNat 32 (w % 2 ^ 24) }) ∧
    (let unmasked := { u.ep with msixMask := tset u.ep.msixMask true m (bit w 0) }
    let on := bit u.ep.msixCtl.toNat 15 = true ∧ bit u.ep.msixCtl.toNat 14 = false
    (bit w 0 = false → bit u.ep.pba m = true → on → Gives (.registerWrite true (0x6000 + 16 * m + 12) 4 v) s { u with
      ep := { unmasked with pba := u.ep.pba - 2 ^ m }, out := .msix m :: u.out }) ∧
    (bit w 0 = true ∨ bit u.ep.pba m = false ∨ ¬ on → Gives (.registerWrite true (0x6000 + 16 * m + 12) 4 v) s { u with ep := unmasked })) ∧
    (u.ep.winBase.toNat = 0x030300200000 → Gives (.registerWrite true 0x8008 4 v) s budget) ∧
    (u.ep.winBase.toNat = 0x030200100000 → headsUp u = true → Gives (.registerWrite true 0x8000 4 v) s refused) ∧
    (winOk u.ep.winBase.toNat = false → o < 0x2000 → Gives (.registerWrite true (0x8000 + 4 * o) 4 v) s refused))
/-! ### The machine as a whole -/

/-- The front command of the queue runs on the state with the queue's rest; an empty queue lets one device cycle pass (the model's choice,
log 2), in which a pending in-band interrupt of the I3C target leaves (log 33). -/
def StepRunsTheFrontCommand : Prop :=
  (∀ (c : Instr) (rest : List Instr) (s : State), step { s with pending := c :: rest } = exec c { s with pending := rest }) ∧
  ∀ s : State, s.pending = [] → step s = .next (sendIbi (advance s (s.now + 1)))

/-- Every command answers a next state, and the queue's rest stays as it is. -/
def EveryCommandAnswers : Prop := ∀ (c : Instr) (s : State), ∃ t, exec c s = .next t ∧ t.pending = s.pending

/-- No command loses the canonical form of memory. -/
def StepsKeepMemoryCanonical : Prop := ∀ s t : State, MemOk s → step s = .next t → MemOk t

/-- What the register maps' Reset columns give, for every unit: block, offset, value (R33, R70, R135, R161, R231, R266, R267, R299,
R311, R340, R397). -/
def resetRegisters (st n p : Nat) : List (Blk × Nat × Nat) := [
  (.stp st, 0x0100, 0), (.stp st, 0x0140, 8), (.stp st, 0x0400, 0), (.stp st, 0x0408, 0), (.stp st, 0x0450, 0), (.stp st, 0x0800, 0),
  (.stp st, 0x4010, 0), (.trc st, 0x0000, 3), (.trc st, 0x0004, 0), (.lvl n, 0x0000, 0), (.lvl n, 0x0004, 0),
  (.lvl n, 0x1000, 0), (.hst n, 0x00, 0x00400000), (.hst n, 0x04, 0), (.lmark n, 0x0410, 0x40), (.uas p, 0x00, 0x306),
  (.uas p, 0x0C, 0x10003D09), (.uas p, 0x04, 0), (.hdf 0, 0x00100000, 0xFFF), (.hdf 0, 0x00100004, 0xF), (.rnd, 0x0000, 0),
  (.rnd, 0x0018, 1000), (.rnd, 0x001C, 0), (.rnd, 0x0020, 0x3B6), (.rnd, 0x0030, 0), (.nrg, 0x0000, 0x6400), (.nrg, 0x0004, 0xFFFFFFFF),
  (.nrg, 0x0008, 0xFFFFFFFF), (.nrg, 0x001C, 0x5DC), (.mbx, 0x80000, 0x00018160), (.mbx, 0x80004, 0), (.mbx, 0x80008, 0),
  (.mbx, 0x8000C, 0x3FF), (.mbx, 0x80010, 0x0000030000000000), (.mbx, 0x80018, 0), (.mbx, 0x80100, 0), (.snp, 0x04, 1), (.flt, 0x0000, 0),
  (.flt, 0x0080, 0), (.dtal, 0x0000, 0)]

/-- The state after reset: no command waits, memory lists nothing, the registers read as the maps' Reset columns say (R8), every crew
is idle at word 0 with generators at 0x0001 (R104, R361), both weight planes of an array hold 0 and are not valid (R66), every
physical stope is untested (R34), MSI-X vectors are masked (R305). What a byte that nothing has written reads as, and with it the planes and
memory, is the model's choice where the spec gives no contents (log 4). -/
def ResetLeavesTheSpecsValues : Prop :=
  State.reset.pending = [] ∧ State.reset.mem = [] ∧ MemOk State.reset ∧ State.reset.cmds = [] ∧ State.reset.out = [] ∧
  (∀ st n p x, st < 160 → n < 8 → p < 12 → x ∈ resetRegisters st n p → (regAt State.reset x.1 x.2.1).map (·.val) = some x.2.2) ∧
  (∀ n k, n < 8 → k < 22 → (lvlReg State.reset n (0x0010 + 4 * k)).map (·.val) = some 0xFF) ∧
  (∀ st cr l, (crewOf State.reset st cr).state = .idle ∧ (crewOf State.reset st cr).pc = 0 ∧ (crewOf State.reset st cr).loops = [] ∧
    tget (crewOf State.reset st cr).gens 1 l = 1) ∧
  (∀ st a, (arrOf (stopeOf State.reset st) a).plane0 = {} ∧ (arrOf (stopeOf State.reset st) a).plane1 = {} ∧
    (arrOf (stopeOf State.reset st) a).wide = false) ∧
  (∀ v, tget State.reset.ep.msixMask true v = true) ∧ State.reset.ep.pba = 0

/-! ### Two rules whole -/

/-- R250: a WAKE on a port with WAKE_OK set starts the exit to Full from Vigil or Doze; in any other state, or without WAKE_OK, it
has no effect, nor while the device is on its way already, quenched or halted. The times of the exit and its steps are the model's (logs
19, 29). -/
def WakeStartsTheExit : Prop := ∀ (p : Nat) (s : State),
  let ok := bit (portOf s p).live.toNat 7
  (carries (portOf s p) = true → s.powerNext = none → s.boot.steps = [] → tramsOff s = false → ok = true →
    (s.power = .doze → Gives (.wake p) s { s with powerNext := some (.full, s.now + 25000000) }) ∧
    (s.power = .vigil → Gives (.wake p) s { s with boot := { s.boot with steps := vigilSteps, t0 := s.now } })) ∧
  (s.power ≠ .vigil → s.power ≠ .doze → Gives (.wake p) s s) ∧ (ok = false → Gives (.wake p) s s) ∧
  (s.powerNext ≠ none ∨ s.boot.steps ≠ [] ∨ tramsOff s = true → Gives (.wake p) s s)

/-- R55: MSTRT against a plane in MXFP4 raises ARRAY_FORMAT and one on a wide-shallow array ARRAY_MODE; either way it writes nothing:
the arrays, the store and the crew's registers and tile registers stand. The code is that of the first array whose stream would
fault, and either of the two where both hold; which faults of a stream come first is the model's choice (log 11). -/
def ColumnReadsThatTrap : Prop := ∀ (st ag : Nat) (w : Word64) (s : State) (a : Nat), ag < 16 → streamWord w = true →
  let x0 := stopeOf s st
  let c := atCycle s st ag plain (feedFloor x0 w) (feedAdmits x0 w true)
  let u := atIssue s st ag c
  let x := stopeOf u st
  let k := crewOf u st ag
  let y := tileOf k (sourceTile w a)
  let mxfp4 := (planeOf (arrOf x a) (activeAt (arrOf x a) c)).fmt = 8
  let wide := wideAt (arrOf x a) c
  Issues s st ag w 0x34 → a ∈ targets w → (∀ b ∈ targets w, b < a → streamFault x k w true c b = none) →
  y.rows ≠ 0 → (twoHalves y.fmt = true → wide = false → (tileOf k ((sourceTile w a + 1) % 8)).rows ≠ 0) →
  (wide = true ∨ mxfp4) →
  ∃ t, Gives (.mstrt st ag w) s t ∧ (crewOf t st ag).state = .faulted ∧
    (let code := (crewOf t st ag).faultCode;
      (wide = false → code = fcArrayFormat) ∧ (¬ mxfp4 → code = fcArrayMode) ∧ (code = fcArrayMode ∨ code = fcArrayFormat)) ∧
    (crewOf t st ag).faultPc = k.pc ∧
    (∀ b, { arrOf (stopeOf t st) b with stallWeight := 0 } = { arrOf x b with stallWeight := 0 }) ∧ (stopeOf t st).side = x.side ∧
    (crewOf t st ag).pc = k.pc ∧ (crewOf t st ag).pend = k.pend ∧
    { sansFlow (crewOf t st ag) with state := .idle, faultCode := 0, faultPc := 0 } =
      { sansFlow k with state := .idle, faultCode := 0, faultPc := 0 } ∧
    (∀ b, b ≠ ag → b ≠ 16 → crewOf t st b = crewOf u st b) ∧
    { crewOf t st 16 with state := .idle, nextIssue := 0 } = { crewOf u st 16 with state := .idle, nextIssue := 0 } ∧ OnlyTraced u t st 1
end Sys2Proof.Claims

open Sys2Proof Sys2Proof.Machine Sys2Proof.Claims

/-- A step runs the command at the front of the queue; an empty queue lets a device cycle pass (log 2). -/
def Obligations.StepRunsFrontCommand : Prop := StepRunsTheFrontCommand

/-- What reset leaves: the register maps' reset values, idle crews, empty planes and memory. -/
def Obligations.ResetState : Prop := ResetLeavesTheSpecsValues

/-- Every step keeps the canonical form of memory. -/
def Obligations.MemoryStaysCanonical : Prop := StepsKeepMemoryCanonical

/-- Every command answers a next state and leaves the queue's rest alone. -/
def Obligations.CommandsAnswerAndKeepQueue : Prop := EveryCommandAnswers

/-- WAKE starts the exit from Vigil or Doze, and has no effect otherwise. -/
def Obligations.WakeStartsExit : Prop := WakeStartsTheExit

/-- MSTRT against an MXFP4 plane or on a wide-shallow array traps and writes nothing. -/
def Obligations.ColumnReadsTrap : Prop := ColumnReadsThatTrap

/-- Two writes of the overman make one software trace record. -/
def Obligations.SoftwareTraceRecord : Prop := SoftwareTraceRecords

/-- Scalar arithmetic and immediates write Sd and nothing else. -/
def Obligations.ScalarRows : Prop := ScalarArithmeticWritesSd ∧ ScalarImmediateWritesSd

/-- Vector rows write their destination under the predicate and nothing else. -/
def Obligations.VectorRows : Prop := VectorRowsWriteDestination ∧ PredicateRowsWritePredicate

/-- SLD, SST, VLD and VST move their bytes. -/
def Obligations.StoreAccesses : Prop := StoreAccessesMoveBytes

/-- Bad store offsets, bad shapes and privileged words fault the crew. -/
def Obligations.SynchronousFaults : Prop := StoreAccessesTrapOnBadOffset ∧ BadShapesTrap ∧ PrivilegedWordsTrapOnCrews

/-- Branches, calls, returns and loops. -/
def Obligations.ControlFlow : Prop := BranchesGo ∧ LoopsOpenAndCount

/-- WAIT, FENCE, HALT and the tally instructions at issue. -/
def Obligations.WaitsFencesTallies : Prop := WaitFenceHalt ∧ TallyInstructionsIssue

/-- SYSRD, SYSWR, CRRD and CRWR. -/
def Obligations.OvermanRegistersAndCrewElements : Prop :=
  OvermanReadsAndWritesSystemRegisters ∧ OvermanReadsAndWritesCrewElements

/-- The overman starts and stops crews, loads claims, swaps, waits, returns and records. -/
def Obligations.OvermanControl : Prop := OvermanStartsAndStopsCrews ∧ OvermanLoadsClaims ∧ OvermanSwapsWaitsReturnsRecords

/-- TCFG, TREL, TRD, TWR and SRSEED. -/
def Obligations.TileRegisters : Prop := TileShapesChange ∧ TileRowsMove

/-- CVT, CVTW and CVTT. -/
def Obligations.Conversions : Prop := WideningConversions ∧ NarrowingConversions

/-- TLD, TST, TRAM and HOIST hand their work over. -/
def Obligations.TransfersAndHoistsIssue : Prop := TransfersQueue ∧ HoistHandsOver

/-- WLD, WSW and MCFG. -/
def Obligations.WeightsSwapsShapes : Prop := WeightLoadFillsShadowPlanes ∧ SwapAndShapeFromNextCycle

/-- MFWD, MSTRT, ARD, AWR and ACLR. -/
def Obligations.StreamsAndAccumulators : Prop := StreamsStart ∧ AccumulatorRowsMove

/-- RESULT_READY lands the oldest write in flight and what is due with it. -/
def Obligations.ResultsLand : Prop := ResultReadyLandsTheWrite

/-- A stream row writes its sums; an unpaired one free values. -/
def Obligations.StreamRows : Prop := StreamRowWritesItsSums ∧ UnpairedRowsAreFree

/-- Weight tiles are checked; a check hold re-reads and ends. -/
def Obligations.WeightTileChecks : Prop := WeightTilesAreChecked ∧ CheckHoldEnds

/-- Program banks swap at fences; the overman enters its handler. -/
def Obligations.SwapsAndHandlers : Prop := BanksSwapAtFences ∧ OvermanEntersItsHandler

/-- Transfers start and their rows are translated. -/
def Obligations.TransfersMove : Prop := TransfersStart ∧ RowsTranslate

/-- Rows of a TLD enter the register; uncorrectable ones stop it. -/
def Obligations.RowsRetire : Prop := LoadRowsRetire ∧ StoreRowsRetire ∧ UncorrectableRowsStop

/-- Loaded tiles are compared; sidecar entries are written. -/
def Obligations.TilesAreChecked : Prop := LoadedTilesAreChecked ∧ EntriesAreAcknowledged

/-- Assay records, completion and holding of transfers. -/
def Obligations.TransfersFinish : Prop := AssayRecordsUpdate ∧ TransfersComplete ∧ FaultedTransfersAreHeld

/-- Held transfers resume or end; the quiesce stops the tram. -/
def Obligations.HeldTransfersAndQuiesce : Prop := HeldTransfersResumeOrEnd ∧ QuiesceStopsTheTram

/-- Context operations start and finish. -/
def Obligations.Contexts : Prop := ContextOperationsStart ∧ ContextOperationsFinish

/-- System registers read back; TRACE_CLEAR starts the ring again. -/
def Obligations.SystemRegistersAndTraceRings : Prop := SystemRegistersReadBack ∧ TraceRingsClear

/-- Signals reach their tally, which saturates; a count write sets it. -/
def Obligations.SignalsReach : Prop := SignalsReachTallies ∧ TalliesSaturate ∧ CountWritesSet

/-- A scan serves the oldest takes first and conserves the count. -/
def Obligations.ScanConserves : Prop := ScanServesOldestTakesFirst

/-- Waits arrive, are released and withdrawn; stopes sleep. -/
def Obligations.WaitsAndReleases : Prop := WaitsArrive ∧ ReleasedCrewsRun ∧ WithdrawalsStopCrews ∧ StopesSleep

/-- Hoist segments are read and join the local contributions. -/
def Obligations.HoistLocal : Prop := HoistSegmentsAreRead ∧ LocalContributionsArrive

/-- Slices arrive, go forward, are acknowledged; the hoist's controls. -/
def Obligations.HoistFabric : Prop := SlicesArrive ∧ SlicesGoForward ∧ CreditsAreGranted ∧ HoistControl

/-- Marks fire; the commit mark decides; DROP_CURRENT. -/
def Obligations.MarksAndDecisions : Prop := MarksFire ∧ ReleaseMarkFires ∧ CommitMarkDecides ∧ DropCurrentDrops

/-- Commit and drop notices reach the blocks; drops are backfilled. -/
def Obligations.NoticesAndBackfill : Prop := CommitNoticesReach ∧ DropsAreBackfilled

/-- Rounds start; regions and gobs are written; stack writes save granules. -/
def Obligations.RoundsRegionsGobs : Prop := RoundsStart ∧ RegionAndGobWrites ∧ StackWritesSaveGranules

/-- Beacons, ROUND_IN, PRESENCE and ABSENT. -/
def Obligations.CadenceAndPresence : Prop := CadenceIsKept ∧ PresenceAndAbsentGoOn

/-- A ledger tick counts the energy of its time. -/
def Obligations.LedgerCounts : Prop := LedgerTicks

/-- Commands are admitted or refused; fill commands yield. -/
def Obligations.Admission : Prop := CommandsAreAdmitted ∧ FillCommandsYield

/-- Commands start, report, time out and finish. -/
def Obligations.CommandsRun : Prop := CommandsStart ∧ StopesReportFree ∧ FillCommandsTimeOut ∧ CommandsFinish

/-- RUN, LOAD_PROG and QUERY_INSTALL. -/
def Obligations.ProgramsRun : Prop :=
  RunStartsCrews ∧ LoadProgQueuesCopies ∧ QueryInstallStartsCrews ∧ UncorrectableWordsEndCommands

/-- Sieves take jobs and go through their rows. -/
def Obligations.Sieves : Prop := SievesTakeJobs ∧ SieveRowsAdvance

/-- Mailbox indices and replies. -/
def Obligations.Mailboxes : Prop := MailboxIndicesMove ∧ RepliesArePosted

/-- Requests need a session; HELLO and BYE. -/
def Obligations.Sessions : Prop := RequestsNeedASession ∧ SessionsOpenAndClose

/-- SUBMIT, CANCEL and STATUS. -/
def Obligations.CommandRequests : Prop := SubmitQueuesCommands ∧ CancelAndStatus

/-- Budget, identifier, power, log and recovery requests. -/
def Obligations.SettingRequests : Prop := BudgetIdentifierAndPower ∧ LogsRetirementAndRecovery

/-- Snapshots are staged and drained. -/
def Obligations.SnapshotsTaken : Prop := SnapshotsAreStaged ∧ SnapshotsDrain ∧ LinkLossEndsTheDrain

/-- Restores read segments and write them back. -/
def Obligations.SnapshotsRestored : Prop := RestoresRead ∧ RestoresWriteBack

/-- Quotes, certificates, firmware and configuration; the bring-up. -/
def Obligations.IdentityAndFirmware : Prop := QuotesAndCertificates ∧ FirmwareAndConfigurationUpdate ∧ BringUpProceeds

/-- Ports train, check flits, fail; ECHO. -/
def Obligations.UasonLinks : Prop := PortsTrain ∧ FlitsAreChecked ∧ LinksFailAndLoseLanes ∧ EchoAndWake

/-- Messages are routed; bulk data is sent and lands. -/
def Obligations.UasonMessages : Prop := MessagesAreRouted ∧ BulkEntriesAreSent ∧ BulkDataLands

/-- Queries are delivered and their answers collected. -/
def Obligations.Queries : Prop := QueriesAreDelivered ∧ AnswersAreCollected

/-- I3C and JTAG. -/
def Obligations.Sideband : Prop := I3cAddressesAndCodes ∧ I3cRegisters ∧ JtagInstructions

/-- Resets, retired stopes, level faults. -/
def Obligations.ResetsAndRetirement : Prop := ResetRequestsReset ∧ StopesAreRetiredAndRemapped ∧ LevelFaultsAndRecords

/-- Power states, ebb, quench, supplies and alerts. -/
def Obligations.PowerAndSupplies : Prop := PowerStatesAreReached ∧ EbbAndQuench ∧ SuppliesAndResetPin ∧ AlertsEndpointAndClocks

/-- Memory is scrubbed and retired; controllers fail over. -/
def Obligations.MemoryAndControllers : Prop := MemoryIsScrubbedAndRetired ∧ ControllersFailOver

/-- Register writes take effect. -/
def Obligations.RegisterWrites : Prop := RegisterWritesTakeEffect
end

