-- ==== Sys2Proof/Laws/Tab.lean ====
section
/-! SUPPORT. Sparse tables: reading after writing, and the canonical form. -/

namespace Sys2Proof.Machine

variable {α : Type}

theorem tget_tput_same (t : Tab α) (d : α) (k : Nat) (v : α) : tget (tput t k v) d k = v := by
  induction t with
  | nil => simp [tput, tget]
  | cons e t ih =>
    obtain ⟨j, u⟩ := e
    by_cases h : j = k
    · simp [tput, tget, h]
    · by_cases hk : k < j <;> simp [tput, tget, h, hk, ih]

theorem tget_tput_ne (t : Tab α) (d : α) {k i : Nat} (v : α) (h : i ≠ k) : tget (tput t k v) d i = tget t d i := by
  induction t with
  | nil => simp [tput, tget, Ne.symm h]
  | cons e t ih =>
    obtain ⟨j, u⟩ := e
    by_cases hj : j = k
    · subst hj; simp [tput, tget, Ne.symm h]
    · by_cases hk : k < j <;> simp [tput, tget, hj, hk, ih, Ne.symm h]

theorem tget_tdel_same (t : Tab α) (d : α) (k : Nat) : tget (tdel t k) d k = d := by
  induction t with
  | nil => rfl
  | cons e t ih =>
    obtain ⟨j, u⟩ := e
    by_cases h : j = k <;> simp [tdel, tget, h, ih]

theorem tget_tdel_ne (t : Tab α) (d : α) {k i : Nat} (h : i ≠ k) : tget (tdel t k) d i = tget t d i := by
  induction t with
  | nil => rfl
  | cons e t ih =>
    obtain ⟨j, u⟩ := e
    by_cases hj : j = k
    · subst hj; simp [tdel, tget, ih, Ne.symm h]
    · simp [tdel, tget, hj, ih]

@[simp] theorem tget_tset_same [DecidableEq α] (t : Tab α) (d : α) (k : Nat) (v : α) : tget (tset t d k v) d k = v := by
  unfold tset
  split
  · rename_i h; rw [tget_tdel_same, h]
  · exact tget_tput_same t d k v

theorem tget_tset_ne [DecidableEq α] (t : Tab α) (d : α) {k i : Nat} (v : α) (h : i ≠ k) :
    tget (tset t d k v) d i = tget t d i := by
  unfold tset
  split
  · exact tget_tdel_ne t d h
  · exact tget_tput_ne t d v h

theorem tget_tset [DecidableEq α] (t : Tab α) (d : α) (k i : Nat) (v : α) :
    tget (tset t d k v) d i = if i = k then v else tget t d i := by
  by_cases h : i = k
  · subst h; simp
  · simp [h, tget_tset_ne]

/-! ### The canonical form -/

theorem keysAbove_cons (lo : Option Nat) (j : Nat) (v : α) (t : Tab α) :
    keysAbove lo ((j, v) :: t) = true ↔ (∀ l, lo = some l → l < j) ∧ keysAbove (some j) t = true := by
  cases lo <;> simp [keysAbove]

theorem keysAbove_mono {lo hi : Nat} (h : lo ≤ hi) : ∀ t : Tab α, keysAbove (some hi) t = true → keysAbove (some lo) t = true
  | [], _ => rfl
  | (j, v) :: t, hk => by
    rw [keysAbove_cons] at hk ⊢
    exact ⟨fun l hl => Nat.lt_of_le_of_lt (by simp at hl; omega) (hk.1 hi rfl), hk.2⟩

theorem keysAbove_tput (t : Tab α) (k : Nat) (v : α) :
    ∀ lo : Option Nat, keysAbove lo t = true → (∀ l, lo = some l → l < k) → keysAbove lo (tput t k v) = true := by
  induction t with
  | nil => intro lo _ h; rw [tput, keysAbove_cons]; exact ⟨h, rfl⟩
  | cons e t ih =>
    obtain ⟨j, u⟩ := e
    intro lo ht hl
    rw [keysAbove_cons] at ht
    by_cases h : j = k
    · subst h; simpa [tput, keysAbove_cons] using ⟨hl, ht.2⟩
    · by_cases hk : k < j
      · simp only [tput, h, hk, if_true, if_false, keysAbove_cons]
        exact ⟨hl, by simpa using hk, ht.2⟩
      · simp only [tput, h, hk, if_false, keysAbove_cons]
        exact ⟨ht.1, ih (some j) ht.2 (by simp; omega)⟩

theorem keysAbove_tdel (t : Tab α) (k : Nat) : ∀ lo : Option Nat, keysAbove lo t = true → keysAbove lo (tdel t k) = true := by
  induction t with
  | nil => intro lo _; simp [tdel, keysAbove]
  | cons e t ih =>
    obtain ⟨j, u⟩ := e
    intro lo ht
    rw [keysAbove_cons] at ht
    by_cases h : j = k
    · simp only [tdel, h, if_true]
      refine ih lo ?_
      cases lo with
      | none => cases t with
        | nil => rfl
        | cons e t => obtain ⟨i, w⟩ := e; have := ht.2; rw [keysAbove_cons] at this ⊢; exact ⟨by simp, this.2⟩
      | some l => exact keysAbove_mono (Nat.le_of_lt (ht.1 l rfl)) t ht.2
    · simp only [tdel, h, if_false, keysAbove_cons]
      exact ⟨ht.1, ih (some j) ht.2⟩

theorem all_tput (p : Nat × α → Bool) (t : Tab α) (k : Nat) (v : α) (ht : t.all p = true) (hv : p (k, v) = true) :
    (tput t k v).all p = true := by
  induction t with
  | nil => simp [tput, hv]
  | cons e t ih =>
    obtain ⟨j, u⟩ := e
    simp only [List.all_cons, Bool.and_eq_true] at ht
    by_cases h : j = k
    · simp [tput, h, hv, ht.2]
    · by_cases hk : k < j
      · simp only [tput, h, hk, if_true, if_false, List.all_cons, Bool.and_eq_true]; exact ⟨hv, ht⟩
      · simp only [tput, h, hk, if_false, List.all_cons, Bool.and_eq_true]; exact ⟨ht.1, ih ht.2⟩

theorem all_tdel (p : Nat × α → Bool) (t : Tab α) (k : Nat) (ht : t.all p = true) : (tdel t k).all p = true := by
  induction t with
  | nil => rfl
  | cons e t ih =>
    obtain ⟨j, u⟩ := e
    simp only [List.all_cons, Bool.and_eq_true] at ht
    by_cases h : j = k
    · simp only [tdel, h, if_true]; exact ih ht.2
    · simp only [tdel, h, if_false, List.all_cons, Bool.and_eq_true]; exact ⟨ht.1, ih ht.2⟩

/-- Every write keeps the canonical form. -/
theorem tabWf_tset [DecidableEq α] {d : α} {t : Tab α} (k : Nat) (v : α) (h : tabWf d t = true) :
    tabWf d (tset t d k v) = true := by
  unfold tabWf at h ⊢
  rw [Bool.and_eq_true] at h ⊢
  unfold tset
  split
  · exact ⟨keysAbove_tdel t k none h.1, all_tdel _ t k h.2⟩
  · rename_i hv
    exact ⟨keysAbove_tput t k v none h.1 (by simp), all_tput _ t k v h.2 (by simpa using hv)⟩

theorem keysAbove_filter (p : Nat × α → Bool) (t : Tab α) :
    ∀ lo : Option Nat, keysAbove lo t = true → keysAbove lo (t.filter p) = true := by
  induction t with
  | nil => intro lo _; simp [keysAbove]
  | cons e t ih =>
    obtain ⟨j, u⟩ := e
    intro lo ht
    rw [keysAbove_cons] at ht
    by_cases h : p (j, u) = true
    · rw [List.filter_cons_of_pos h, keysAbove_cons]; exact ⟨ht.1, ih (some j) ht.2⟩
    · rw [List.filter_cons_of_neg h]
      refine ih lo ?_
      cases lo with
      | none => cases t with
        | nil => rfl
        | cons e t => obtain ⟨i, w⟩ := e; have := ht.2; rw [keysAbove_cons] at this ⊢; exact ⟨by simp, this.2⟩
      | some l => exact keysAbove_mono (Nat.le_of_lt (ht.1 l rfl)) t ht.2

/-- Leaving entries out keeps the canonical form. -/
theorem tabWf_filter [DecidableEq α] {d : α} {t : Tab α} (p : Nat × α → Bool) (h : tabWf d t = true) :
    tabWf d (t.filter p) = true := by
  unfold tabWf at h ⊢
  rw [Bool.and_eq_true] at h ⊢
  refine ⟨keysAbove_filter p t none h.1, ?_⟩
  rw [List.all_eq_true] at h ⊢
  intro e he
  exact h.2 e (List.mem_filter.mp he).1

theorem keysAbove_not_mem {t : Tab α} {k : Nat} : keysAbove (some k) t = true → ∀ d : α, tget t d k = d := by
  induction t with
  | nil => intro _ d; rfl
  | cons e t ih =>
    obtain ⟨j, u⟩ := e
    intro h d
    rw [keysAbove_cons] at h
    have hj := h.1 k rfl
    simp only [tget, Nat.ne_of_gt hj, if_false]
    exact ih (keysAbove_mono (Nat.le_of_lt hj) t h.2) d

/-- A canonical table is determined by what it reads: equal reads are equal data. -/
theorem tab_ext [DecidableEq α] {d : α} : ∀ {t u : Tab α}, tabWf d t = true → tabWf d u = true →
    (∀ k, tget t d k = tget u d k) → t = u := by
  have aux : ∀ (t u : Tab α) (lt lu : Option Nat), keysAbove lt t = true → keysAbove lu u = true →
      t.all (fun e => decide (e.2 ≠ d)) = true → u.all (fun e => decide (e.2 ≠ d)) = true →
      (∀ k, tget t d k = tget u d k) → t = u := by
    intro t
    induction t with
    | nil =>
      intro u lt lu _ _ _ hu h
      cases u with
      | nil => rfl
      | cons e u =>
        obtain ⟨j, v⟩ := e
        have := h j
        simp only [tget, if_true] at this
        simp only [List.all_cons, Bool.and_eq_true, decide_eq_true_eq] at hu
        exact absurd this.symm hu.1
    | cons e t ih =>
      obtain ⟨j, v⟩ := e
      intro u lt lu ht hu hta hua h
      rw [keysAbove_cons] at ht
      simp only [List.all_cons, Bool.and_eq_true, decide_eq_true_eq] at hta
      cases u with
      | nil =>
        have := h j
        simp only [tget, if_true] at this
        exact absurd this hta.1
      | cons e' u =>
        obtain ⟨i, w⟩ := e'
        rw [keysAbove_cons] at hu
        simp only [List.all_cons, Bool.and_eq_true, decide_eq_true_eq] at hua
        have hij : i = j := by
          rcases Nat.lt_trichotomy i j with hl | hl | hl
          · have := h i
            have hn : ¬ j = i := Nat.ne_of_gt hl
            simp only [tget, hn, if_false, if_true] at this
            rw [keysAbove_not_mem (keysAbove_mono (Nat.le_of_lt hl) t ht.2)] at this
            exact absurd this.symm hua.1
          · exact hl
          · have := h j
            have hn : ¬ i = j := Nat.ne_of_gt hl
            simp only [tget, hn, if_false, if_true] at this
            rw [keysAbove_not_mem (keysAbove_mono (Nat.le_of_lt hl) u hu.2)] at this
            exact absurd this hta.1
        subst hij
        have hvw : v = w := by have := h i; simpa [tget] using this
        subst hvw
        have : t = u := by
          refine ih u (some i) (some i) ht.2 hu.2 hta.2 hua.2 ?_
          intro k
          by_cases hk : i = k
          · subst hk; rw [keysAbove_not_mem ht.2, keysAbove_not_mem hu.2]
          · have := h k; simpa [tget, hk] using this
        rw [this]
  intro t u ht hu h
  unfold tabWf at ht hu
  rw [Bool.and_eq_true] at ht hu
  exact aux t u none none ht.1 hu.1 ht.2 hu.2 h

end Sys2Proof.Machine
end

