-- ==== Sys2Proof/Laws/Issue.lean ====
section
/-! SUPPORT. Small laws of the named operations: units read after a write, what an update leaves alone, what an issue does. -/

namespace Sys2Proof.Machine

@[simp] theorem stopeOf_putStope (s : State) (st : Nat) (x : Stope) : stopeOf (putStope s st x) st = x := by
  simp [stopeOf, putStope]

theorem stopeOf_putStope_ne (s : State) {st st' : Nat} (x : Stope) (h : st' ≠ st) :
    stopeOf (putStope s st x) st' = stopeOf s st' := by
  simp [stopeOf, putStope, tget_tset_ne _ _ _ h]

@[simp] theorem stopeOf_modStope (s : State) (st : Nat) (f : Stope → Stope) : stopeOf (modStope s st f) st = f (stopeOf s st) := by
  simp [modStope]

theorem stopeOf_modStope_ne (s : State) {st st' : Nat} (f : Stope → Stope) (h : st' ≠ st) :
    stopeOf (modStope s st f) st' = stopeOf s st' := by
  simp [modStope, stopeOf_putStope_ne _ _ h]

@[simp] theorem agentOf_putAgent (x : Stope) (ag : Nat) (c : Crew) : agentOf (putAgent x ag c) ag = c := by
  simp [agentOf, putAgent]

theorem agentOf_putAgent_ne (x : Stope) {ag a : Nat} (c : Crew) (h : a ≠ ag) : agentOf (putAgent x ag c) a = agentOf x a := by
  simp [agentOf, putAgent, tget_tset_ne _ _ _ h]

@[simp] theorem agentOf_modAgent (x : Stope) (ag : Nat) (f : Crew → Crew) : agentOf (modAgent x ag f) ag = f (agentOf x ag) := by
  simp [modAgent]

theorem agentOf_modAgent_ne (x : Stope) {ag a : Nat} (f : Crew → Crew) (h : a ≠ ag) : agentOf (modAgent x ag f) a = agentOf x a := by
  simp [modAgent, agentOf_putAgent_ne _ _ h]

@[simp] theorem crewOf_modCrew (s : State) (st ag : Nat) (f : Crew → Crew) : crewOf (modCrew s st ag f) st ag = f (crewOf s st ag) := by
  simp [crewOf, modCrew]

/-- A word that issues and whose body is done leaves the retired state. -/
theorem issue_done {s : State} {st ag : Nat} {w : Word64} {op : Nat} {n : Nat → Need} {floor : Nat} {adm : Nat → Bool}
    {body : State → Nat → IssueRes} {u : State} {f : Flow}
    (hm : mayIssue (stopeOf s st) ag = true) (hr : (agentOf (stopeOf s st) ag).ranOff = false) (ho : fOp w = op)
    (hb : body (if ag = 16 then settle (advance s (issueTime (stopeOf s st) ag s.now (issueCycle (stopeOf s st) ag s.now n floor adm))) st
        else settleAt (advance s (issueTime (stopeOf s st) ag s.now (issueCycle (stopeOf s st) ag s.now n floor adm))) st
          (issueCycle (stopeOf s st) ag s.now n floor adm)) (issueCycle (stopeOf s st) ag s.now n floor adm) = .done u f) :
    issue s st ag w op n floor adm body =
      retire u st ag (issueCycle (stopeOf s st) ag s.now n floor adm) (agentOf (stopeOf s st) ag).nextIssue
        (n (issueCycle (stopeOf s st) ag s.now n floor adm)) f := by
  unfold issue
  simp only [hm, ho, true_or, and_self, if_true, hr, Bool.false_eq_true, if_false, ne_eq, not_true]
  rw [hb]

end Sys2Proof.Machine
end

