-- ==== Sys2Proof/Laws/Frame.lean ====
section
/-! SUPPORT. What an issue, its writes in flight, its flow and its traps do, in the terms of the claims. -/

namespace Sys2Proof.Machine

open Sys2Proof.Claims

/-- Writes that go in flight touch no control field. -/
theorem foldl_addWrite_sans (es : List (Nat × Eff)) (c : Nat) (k : Crew) :
   sansFlow (es.foldl (fun k e => addWrite k { ready := c + e.1, eff := e.2 }) k) = sansFlow k ∧
   (es.foldl (fun k e => addWrite k { ready := c + e.1, eff := e.2 }) k).pc = k.pc ∧
   (es.foldl (fun k e => addWrite k { ready := c + e.1, eff := e.2 }) k).loops = k.loops ∧
   (es.foldl (fun k e => addWrite k { ready := c + e.1, eff := e.2 }) k).ranOff = k.ranOff ∧
   (es.foldl (fun k e => addWrite k { ready := c + e.1, eff := e.2 }) k).nextIssue = k.nextIssue := by
  induction es generalizing k with
  | nil => simp
  | cons e es ih =>
    simp only [List.foldl_cons]
    obtain ⟨a,b,d,f,g⟩ := ih (addWrite k { ready := c + e.1, eff := e.2 })
    rw [a,b,d,f,g]
    unfold addWrite
    cases e.2 <;> simp [sansFlow]

/-- Where a word leads depends on pc, loops and the run-off flag alone. -/
theorem passWord_congr {a b : Crew} (h1 : a.pc = b.pc) (h2 : a.loops = b.loops) (h3: a.ranOff = b.ranOff) (n:Nat) :
  (passWord a n).pc = (passWord b n).pc ∧ (passWord a n).loops = (passWord b n).loops ∧ (passWord a n).ranOff = (passWord b n).ranOff := by
  unfold passWord; rw [h2]
  split
  · simp [*]
  · unfold nextWord; simp; split <;> simp [*]

/-- Going past a word touches control fields only. -/
theorem sansFlow_passWord (a : Crew) (n : Nat) : sansFlow (passWord a n) = sansFlow a := by
  unfold passWord; split
  · simp [sansFlow]
  · unfold nextWord; simp; split <;> simp [sansFlow]

/-- Going past a word leaves the writes in flight. -/
theorem pend_passWord (a : Crew) (n : Nat) : (passWord a n).pend = a.pend ∧ (passWord a n).relPoint = a.relPoint := by
  unfold passWord; split
  · simp 
  · unfold nextWord; simp; split <;> simp 

/-- A flow touches control fields only. -/
theorem flowCrew_control_only (k : Crew) (c : Nat) (f : Flow) : sansFlow (flowCrew k c f) = sansFlow k ∧ (flowCrew k c f).pend = k.pend ∧ (flowCrew k c f).relPoint = k.relPoint := by
  have key : ∀ n, sansFlow (passWord k n) = sansFlow k ∧ (passWord k n).pend = k.pend ∧ (passWord k n).relPoint = k.relPoint :=
    fun n => ⟨sansFlow_passWord k n, pend_passWord k n⟩
  cases f with
  | stay => simp [flowCrew, sansFlow]
  | jump t => simp [flowCrew, sansFlow]
  | seq n => have := key k.pc; simp_all [flowCrew, sansFlow]
  | skip n => have := key n; simp_all [flowCrew, sansFlow]

/-- Where a flow leads depends on the control fields alone. -/
theorem flowCrew_congr {a b : Crew} (h1 : a.pc = b.pc) (h2 : a.loops = b.loops) (h3: a.ranOff = b.ranOff) (h4 : a.nextIssue = b.nextIssue) (c : Nat) (f : Flow) :
  (flowCrew a c f).pc = (flowCrew b c f).pc ∧ (flowCrew a c f).loops = (flowCrew b c f).loops ∧ (flowCrew a c f).ranOff = (flowCrew b c f).ranOff ∧ (flowCrew a c f).nextIssue = (flowCrew b c f).nextIssue := by
  cases f <;> simp [flowCrew, *]
  · have := passWord_congr h1 h2 h3 b.pc; simp_all
  · have := passWord_congr h1 h2 h3; simp_all

/-- A change of an agent is no other change of the stope. -/
theorem sansIssue_modAgent (x : Stope) (ag : Nat) (f : Crew → Crew) : sansIssue (modAgent x ag f) = sansIssue x := by
  simp [sansIssue, modAgent, putAgent]

/-- The map depends on the configuration alone. -/
theorem locate_conf {s t : State} (h : t.conf = s.conf) (pa) : locate t pa = locate s pa := by
  have hd : dataEnd t = dataEnd s := by funext k; unfold dataEnd spillOf; rw [h]
  have hm : dataMin t = dataMin s := by unfold dataMin; rw [hd]
  unfold locate; rw [hd, hm]

/-- A change of issue state alone leaves every byte. -/
theorem byteAt_modStope (s : State) (st : Nat) (f : Stope → Stope) (h : sansIssue (f (stopeOf s st)) = sansIssue (stopeOf s st)) (pa : Nat) :
   byteAt (modStope s st f) pa = byteAt s pa := by
  have hl : locate (modStope s st f) pa = locate s pa := by
    exact locate_conf rfl pa
  have ha0 : (f (stopeOf s st)).arr0 = (stopeOf s st).arr0 := by have := congrArg Stope.arr0 h; simpa [sansIssue] using this
  have ha1 : (f (stopeOf s st)).arr1 = (stopeOf s st).arr1 := by have := congrArg Stope.arr1 h; simpa [sansIssue] using this
  unfold byteAt
  rw [hl]
  cases locate s pa <;> simp only [] <;> try rfl
  rename_i st' a r b
  by_cases hs : st' = st
  · subst hs
    simp [arrOf, ha0, ha1]
  · rw [stopeOf_modStope_ne _ _ hs]

/-- A change of one agent and of issue state is within the frame of an issue. -/
theorem issueFrame_modStope (u : State) (st ag : Nat) (f : Stope → Stope) 
   (h : sansIssue (f (stopeOf u st)) = sansIssue (stopeOf u st))
   (ha : ∀ a, a ≠ ag → agentOf (f (stopeOf u st)) a = agentOf (stopeOf u st) a)
   (hc : sansFlow (agentOf (f (stopeOf u st)) ag) = sansFlow (agentOf (stopeOf u st) ag)) : IssueFrame u (modStope u st f) st ag := by
  refine ⟨?_, ?_, ?_, ?_, ?_, ?_⟩
  · simp [modStope, putStope]
  · intro st' hs; exact stopeOf_modStope_ne _ _ hs
  · simpa using h
  · intro a h; simp [crewOf]; exact ha a h
  · simpa [crewOf] using hc
  · intro pa; exact byteAt_modStope _ _ _ h pa

/-- Frames compose. -/
theorem issueFrame_trans {u v t : State} {st ag : Nat} (h1 : IssueFrame u v st ag) (h2 : IssueFrame v t st ag) : IssueFrame u t st ag := by
  obtain ⟨a1,a2,a3,a4,a5,a6⟩ := h1
  obtain ⟨b1,b2,b3,b4,b5,b6⟩ := h2
  exact ⟨b1.trans a1, fun x h => (b2 x h).trans (a2 x h), b3.trans a3, fun x h => (b4 x h).trans (a4 x h), b5.trans a5, fun x => (b6 x).trans (a6 x)⟩

/-- Agents are read from the agent table. -/
theorem agentOf_of_agents (x : Stope) (y : Stope) (h : x.agents = y.agents) (a) : agentOf x a = agentOf y a := by simp [agentOf, h]

/-- An issue slot moves issue figures alone. -/
theorem takeSlot_frame (x : Stope) (n : Need) (ag c : Nat) :
    sansIssue (takeSlot x n ag c) = sansIssue x ∧ (takeSlot x n ag c).agents = x.agents := by
  unfold takeSlot
  by_cases h : x.slotCycle = c ∧ 0 < x.slotUsed
  · rw [if_pos h]; exact ⟨rfl, rfl⟩
  · rw [if_neg h]; exact ⟨rfl, rfl⟩

/-- A hold at issue that ends moves a stall figure alone. -/
theorem countHeld_frame (off : Bool) (n : Nat) (k : Crew) :
    sansFlow (countHeld off n k) = sansFlow k ∧ (countHeld off n k).pc = k.pc ∧ (countHeld off n k).loops = k.loops ∧
    (countHeld off n k).ranOff = k.ranOff ∧ (countHeld off n k).nextIssue = k.nextIssue ∧ (countHeld off n k).pend = k.pend ∧
    (countHeld off n k).relPoint = k.relPoint := by
  unfold countHeld
  cases k.tramSince <;> exact ⟨rfl, rfl, rfl, rfl, rfl, rfl, rfl⟩

/-- The stope that a retired issue moves on: its issue figures, no agent. -/
theorem retire_stope (u : State) (st ag c : Nat) (n : Need) :
    let x := stopeOf u st
    let y := if ag = 16 then x else stirred (takeSlot { x with issued := x.issued + stallOf u st 1 } n ag c) u.now
    sansIssue y = sansIssue x ∧ y.agents = x.agents := by
  by_cases h : ag = 16
  · simp [h]
  · have ht := takeSlot_frame { stopeOf u st with issued := (stopeOf u st).issued + stallOf u st 1 } n ag c
    simp only [h, if_false]
    exact ⟨(show _ = sansIssue (takeSlot _ n ag c) from rfl).trans (ht.1.trans rfl), ht.2⟩

/-- What a retired issue leaves alone. -/
theorem retire_frame (u : State) (st ag c first : Nat) (n : Need) (f : Flow) :
    IssueFrame u (retire u st ag c first n f) st ag := by
  have hs := retire_stope u st ag c n
  unfold retire
  apply issueFrame_modStope
  · rw [sansIssue_modAgent]; exact hs.1
  · intro a h
    rw [agentOf_modAgent_ne _ _ h]; exact agentOf_of_agents _ _ hs.2 a
  · simp only [agentOf_modAgent]
    rw [(flowCrew_control_only _ _ _).1, (countHeld_frame _ _ _).1, agentOf_of_agents _ _ hs.2 ag]
    rfl

/-- What a retired issue does to its crew. -/
theorem retire_flow (u : State) (st ag c first : Nat) (n : Need) (f : Flow) :
    (crewOf (retire u st ag c first n f) st ag).pend = (crewOf u st ag).pend ∧
    (crewOf (retire u st ag c first n f) st ag).relPoint = (crewOf u st ag).relPoint ∧
    GoesOn u (retire u st ag c first n f) st ag c f := by
  have key : ∃ k : Crew, crewOf (retire u st ag c first n f) st ag = flowCrew k c f ∧ k.pc = (crewOf u st ag).pc ∧
      k.loops = (crewOf u st ag).loops ∧ k.ranOff = (crewOf u st ag).ranOff ∧ k.nextIssue = (crewOf u st ag).nextIssue ∧
      k.pend = (crewOf u st ag).pend ∧ k.relPoint = (crewOf u st ag).relPoint := by
    unfold retire crewOf
    simp only [stopeOf_modStope, agentOf_modAgent]
    refine ⟨_, rfl, ?_⟩
    rw [agentOf_of_agents _ _ (retire_stope u st ag c n).2 ag]
    have h := countHeld_frame (monitorOff u (stopeLevel st)) c
      { agentOf (stopeOf u st) ag with
        stallIssue := (agentOf (stopeOf u st) ag).stallIssue +
          stallOf u st (conflicts (stopeOf u st) ag first ((agentOf (stopeOf u st) ag).tramSince.getD c)) }
    exact h.2
  obtain ⟨k, hk, h1, h2, h3, h4, h5, h6⟩ := key
  have hc := flowCrew_congr h1 h2 h3 h4 c f
  have hff := flowCrew_control_only k c f
  refine ⟨by rw [hk, hff.2.1, h5], by rw [hk, hff.2.2, h6], ?_⟩
  unfold GoesOn
  simp only [hk]
  exact ⟨hc.1, hc.2.2.1, hc.2.1, hc.2.2.2⟩

/-- Writes that are no store writes overtake nothing of another agent. -/
theorem foldl_overtake (x : Stope) (ag : Nat) (es : List (Nat × Eff)) (h : ∀ e ∈ es, ∀ cs, e.2 ≠ .store cs) :
    es.foldl (fun x e => overtake x ag e.2) x = x := by
  induction es with
  | nil => rfl
  | cons e es ih =>
    have he : overtake x ag e.2 = x := by
      have := h e (by simp)
      unfold overtake; split
      · rename_i cs hcs; exact absurd hcs (this cs)
      · rfl
    simp only [List.foldl_cons, he]
    exact ih fun e' m => h e' (by simp [m])

/-- What writes in flight leave alone. -/
theorem startWrites_frame (u : State) (st ag c : Nat) (es : List (Nat × Eff)) (h : ∀ e ∈ es, ∀ cs, e.2 ≠ .store cs) :
    IssueFrame u (startWrites u st ag c es) st ag := by
  have hm : modStope u st (fun x => es.foldl (fun x e => overtake x ag e.2) x) = modStope u st (fun x => x) := by
    simp only [modStope, foldl_overtake _ ag es h]
  unfold startWrites modCrew
  rw [hm]
  refine issueFrame_trans (issueFrame_modStope u st ag (fun x => x) rfl (fun _ _ => rfl) rfl) ?_
  apply issueFrame_modStope
  · exact sansIssue_modAgent _ _ _
  · intro a h; exact agentOf_modAgent_ne _ _ h
  · simp only [agentOf_modAgent]; exact (foldl_addWrite_sans es c _).1

/-- All that a word of writes does: its frame, its writes in flight, where it goes on. -/
theorem startWrites_retire (u : State) (st ag c first : Nat) (n : Need) (es : List (Nat × Eff)) (f : Flow)
   (hn : ∀ e ∈ es, ∀ cs, e.2 ≠ .store cs) :
   IssueFrame u (retire (startWrites u st ag c es) st ag c first n f) st ag ∧ InFlight u (retire (startWrites u st ag c es) st ag c first n f) st ag c es ∧
   GoesOn u (retire (startWrites u st ag c es) st ag c first n f) st ag c f := by
  have hc : crewOf (startWrites u st ag c es) st ag = es.foldl (fun k e => addWrite k { ready := c + e.1, eff := e.2 }) (crewOf u st ag) := by
    simp only [startWrites, crewOf, modCrew, stopeOf_modStope, agentOf_modAgent, foldl_overtake _ ag es hn]
  have hr := retire_flow (startWrites u st ag c es) st ag c first n f
  have hs := foldl_addWrite_sans es c (crewOf u st ag)
  refine ⟨issueFrame_trans (startWrites_frame u st ag c es hn) (retire_frame _ _ _ _ _ _ _), ?_, ?_⟩
  · unfold InFlight; simp only []; rw [hr.1, hr.2.1, hc]; exact ⟨rfl, rfl⟩
  · have h3 := hr.2.2
    have hg := flowCrew_congr (a := crewOf (startWrites u st ag c es) st ag) (b := crewOf u st ag) (by rw [hc, hs.2.1]) (by rw [hc, hs.2.2.1]) (by rw [hc, hs.2.2.2.1]) (by rw [hc, hs.2.2.2.2]) c f
    unfold GoesOn at *
    simp only [] at *
    rw [h3.1, h3.2.1, h3.2.2.1, h3.2.2.2]
    exact ⟨hg.1, hg.2.2.1, hg.2.1, hg.2.2.2⟩

/-- A word whose body is done executes. -/
theorem issue_executes {i : Instr} {s : State} {st ag : Nat} {w : Word64} {op : Nat} {n : Nat → Need} {floor : Nat} {adm : Nat → Bool}
    {body : State → Nat → IssueRes} {v : State} {f : Flow} (hx : exec i s = .next (issue s st ag w op n floor adm body))
    (hi : Issues s st ag w op) (hb : body (atIssue s st ag (atCycle s st ag n floor adm)) (atCycle s st ag n floor adm) = .done v f) :
    Executes i s st ag (atCycle s st ag n floor adm) v f := by
  refine ⟨_, hx.trans (congrArg _ (issue_done hi.1 hi.2.1 hi.2.2 hb)), ?_⟩
  have h := retire_flow v st ag (atCycle s st ag n floor adm) (agentOf (stopeOf s st) ag).nextIssue (n (atCycle s st ag n floor adm)) f
  exact ⟨retire_frame _ _ _ _ _ _ _, ⟨h.1, h.2.1⟩, h.2.2⟩

/-- A word whose body traps takes its fault. -/
theorem issue_trap {s : State} {st ag : Nat} {w : Word64} {op : Nat} {n : Nat → Need} {floor : Nat} {adm : Nat → Bool}
    {body : State → Nat → IssueRes} {code arg : Nat} (hi : Issues s st ag w op) (hb : body (atIssue s st ag (atCycle s st ag n floor adm)) (atCycle s st ag n floor adm) = .trap code arg) : issue s st ag w op n floor adm body =
    takeFault (blockedAt s (atIssue s st ag (atCycle s st ag n floor adm)) st ag (atCycle s st ag n floor adm)) st ag code arg := by
  unfold issue
  simp only [hi.1, hi.2.2, true_or, and_self, if_true, hi.2.1, Bool.false_eq_true, if_false, ne_eq, not_true]
  unfold blockedAt atIssue atCycle crewOf at *
  rw [hb]

/-- A word whose body traps with an open argument takes its fault. -/
theorem issue_trapOpen {s : State} {st ag : Nat} {w : Word64} {op : Nat} {n : Nat → Need} {floor : Nat} {adm : Nat → Bool}
    {body : State → Nat → IssueRes} {code : Nat} (hi : Issues s st ag w op) (hb : body (atIssue s st ag (atCycle s st ag n floor adm)) (atCycle s st ag n floor adm) = .trapOpen code) : issue s st ag w op n floor adm body =
    takeOpen (blockedAt s (atIssue s st ag (atCycle s st ag n floor adm)) st ag (atCycle s st ag n floor adm)) st ag code := by
  unfold issue
  simp only [hi.1, hi.2.2, true_or, and_self, if_true, hi.2.1, Bool.false_eq_true, if_false, ne_eq, not_true]
  unfold blockedAt atIssue atCycle crewOf at *
  rw [hb]

/-- A crew fault: state, code and pc. -/
theorem crewFault_facts (u : State) (st ag code arg : Nat) (h : ag < 16) : (crewOf (crewFault u st ag code arg) st ag).state = .faulted ∧ (crewOf (crewFault u st ag code arg) st ag).faultCode = code ∧
    (crewOf (crewFault u st ag code arg) st ag).faultPc = (crewOf u st ag).pc := by
  have raise : ∀ x now e, agentOf (raiseIn x now e) ag = agentOf x ag := by
    intro x now e
    have hne : ag ≠ 16 := by omega
    unfold raiseIn; split
    · simp only []; split
      · rw [agentOf_putAgent_ne _ _ hne]; rfl
      · rfl
    · rfl
  have tr : ∀ s code tag epoch agent arg, crewOf (traceRec s st code tag epoch agent arg) st ag = crewOf s st ag := by
    intros; unfold traceRec; simp only []; split
    · rfl
    · split
      · simp [crewOf]; rfl
      · simp [crewOf, writeCells, stopeOf, putStope]; rfl
  unfold crewFault
  unfold crewOf at tr ⊢
  simp only [tr, stopeOf_putStope, raise, agentOf_putAgent, and_self]

/-- Free values leave the crews. -/
theorem crewOf_useFree (u : State) (n st ag) : crewOf (useFree u n) st ag = crewOf u st ag := rfl

/-- A stope update changes no other stope. -/
theorem onlyStope_mod (u : State) (st : Nat) (f : Stope → Stope) : OnlyStope u (modStope u st f) st :=
  ⟨by simp [modStope, putStope], fun st' h => stopeOf_modStope_ne _ _ h⟩

/-- A stope write changes no other stope. -/
theorem onlyStope_put (u : State) (st : Nat) (x : Stope) : OnlyStope u (putStope u st x) st :=
  ⟨by simp [putStope], fun st' h => stopeOf_putStope_ne _ _ h⟩

/-- A tile register reads as written. -/
@[simp] theorem tileOf_putTile (c : Crew) (t : Nat) (x : Tile) : tileOf (putTile c t x) t = x := by simp [tileOf, putTile]

/-- A tile write leaves the other registers. -/
theorem tileOf_putTile_ne (c : Crew) {t t' : Nat} (x : Tile) (h : t' ≠ t) : tileOf (putTile c t x) t' = tileOf c t' := by simp [tileOf, putTile, tget_tset_ne _ _ _ h]

/-- A lost tile register takes its writes in flight along. -/
theorem loseTile_agent (x : Stope) (ag r : Nat) : agentOf (loseTile x ag r) ag = { agentOf x ag with pend := (agentOf x ag).pend.filter (fun p => !pendOnTile r p) } := 
  (agentOf_modAgent x ag (fun c => { c with pend := c.pend.filter (fun p => !pendOnTile r p) }))

/-- A lost tile register is its own crew's. -/
theorem loseTile_agent_ne (x : Stope) {ag a : Nat} (r : Nat) (h : a ≠ ag) : agentOf (loseTile x ag r) a = agentOf x a := 
  (agentOf_modAgent_ne x (fun c => { c with pend := c.pend.filter (fun p => !pendOnTile r p) }) h)

/-- TREL and TCFG: what they lose, and the register as written. -/
theorem tileLost_modAgent (u : State) (st ag r : Nat) (g : Crew → Tile) : 
  TileLost u (modStope u st (fun x => modAgent (loseTile x ag r) ag (fun c => putTile c r (g c)))) st ag r ∧ 
  tileOf (crewOf (modStope u st (fun x => modAgent (loseTile x ag r) ag (fun c => putTile c r (g c)))) st ag) r = g (agentOf (loseTile (stopeOf u st) ag r) ag) := by
  refine ⟨⟨onlyStope_mod _ _ _, ?_, ?_, ?_, ?_, ?_, ?_, ?_, ?_⟩, ?_⟩
  · simp [modAgent, putAgent, loseTile]
  · simp [modAgent, putAgent, loseTile]
  · intro a; simp only [stopeOf_modStope]; unfold arrOf; by_cases h : a = 0 <;> simp [h, modAgent, putAgent, loseTile]
  · simp [modAgent, putAgent, loseTile]
  · intro a h; simp only [crewOf, stopeOf_modStope, agentOf_modAgent_ne _ _ h]; exact loseTile_agent_ne _ _ h
  · simp only [crewOf, stopeOf_modStope, agentOf_modAgent, loseTile_agent]; rfl
  · simp only [crewOf, stopeOf_modStope, agentOf_modAgent, loseTile_agent]; rfl
  · intro r' h; simp only [crewOf, stopeOf_modStope, agentOf_modAgent, loseTile_agent, tileOf_putTile_ne _ _ h]; rfl
  · simp only [crewOf, stopeOf_modStope, agentOf_modAgent, loseTile_agent, tileOf_putTile]

/-- The claim-fault stall counter is all that a recount moves. -/
theorem tileLost_recount (u v : State) (st ag r : Nat) (h : Option Held) (hv : TileLost u v st ag r) :
    TileLost u (recountHeld v st h) st ag r ∧ crewOf (recountHeld v st h) st ag = crewOf v st ag := by
  have key : ∀ f : Stope → Stope, (∀ x, ∃ tr, f x = { x with trace := tr } ∧
      { tr with claimAt := none, stallClaim := 0 } = { x.trace with claimAt := none, stallClaim := 0 }) →
      TileLost u (modStope v st f) st ag r ∧ crewOf (modStope v st f) st ag = crewOf v st ag := by
    intro f hf
    obtain ⟨tr, h1, h2⟩ := hf (stopeOf v st)
    have hs : stopeOf (modStope v st f) st = { stopeOf v st with trace := tr } := by rw [stopeOf_modStope, h1]
    have hc : ∀ a, crewOf (modStope v st f) st a = crewOf v st a := by intro a; simp only [crewOf, hs]; rfl
    have ha : ∀ a, arrOf (stopeOf (modStope v st f) st) a = arrOf (stopeOf v st) a := by intro a; rw [hs]; rfl
    obtain ⟨o, a1, a2, a3, a4, a5, a6, a7, a8⟩ := hv
    refine ⟨⟨⟨?_, ?_⟩, ?_, ?_, ?_, ?_, ?_, ?_, ?_, ?_⟩, hc ag⟩
    · rw [← o.1]; simp [modStope, putStope]
    · intro st' hne; rw [stopeOf_modStope_ne _ _ hne]; exact o.2 st' hne
    · rw [hs]; exact a1
    · rw [hs]; exact h2.trans a2
    · intro a; rw [ha]; exact a3 a
    · rw [hs]; exact a4
    · intro a hne; rw [hc]; exact a5 a hne
    · rw [hc]; exact a6
    · rw [hc]; exact a7
    · intro r' hne; rw [hc]; exact a8 r' hne
  unfold recountHeld
  split
  · unfold recountClaim
    apply key
    intro x
    cases hx : x.trace.claimAt with
    | none =>
      by_cases hh : claimHeld x = true
      · exact ⟨{ x.trace with claimAt := some v.now }, by simp [hx, hh], rfl⟩
      · exact ⟨x.trace, by simp [hx, hh], rfl⟩
    | some a =>
      by_cases hh : claimHeld x = true
      · exact ⟨x.trace, by simp [hx, hh], rfl⟩
      · exact ⟨{ x.trace with claimAt := none, stallClaim := x.trace.stallClaim + stallOf v st (v.now - a) }, by simp [hx, hh], rfl⟩
  · exact ⟨hv, rfl⟩

end Sys2Proof.Machine
end

