-- ==== Sys2Proof/Laws/Memory.lean ====
section
/-! SUPPORT. Memory: a byte reads as last written, other bytes stand, every write keeps the canonical form. -/

namespace Sys2Proof.Machine

/-- Every write of cells keeps the canonical form. -/
theorem memWf_cellsPut {m : List Host.Cell} (cs : List Host.Cell) (h : memWf m = true) : memWf (cellsPut m cs) = true := by
  unfold cellsPut
  induction cs generalizing m with
  | nil => exact h
  | cons c cs ih => exact ih (tabWf_tset _ _ h)

/-- Dropping cells keeps the canonical form. -/
theorem memWf_filter {m : List Host.Cell} (p : Host.Cell → Bool) (h : memWf m = true) : memWf (m.filter p) = true := tabWf_filter p h

/-- A byte reads as written. -/
@[simp] theorem cellAt_cellsPut_one (m : List Host.Cell) (a : Nat) (b : Byte) : cellAt (cellsPut m [(a, b)]) a = b := by
  simp [cellAt, cellsPut]

/-- Bytes outside the written cells stand. -/
theorem cellAt_cellsPut_ne {m : List Host.Cell} {cs : List Host.Cell} {a : Nat} (h : ∀ c ∈ cs, c.1 ≠ a) :
    cellAt (cellsPut m cs) a = cellAt m a := by
  unfold cellsPut cellAt
  induction cs generalizing m with
  | nil => rfl
  | cons c cs ih =>
    rw [List.foldl_cons, ih (fun d hd => h d (List.mem_cons_of_mem _ hd))]
    exact tget_tset_ne _ _ _ (Ne.symm (h c List.mem_cons_self))

/-- A byte reads as the last of the cells that name it. -/
theorem cellAt_cellsPut_last (m : List Host.Cell) (cs ds : List Host.Cell) (a : Nat) (b : Byte) (h : ∀ c ∈ ds, c.1 ≠ a) :
    cellAt (cellsPut m (cs ++ (a, b) :: ds)) a = b := by
  have : cellsPut m (cs ++ (a, b) :: ds) = cellsPut (cellsPut (cellsPut m cs) [(a, b)]) ds := by
    simp [cellsPut, List.foldl_append]
  rw [this, cellAt_cellsPut_ne h, cellAt_cellsPut_one]

/-- Canonical memories that read alike are equal. -/
theorem mem_ext {m n : List Host.Cell} (hm : memWf m = true) (hn : memWf n = true) (h : ∀ a, cellAt m a = cellAt n a) : m = n :=
  tab_ext hm hn h

end Sys2Proof.Machine
end

