-- ==== Sys2Proof/Laws/State.lean ====
section
/-! SUPPORT. The fields of State after each named update: one lemma per field, so that no proof unfolds a record update. -/

namespace Sys2Proof.Machine

variable (s : State)

/-! ### After putStope -/

@[simp] theorem putStope_pending (st : Nat) (x : Stope) : (putStope s st x).pending = s.pending := rfl
@[simp] theorem putStope_now (st : Nat) (x : Stope) : (putStope s st x).now = s.now := rfl
@[simp] theorem putStope_freeCtr (st : Nat) (x : Stope) : (putStope s st x).freeCtr = s.freeCtr := rfl
@[simp] theorem putStope_mem (st : Nat) (x : Stope) : (putStope s st x).mem = s.mem := rfl
@[simp] theorem putStope_stopes (st : Nat) (x : Stope) : (putStope s st x).stopes = tset s.stopes {} st x := rfl
@[simp] theorem putStope_levels (st : Nat) (x : Stope) : (putStope s st x).levels = s.levels := rfl
@[simp] theorem putStope_phys (st : Nat) (x : Stope) : (putStope s st x).phys = s.phys := rfl
@[simp] theorem putStope_devTallies (st : Nat) (x : Stope) : (putStope s st x).devTallies = s.devTallies := rfl
@[simp] theorem putStope_busyAt (st : Nat) (x : Stope) : (putStope s st x).busyAt = s.busyAt := rfl
@[simp] theorem putStope_signals (st : Nat) (x : Stope) : (putStope s st x).signals = s.signals := rfl
@[simp] theorem putStope_flagsDue (st : Nat) (x : Stope) : (putStope s st x).flagsDue = s.flagsDue := rfl
@[simp] theorem putStope_stackTab (st : Nat) (x : Stope) : (putStope s st x).stackTab = s.stackTab := rfl
@[simp] theorem putStope_rnd (st : Nat) (x : Stope) : (putStope s st x).rnd = s.rnd := rfl
@[simp] theorem putStope_nrg (st : Nat) (x : Stope) : (putStope s st x).nrg = s.nrg := rfl
@[simp] theorem putStope_power (st : Nat) (x : Stope) : (putStope s st x).power = s.power := rfl
@[simp] theorem putStope_powerNext (st : Nat) (x : Stope) : (putStope s st x).powerNext = s.powerNext := rfl
@[simp] theorem putStope_ebb (st : Nat) (x : Stope) : (putStope s st x).ebb = s.ebb := rfl
@[simp] theorem putStope_quench (st : Nat) (x : Stope) : (putStope s st x).quench = s.quench := rfl
@[simp] theorem putStope_cmds (st : Nat) (x : Stope) : (putStope s st x).cmds = s.cmds := rfl
@[simp] theorem putStope_nextOrder (st : Nat) (x : Stope) : (putStope s st x).nextOrder = s.nextOrder := rfl
@[simp] theorem putStope_mbx (st : Nat) (x : Stope) : (putStope s st x).mbx = s.mbx := rfl
@[simp] theorem putStope_ep (st : Nat) (x : Stope) : (putStope s st x).ep = s.ep := rfl
@[simp] theorem putStope_ports (st : Nat) (x : Stope) : (putStope s st x).ports = s.ports := rfl
@[simp] theorem putStope_fabId (st : Nat) (x : Stope) : (putStope s st x).fabId = s.fabId := rfl
@[simp] theorem putStope_absentRing (st : Nat) (x : Stope) : (putStope s st x).absentRing = s.absentRing := rfl
@[simp] theorem putStope_absentCount (st : Nat) (x : Stope) : (putStope s st x).absentCount = s.absentCount := rfl
@[simp] theorem putStope_presences (st : Nat) (x : Stope) : (putStope s st x).presences = s.presences := rfl
@[simp] theorem putStope_routes (st : Nat) (x : Stope) : (putStope s st x).routes = s.routes := rfl
@[simp] theorem putStope_lands (st : Nat) (x : Stope) : (putStope s st x).lands = s.lands := rfl
@[simp] theorem putStope_puts (st : Nat) (x : Stope) : (putStope s st x).puts = s.puts := rfl
@[simp] theorem putStope_qclass (st : Nat) (x : Stope) : (putStope s st x).qclass = s.qclass := rfl
@[simp] theorem putStope_qslots (st : Nat) (x : Stope) : (putStope s st x).qslots = s.qslots := rfl
@[simp] theorem putStope_qheld (st : Nat) (x : Stope) : (putStope s st x).qheld = s.qheld := rfl
@[simp] theorem putStope_qServed (st : Nat) (x : Stope) : (putStope s st x).qServed = s.qServed := rfl
@[simp] theorem putStope_qVoid (st : Nat) (x : Stope) : (putStope s st x).qVoid = s.qVoid := rfl
@[simp] theorem putStope_qLate (st : Nat) (x : Stope) : (putStope s st x).qLate = s.qLate := rfl
@[simp] theorem putStope_flt (st : Nat) (x : Stope) : (putStope s st x).flt = s.flt := rfl
@[simp] theorem putStope_snap (st : Nat) (x : Stope) : (putStope s st x).snap = s.snap := rfl
@[simp] theorem putStope_conf (st : Nat) (x : Stope) : (putStope s st x).conf = s.conf := rfl
@[simp] theorem putStope_trust (st : Nat) (x : Stope) : (putStope s st x).trust = s.trust := rfl
@[simp] theorem putStope_boot (st : Nat) (x : Stope) : (putStope s st x).boot = s.boot := rfl
@[simp] theorem putStope_i3c (st : Nat) (x : Stope) : (putStope s st x).i3c = s.i3c := rfl
@[simp] theorem putStope_pins (st : Nat) (x : Stope) : (putStope s st x).pins = s.pins := rfl
@[simp] theorem putStope_lowHeld (st : Nat) (x : Stope) : (putStope s st x).lowHeld = s.lowHeld := rfl
@[simp] theorem putStope_highLatch (st : Nat) (x : Stope) : (putStope s st x).highLatch = s.highLatch := rfl
@[simp] theorem putStope_out (st : Nat) (x : Stope) : (putStope s st x).out = s.out := rfl

/-! ### After modStope -/

@[simp] theorem modStope_pending (st : Nat) (f : Stope → Stope) : (modStope s st f).pending = s.pending := rfl
@[simp] theorem modStope_now (st : Nat) (f : Stope → Stope) : (modStope s st f).now = s.now := rfl
@[simp] theorem modStope_freeCtr (st : Nat) (f : Stope → Stope) : (modStope s st f).freeCtr = s.freeCtr := rfl
@[simp] theorem modStope_mem (st : Nat) (f : Stope → Stope) : (modStope s st f).mem = s.mem := rfl
@[simp] theorem modStope_levels (st : Nat) (f : Stope → Stope) : (modStope s st f).levels = s.levels := rfl
@[simp] theorem modStope_phys (st : Nat) (f : Stope → Stope) : (modStope s st f).phys = s.phys := rfl
@[simp] theorem modStope_devTallies (st : Nat) (f : Stope → Stope) : (modStope s st f).devTallies = s.devTallies := rfl
@[simp] theorem modStope_busyAt (st : Nat) (f : Stope → Stope) : (modStope s st f).busyAt = s.busyAt := rfl
@[simp] theorem modStope_signals (st : Nat) (f : Stope → Stope) : (modStope s st f).signals = s.signals := rfl
@[simp] theorem modStope_flagsDue (st : Nat) (f : Stope → Stope) : (modStope s st f).flagsDue = s.flagsDue := rfl
@[simp] theorem modStope_stackTab (st : Nat) (f : Stope → Stope) : (modStope s st f).stackTab = s.stackTab := rfl
@[simp] theorem modStope_rnd (st : Nat) (f : Stope → Stope) : (modStope s st f).rnd = s.rnd := rfl
@[simp] theorem modStope_nrg (st : Nat) (f : Stope → Stope) : (modStope s st f).nrg = s.nrg := rfl
@[simp] theorem modStope_power (st : Nat) (f : Stope → Stope) : (modStope s st f).power = s.power := rfl
@[simp] theorem modStope_powerNext (st : Nat) (f : Stope → Stope) : (modStope s st f).powerNext = s.powerNext := rfl
@[simp] theorem modStope_ebb (st : Nat) (f : Stope → Stope) : (modStope s st f).ebb = s.ebb := rfl
@[simp] theorem modStope_quench (st : Nat) (f : Stope → Stope) : (modStope s st f).quench = s.quench := rfl
@[simp] theorem modStope_cmds (st : Nat) (f : Stope → Stope) : (modStope s st f).cmds = s.cmds := rfl
@[simp] theorem modStope_nextOrder (st : Nat) (f : Stope → Stope) : (modStope s st f).nextOrder = s.nextOrder := rfl
@[simp] theorem modStope_mbx (st : Nat) (f : Stope → Stope) : (modStope s st f).mbx = s.mbx := rfl
@[simp] theorem modStope_ep (st : Nat) (f : Stope → Stope) : (modStope s st f).ep = s.ep := rfl
@[simp] theorem modStope_ports (st : Nat) (f : Stope → Stope) : (modStope s st f).ports = s.ports := rfl
@[simp] theorem modStope_fabId (st : Nat) (f : Stope → Stope) : (modStope s st f).fabId = s.fabId := rfl
@[simp] theorem modStope_absentRing (st : Nat) (f : Stope → Stope) : (modStope s st f).absentRing = s.absentRing := rfl
@[simp] theorem modStope_absentCount (st : Nat) (f : Stope → Stope) : (modStope s st f).absentCount = s.absentCount := rfl
@[simp] theorem modStope_presences (st : Nat) (f : Stope → Stope) : (modStope s st f).presences = s.presences := rfl
@[simp] theorem modStope_routes (st : Nat) (f : Stope → Stope) : (modStope s st f).routes = s.routes := rfl
@[simp] theorem modStope_lands (st : Nat) (f : Stope → Stope) : (modStope s st f).lands = s.lands := rfl
@[simp] theorem modStope_puts (st : Nat) (f : Stope → Stope) : (modStope s st f).puts = s.puts := rfl
@[simp] theorem modStope_qclass (st : Nat) (f : Stope → Stope) : (modStope s st f).qclass = s.qclass := rfl
@[simp] theorem modStope_qslots (st : Nat) (f : Stope → Stope) : (modStope s st f).qslots = s.qslots := rfl
@[simp] theorem modStope_qheld (st : Nat) (f : Stope → Stope) : (modStope s st f).qheld = s.qheld := rfl
@[simp] theorem modStope_qServed (st : Nat) (f : Stope → Stope) : (modStope s st f).qServed = s.qServed := rfl
@[simp] theorem modStope_qVoid (st : Nat) (f : Stope → Stope) : (modStope s st f).qVoid = s.qVoid := rfl
@[simp] theorem modStope_qLate (st : Nat) (f : Stope → Stope) : (modStope s st f).qLate = s.qLate := rfl
@[simp] theorem modStope_flt (st : Nat) (f : Stope → Stope) : (modStope s st f).flt = s.flt := rfl
@[simp] theorem modStope_snap (st : Nat) (f : Stope → Stope) : (modStope s st f).snap = s.snap := rfl
@[simp] theorem modStope_conf (st : Nat) (f : Stope → Stope) : (modStope s st f).conf = s.conf := rfl
@[simp] theorem modStope_trust (st : Nat) (f : Stope → Stope) : (modStope s st f).trust = s.trust := rfl
@[simp] theorem modStope_boot (st : Nat) (f : Stope → Stope) : (modStope s st f).boot = s.boot := rfl
@[simp] theorem modStope_i3c (st : Nat) (f : Stope → Stope) : (modStope s st f).i3c = s.i3c := rfl
@[simp] theorem modStope_pins (st : Nat) (f : Stope → Stope) : (modStope s st f).pins = s.pins := rfl
@[simp] theorem modStope_lowHeld (st : Nat) (f : Stope → Stope) : (modStope s st f).lowHeld = s.lowHeld := rfl
@[simp] theorem modStope_highLatch (st : Nat) (f : Stope → Stope) : (modStope s st f).highLatch = s.highLatch := rfl
@[simp] theorem modStope_out (st : Nat) (f : Stope → Stope) : (modStope s st f).out = s.out := rfl

/-! ### After modCrew -/

@[simp] theorem modCrew_pending (st ag : Nat) (f : Crew → Crew) : (modCrew s st ag f).pending = s.pending := rfl
@[simp] theorem modCrew_now (st ag : Nat) (f : Crew → Crew) : (modCrew s st ag f).now = s.now := rfl
@[simp] theorem modCrew_freeCtr (st ag : Nat) (f : Crew → Crew) : (modCrew s st ag f).freeCtr = s.freeCtr := rfl
@[simp] theorem modCrew_mem (st ag : Nat) (f : Crew → Crew) : (modCrew s st ag f).mem = s.mem := rfl
@[simp] theorem modCrew_levels (st ag : Nat) (f : Crew → Crew) : (modCrew s st ag f).levels = s.levels := rfl
@[simp] theorem modCrew_phys (st ag : Nat) (f : Crew → Crew) : (modCrew s st ag f).phys = s.phys := rfl
@[simp] theorem modCrew_devTallies (st ag : Nat) (f : Crew → Crew) : (modCrew s st ag f).devTallies = s.devTallies := rfl
@[simp] theorem modCrew_busyAt (st ag : Nat) (f : Crew → Crew) : (modCrew s st ag f).busyAt = s.busyAt := rfl
@[simp] theorem modCrew_signals (st ag : Nat) (f : Crew → Crew) : (modCrew s st ag f).signals = s.signals := rfl
@[simp] theorem modCrew_flagsDue (st ag : Nat) (f : Crew → Crew) : (modCrew s st ag f).flagsDue = s.flagsDue := rfl
@[simp] theorem modCrew_stackTab (st ag : Nat) (f : Crew → Crew) : (modCrew s st ag f).stackTab = s.stackTab := rfl
@[simp] theorem modCrew_rnd (st ag : Nat) (f : Crew → Crew) : (modCrew s st ag f).rnd = s.rnd := rfl
@[simp] theorem modCrew_nrg (st ag : Nat) (f : Crew → Crew) : (modCrew s st ag f).nrg = s.nrg := rfl
@[simp] theorem modCrew_power (st ag : Nat) (f : Crew → Crew) : (modCrew s st ag f).power = s.power := rfl
@[simp] theorem modCrew_powerNext (st ag : Nat) (f : Crew → Crew) : (modCrew s st ag f).powerNext = s.powerNext := rfl
@[simp] theorem modCrew_ebb (st ag : Nat) (f : Crew → Crew) : (modCrew s st ag f).ebb = s.ebb := rfl
@[simp] theorem modCrew_quench (st ag : Nat) (f : Crew → Crew) : (modCrew s st ag f).quench = s.quench := rfl
@[simp] theorem modCrew_cmds (st ag : Nat) (f : Crew → Crew) : (modCrew s st ag f).cmds = s.cmds := rfl
@[simp] theorem modCrew_nextOrder (st ag : Nat) (f : Crew → Crew) : (modCrew s st ag f).nextOrder = s.nextOrder := rfl
@[simp] theorem modCrew_mbx (st ag : Nat) (f : Crew → Crew) : (modCrew s st ag f).mbx = s.mbx := rfl
@[simp] theorem modCrew_ep (st ag : Nat) (f : Crew → Crew) : (modCrew s st ag f).ep = s.ep := rfl
@[simp] theorem modCrew_ports (st ag : Nat) (f : Crew → Crew) : (modCrew s st ag f).ports = s.ports := rfl
@[simp] theorem modCrew_fabId (st ag : Nat) (f : Crew → Crew) : (modCrew s st ag f).fabId = s.fabId := rfl
@[simp] theorem modCrew_absentRing (st ag : Nat) (f : Crew → Crew) : (modCrew s st ag f).absentRing = s.absentRing := rfl
@[simp] theorem modCrew_absentCount (st ag : Nat) (f : Crew → Crew) : (modCrew s st ag f).absentCount = s.absentCount := rfl
@[simp] theorem modCrew_presences (st ag : Nat) (f : Crew → Crew) : (modCrew s st ag f).presences = s.presences := rfl
@[simp] theorem modCrew_routes (st ag : Nat) (f : Crew → Crew) : (modCrew s st ag f).routes = s.routes := rfl
@[simp] theorem modCrew_lands (st ag : Nat) (f : Crew → Crew) : (modCrew s st ag f).lands = s.lands := rfl
@[simp] theorem modCrew_puts (st ag : Nat) (f : Crew → Crew) : (modCrew s st ag f).puts = s.puts := rfl
@[simp] theorem modCrew_qclass (st ag : Nat) (f : Crew → Crew) : (modCrew s st ag f).qclass = s.qclass := rfl
@[simp] theorem modCrew_qslots (st ag : Nat) (f : Crew → Crew) : (modCrew s st ag f).qslots = s.qslots := rfl
@[simp] theorem modCrew_qheld (st ag : Nat) (f : Crew → Crew) : (modCrew s st ag f).qheld = s.qheld := rfl
@[simp] theorem modCrew_qServed (st ag : Nat) (f : Crew → Crew) : (modCrew s st ag f).qServed = s.qServed := rfl
@[simp] theorem modCrew_qVoid (st ag : Nat) (f : Crew → Crew) : (modCrew s st ag f).qVoid = s.qVoid := rfl
@[simp] theorem modCrew_qLate (st ag : Nat) (f : Crew → Crew) : (modCrew s st ag f).qLate = s.qLate := rfl
@[simp] theorem modCrew_flt (st ag : Nat) (f : Crew → Crew) : (modCrew s st ag f).flt = s.flt := rfl
@[simp] theorem modCrew_snap (st ag : Nat) (f : Crew → Crew) : (modCrew s st ag f).snap = s.snap := rfl
@[simp] theorem modCrew_conf (st ag : Nat) (f : Crew → Crew) : (modCrew s st ag f).conf = s.conf := rfl
@[simp] theorem modCrew_trust (st ag : Nat) (f : Crew → Crew) : (modCrew s st ag f).trust = s.trust := rfl
@[simp] theorem modCrew_boot (st ag : Nat) (f : Crew → Crew) : (modCrew s st ag f).boot = s.boot := rfl
@[simp] theorem modCrew_i3c (st ag : Nat) (f : Crew → Crew) : (modCrew s st ag f).i3c = s.i3c := rfl
@[simp] theorem modCrew_pins (st ag : Nat) (f : Crew → Crew) : (modCrew s st ag f).pins = s.pins := rfl
@[simp] theorem modCrew_lowHeld (st ag : Nat) (f : Crew → Crew) : (modCrew s st ag f).lowHeld = s.lowHeld := rfl
@[simp] theorem modCrew_highLatch (st ag : Nat) (f : Crew → Crew) : (modCrew s st ag f).highLatch = s.highLatch := rfl
@[simp] theorem modCrew_out (st ag : Nat) (f : Crew → Crew) : (modCrew s st ag f).out = s.out := rfl

/-! ### After putLevel -/

@[simp] theorem putLevel_pending (n : Nat) (x : Level) : (putLevel s n x).pending = s.pending := rfl
@[simp] theorem putLevel_now (n : Nat) (x : Level) : (putLevel s n x).now = s.now := rfl
@[simp] theorem putLevel_freeCtr (n : Nat) (x : Level) : (putLevel s n x).freeCtr = s.freeCtr := rfl
@[simp] theorem putLevel_mem (n : Nat) (x : Level) : (putLevel s n x).mem = s.mem := rfl
@[simp] theorem putLevel_stopes (n : Nat) (x : Level) : (putLevel s n x).stopes = s.stopes := rfl
@[simp] theorem putLevel_levels (n : Nat) (x : Level) : (putLevel s n x).levels = tset s.levels {} n x := rfl
@[simp] theorem putLevel_phys (n : Nat) (x : Level) : (putLevel s n x).phys = s.phys := rfl
@[simp] theorem putLevel_devTallies (n : Nat) (x : Level) : (putLevel s n x).devTallies = s.devTallies := rfl
@[simp] theorem putLevel_busyAt (n : Nat) (x : Level) : (putLevel s n x).busyAt = s.busyAt := rfl
@[simp] theorem putLevel_signals (n : Nat) (x : Level) : (putLevel s n x).signals = s.signals := rfl
@[simp] theorem putLevel_flagsDue (n : Nat) (x : Level) : (putLevel s n x).flagsDue = s.flagsDue := rfl
@[simp] theorem putLevel_stackTab (n : Nat) (x : Level) : (putLevel s n x).stackTab = s.stackTab := rfl
@[simp] theorem putLevel_rnd (n : Nat) (x : Level) : (putLevel s n x).rnd = s.rnd := rfl
@[simp] theorem putLevel_nrg (n : Nat) (x : Level) : (putLevel s n x).nrg = s.nrg := rfl
@[simp] theorem putLevel_power (n : Nat) (x : Level) : (putLevel s n x).power = s.power := rfl
@[simp] theorem putLevel_powerNext (n : Nat) (x : Level) : (putLevel s n x).powerNext = s.powerNext := rfl
@[simp] theorem putLevel_ebb (n : Nat) (x : Level) : (putLevel s n x).ebb = s.ebb := rfl
@[simp] theorem putLevel_quench (n : Nat) (x : Level) : (putLevel s n x).quench = s.quench := rfl
@[simp] theorem putLevel_cmds (n : Nat) (x : Level) : (putLevel s n x).cmds = s.cmds := rfl
@[simp] theorem putLevel_nextOrder (n : Nat) (x : Level) : (putLevel s n x).nextOrder = s.nextOrder := rfl
@[simp] theorem putLevel_mbx (n : Nat) (x : Level) : (putLevel s n x).mbx = s.mbx := rfl
@[simp] theorem putLevel_ep (n : Nat) (x : Level) : (putLevel s n x).ep = s.ep := rfl
@[simp] theorem putLevel_ports (n : Nat) (x : Level) : (putLevel s n x).ports = s.ports := rfl
@[simp] theorem putLevel_fabId (n : Nat) (x : Level) : (putLevel s n x).fabId = s.fabId := rfl
@[simp] theorem putLevel_absentRing (n : Nat) (x : Level) : (putLevel s n x).absentRing = s.absentRing := rfl
@[simp] theorem putLevel_absentCount (n : Nat) (x : Level) : (putLevel s n x).absentCount = s.absentCount := rfl
@[simp] theorem putLevel_presences (n : Nat) (x : Level) : (putLevel s n x).presences = s.presences := rfl
@[simp] theorem putLevel_routes (n : Nat) (x : Level) : (putLevel s n x).routes = s.routes := rfl
@[simp] theorem putLevel_lands (n : Nat) (x : Level) : (putLevel s n x).lands = s.lands := rfl
@[simp] theorem putLevel_puts (n : Nat) (x : Level) : (putLevel s n x).puts = s.puts := rfl
@[simp] theorem putLevel_qclass (n : Nat) (x : Level) : (putLevel s n x).qclass = s.qclass := rfl
@[simp] theorem putLevel_qslots (n : Nat) (x : Level) : (putLevel s n x).qslots = s.qslots := rfl
@[simp] theorem putLevel_qheld (n : Nat) (x : Level) : (putLevel s n x).qheld = s.qheld := rfl
@[simp] theorem putLevel_qServed (n : Nat) (x : Level) : (putLevel s n x).qServed = s.qServed := rfl
@[simp] theorem putLevel_qVoid (n : Nat) (x : Level) : (putLevel s n x).qVoid = s.qVoid := rfl
@[simp] theorem putLevel_qLate (n : Nat) (x : Level) : (putLevel s n x).qLate = s.qLate := rfl
@[simp] theorem putLevel_flt (n : Nat) (x : Level) : (putLevel s n x).flt = s.flt := rfl
@[simp] theorem putLevel_snap (n : Nat) (x : Level) : (putLevel s n x).snap = s.snap := rfl
@[simp] theorem putLevel_conf (n : Nat) (x : Level) : (putLevel s n x).conf = s.conf := rfl
@[simp] theorem putLevel_trust (n : Nat) (x : Level) : (putLevel s n x).trust = s.trust := rfl
@[simp] theorem putLevel_boot (n : Nat) (x : Level) : (putLevel s n x).boot = s.boot := rfl
@[simp] theorem putLevel_i3c (n : Nat) (x : Level) : (putLevel s n x).i3c = s.i3c := rfl
@[simp] theorem putLevel_pins (n : Nat) (x : Level) : (putLevel s n x).pins = s.pins := rfl
@[simp] theorem putLevel_lowHeld (n : Nat) (x : Level) : (putLevel s n x).lowHeld = s.lowHeld := rfl
@[simp] theorem putLevel_highLatch (n : Nat) (x : Level) : (putLevel s n x).highLatch = s.highLatch := rfl
@[simp] theorem putLevel_out (n : Nat) (x : Level) : (putLevel s n x).out = s.out := rfl

/-! ### After modLevel -/

@[simp] theorem modLevel_pending (n : Nat) (f : Level → Level) : (modLevel s n f).pending = s.pending := rfl
@[simp] theorem modLevel_now (n : Nat) (f : Level → Level) : (modLevel s n f).now = s.now := rfl
@[simp] theorem modLevel_freeCtr (n : Nat) (f : Level → Level) : (modLevel s n f).freeCtr = s.freeCtr := rfl
@[simp] theorem modLevel_mem (n : Nat) (f : Level → Level) : (modLevel s n f).mem = s.mem := rfl
@[simp] theorem modLevel_stopes (n : Nat) (f : Level → Level) : (modLevel s n f).stopes = s.stopes := rfl
@[simp] theorem modLevel_phys (n : Nat) (f : Level → Level) : (modLevel s n f).phys = s.phys := rfl
@[simp] theorem modLevel_devTallies (n : Nat) (f : Level → Level) : (modLevel s n f).devTallies = s.devTallies := rfl
@[simp] theorem modLevel_busyAt (n : Nat) (f : Level → Level) : (modLevel s n f).busyAt = s.busyAt := rfl
@[simp] theorem modLevel_signals (n : Nat) (f : Level → Level) : (modLevel s n f).signals = s.signals := rfl
@[simp] theorem modLevel_flagsDue (n : Nat) (f : Level → Level) : (modLevel s n f).flagsDue = s.flagsDue := rfl
@[simp] theorem modLevel_stackTab (n : Nat) (f : Level → Level) : (modLevel s n f).stackTab = s.stackTab := rfl
@[simp] theorem modLevel_rnd (n : Nat) (f : Level → Level) : (modLevel s n f).rnd = s.rnd := rfl
@[simp] theorem modLevel_nrg (n : Nat) (f : Level → Level) : (modLevel s n f).nrg = s.nrg := rfl
@[simp] theorem modLevel_power (n : Nat) (f : Level → Level) : (modLevel s n f).power = s.power := rfl
@[simp] theorem modLevel_powerNext (n : Nat) (f : Level → Level) : (modLevel s n f).powerNext = s.powerNext := rfl
@[simp] theorem modLevel_ebb (n : Nat) (f : Level → Level) : (modLevel s n f).ebb = s.ebb := rfl
@[simp] theorem modLevel_quench (n : Nat) (f : Level → Level) : (modLevel s n f).quench = s.quench := rfl
@[simp] theorem modLevel_cmds (n : Nat) (f : Level → Level) : (modLevel s n f).cmds = s.cmds := rfl
@[simp] theorem modLevel_nextOrder (n : Nat) (f : Level → Level) : (modLevel s n f).nextOrder = s.nextOrder := rfl
@[simp] theorem modLevel_mbx (n : Nat) (f : Level → Level) : (modLevel s n f).mbx = s.mbx := rfl
@[simp] theorem modLevel_ep (n : Nat) (f : Level → Level) : (modLevel s n f).ep = s.ep := rfl
@[simp] theorem modLevel_ports (n : Nat) (f : Level → Level) : (modLevel s n f).ports = s.ports := rfl
@[simp] theorem modLevel_fabId (n : Nat) (f : Level → Level) : (modLevel s n f).fabId = s.fabId := rfl
@[simp] theorem modLevel_absentRing (n : Nat) (f : Level → Level) : (modLevel s n f).absentRing = s.absentRing := rfl
@[simp] theorem modLevel_absentCount (n : Nat) (f : Level → Level) : (modLevel s n f).absentCount = s.absentCount := rfl
@[simp] theorem modLevel_presences (n : Nat) (f : Level → Level) : (modLevel s n f).presences = s.presences := rfl
@[simp] theorem modLevel_routes (n : Nat) (f : Level → Level) : (modLevel s n f).routes = s.routes := rfl
@[simp] theorem modLevel_lands (n : Nat) (f : Level → Level) : (modLevel s n f).lands = s.lands := rfl
@[simp] theorem modLevel_puts (n : Nat) (f : Level → Level) : (modLevel s n f).puts = s.puts := rfl
@[simp] theorem modLevel_qclass (n : Nat) (f : Level → Level) : (modLevel s n f).qclass = s.qclass := rfl
@[simp] theorem modLevel_qslots (n : Nat) (f : Level → Level) : (modLevel s n f).qslots = s.qslots := rfl
@[simp] theorem modLevel_qheld (n : Nat) (f : Level → Level) : (modLevel s n f).qheld = s.qheld := rfl
@[simp] theorem modLevel_qServed (n : Nat) (f : Level → Level) : (modLevel s n f).qServed = s.qServed := rfl
@[simp] theorem modLevel_qVoid (n : Nat) (f : Level → Level) : (modLevel s n f).qVoid = s.qVoid := rfl
@[simp] theorem modLevel_qLate (n : Nat) (f : Level → Level) : (modLevel s n f).qLate = s.qLate := rfl
@[simp] theorem modLevel_flt (n : Nat) (f : Level → Level) : (modLevel s n f).flt = s.flt := rfl
@[simp] theorem modLevel_snap (n : Nat) (f : Level → Level) : (modLevel s n f).snap = s.snap := rfl
@[simp] theorem modLevel_conf (n : Nat) (f : Level → Level) : (modLevel s n f).conf = s.conf := rfl
@[simp] theorem modLevel_trust (n : Nat) (f : Level → Level) : (modLevel s n f).trust = s.trust := rfl
@[simp] theorem modLevel_boot (n : Nat) (f : Level → Level) : (modLevel s n f).boot = s.boot := rfl
@[simp] theorem modLevel_i3c (n : Nat) (f : Level → Level) : (modLevel s n f).i3c = s.i3c := rfl
@[simp] theorem modLevel_pins (n : Nat) (f : Level → Level) : (modLevel s n f).pins = s.pins := rfl
@[simp] theorem modLevel_lowHeld (n : Nat) (f : Level → Level) : (modLevel s n f).lowHeld = s.lowHeld := rfl
@[simp] theorem modLevel_highLatch (n : Nat) (f : Level → Level) : (modLevel s n f).highLatch = s.highLatch := rfl
@[simp] theorem modLevel_out (n : Nat) (f : Level → Level) : (modLevel s n f).out = s.out := rfl

/-! ### After modHoist -/

@[simp] theorem modHoist_pending (n : Nat) (f : Hoist → Hoist) : (modHoist s n f).pending = s.pending := rfl
@[simp] theorem modHoist_now (n : Nat) (f : Hoist → Hoist) : (modHoist s n f).now = s.now := rfl
@[simp] theorem modHoist_freeCtr (n : Nat) (f : Hoist → Hoist) : (modHoist s n f).freeCtr = s.freeCtr := rfl
@[simp] theorem modHoist_mem (n : Nat) (f : Hoist → Hoist) : (modHoist s n f).mem = s.mem := rfl
@[simp] theorem modHoist_stopes (n : Nat) (f : Hoist → Hoist) : (modHoist s n f).stopes = s.stopes := rfl
@[simp] theorem modHoist_phys (n : Nat) (f : Hoist → Hoist) : (modHoist s n f).phys = s.phys := rfl
@[simp] theorem modHoist_devTallies (n : Nat) (f : Hoist → Hoist) : (modHoist s n f).devTallies = s.devTallies := rfl
@[simp] theorem modHoist_busyAt (n : Nat) (f : Hoist → Hoist) : (modHoist s n f).busyAt = s.busyAt := rfl
@[simp] theorem modHoist_signals (n : Nat) (f : Hoist → Hoist) : (modHoist s n f).signals = s.signals := rfl
@[simp] theorem modHoist_flagsDue (n : Nat) (f : Hoist → Hoist) : (modHoist s n f).flagsDue = s.flagsDue := rfl
@[simp] theorem modHoist_stackTab (n : Nat) (f : Hoist → Hoist) : (modHoist s n f).stackTab = s.stackTab := rfl
@[simp] theorem modHoist_rnd (n : Nat) (f : Hoist → Hoist) : (modHoist s n f).rnd = s.rnd := rfl
@[simp] theorem modHoist_nrg (n : Nat) (f : Hoist → Hoist) : (modHoist s n f).nrg = s.nrg := rfl
@[simp] theorem modHoist_power (n : Nat) (f : Hoist → Hoist) : (modHoist s n f).power = s.power := rfl
@[simp] theorem modHoist_powerNext (n : Nat) (f : Hoist → Hoist) : (modHoist s n f).powerNext = s.powerNext := rfl
@[simp] theorem modHoist_ebb (n : Nat) (f : Hoist → Hoist) : (modHoist s n f).ebb = s.ebb := rfl
@[simp] theorem modHoist_quench (n : Nat) (f : Hoist → Hoist) : (modHoist s n f).quench = s.quench := rfl
@[simp] theorem modHoist_cmds (n : Nat) (f : Hoist → Hoist) : (modHoist s n f).cmds = s.cmds := rfl
@[simp] theorem modHoist_nextOrder (n : Nat) (f : Hoist → Hoist) : (modHoist s n f).nextOrder = s.nextOrder := rfl
@[simp] theorem modHoist_mbx (n : Nat) (f : Hoist → Hoist) : (modHoist s n f).mbx = s.mbx := rfl
@[simp] theorem modHoist_ep (n : Nat) (f : Hoist → Hoist) : (modHoist s n f).ep = s.ep := rfl
@[simp] theorem modHoist_ports (n : Nat) (f : Hoist → Hoist) : (modHoist s n f).ports = s.ports := rfl
@[simp] theorem modHoist_fabId (n : Nat) (f : Hoist → Hoist) : (modHoist s n f).fabId = s.fabId := rfl
@[simp] theorem modHoist_absentRing (n : Nat) (f : Hoist → Hoist) : (modHoist s n f).absentRing = s.absentRing := rfl
@[simp] theorem modHoist_absentCount (n : Nat) (f : Hoist → Hoist) : (modHoist s n f).absentCount = s.absentCount := rfl
@[simp] theorem modHoist_presences (n : Nat) (f : Hoist → Hoist) : (modHoist s n f).presences = s.presences := rfl
@[simp] theorem modHoist_routes (n : Nat) (f : Hoist → Hoist) : (modHoist s n f).routes = s.routes := rfl
@[simp] theorem modHoist_lands (n : Nat) (f : Hoist → Hoist) : (modHoist s n f).lands = s.lands := rfl
@[simp] theorem modHoist_puts (n : Nat) (f : Hoist → Hoist) : (modHoist s n f).puts = s.puts := rfl
@[simp] theorem modHoist_qclass (n : Nat) (f : Hoist → Hoist) : (modHoist s n f).qclass = s.qclass := rfl
@[simp] theorem modHoist_qslots (n : Nat) (f : Hoist → Hoist) : (modHoist s n f).qslots = s.qslots := rfl
@[simp] theorem modHoist_qheld (n : Nat) (f : Hoist → Hoist) : (modHoist s n f).qheld = s.qheld := rfl
@[simp] theorem modHoist_qServed (n : Nat) (f : Hoist → Hoist) : (modHoist s n f).qServed = s.qServed := rfl
@[simp] theorem modHoist_qVoid (n : Nat) (f : Hoist → Hoist) : (modHoist s n f).qVoid = s.qVoid := rfl
@[simp] theorem modHoist_qLate (n : Nat) (f : Hoist → Hoist) : (modHoist s n f).qLate = s.qLate := rfl
@[simp] theorem modHoist_flt (n : Nat) (f : Hoist → Hoist) : (modHoist s n f).flt = s.flt := rfl
@[simp] theorem modHoist_snap (n : Nat) (f : Hoist → Hoist) : (modHoist s n f).snap = s.snap := rfl
@[simp] theorem modHoist_conf (n : Nat) (f : Hoist → Hoist) : (modHoist s n f).conf = s.conf := rfl
@[simp] theorem modHoist_trust (n : Nat) (f : Hoist → Hoist) : (modHoist s n f).trust = s.trust := rfl
@[simp] theorem modHoist_boot (n : Nat) (f : Hoist → Hoist) : (modHoist s n f).boot = s.boot := rfl
@[simp] theorem modHoist_i3c (n : Nat) (f : Hoist → Hoist) : (modHoist s n f).i3c = s.i3c := rfl
@[simp] theorem modHoist_pins (n : Nat) (f : Hoist → Hoist) : (modHoist s n f).pins = s.pins := rfl
@[simp] theorem modHoist_lowHeld (n : Nat) (f : Hoist → Hoist) : (modHoist s n f).lowHeld = s.lowHeld := rfl
@[simp] theorem modHoist_highLatch (n : Nat) (f : Hoist → Hoist) : (modHoist s n f).highLatch = s.highLatch := rfl
@[simp] theorem modHoist_out (n : Nat) (f : Hoist → Hoist) : (modHoist s n f).out = s.out := rfl

/-! ### After putPhys -/

@[simp] theorem putPhys_pending (p : Nat) (x : Phys) : (putPhys s p x).pending = s.pending := rfl
@[simp] theorem putPhys_now (p : Nat) (x : Phys) : (putPhys s p x).now = s.now := rfl
@[simp] theorem putPhys_freeCtr (p : Nat) (x : Phys) : (putPhys s p x).freeCtr = s.freeCtr := rfl
@[simp] theorem putPhys_mem (p : Nat) (x : Phys) : (putPhys s p x).mem = s.mem := rfl
@[simp] theorem putPhys_stopes (p : Nat) (x : Phys) : (putPhys s p x).stopes = s.stopes := rfl
@[simp] theorem putPhys_levels (p : Nat) (x : Phys) : (putPhys s p x).levels = s.levels := rfl
@[simp] theorem putPhys_phys (p : Nat) (x : Phys) : (putPhys s p x).phys = tset s.phys {} p x := rfl
@[simp] theorem putPhys_devTallies (p : Nat) (x : Phys) : (putPhys s p x).devTallies = s.devTallies := rfl
@[simp] theorem putPhys_busyAt (p : Nat) (x : Phys) : (putPhys s p x).busyAt = s.busyAt := rfl
@[simp] theorem putPhys_signals (p : Nat) (x : Phys) : (putPhys s p x).signals = s.signals := rfl
@[simp] theorem putPhys_flagsDue (p : Nat) (x : Phys) : (putPhys s p x).flagsDue = s.flagsDue := rfl
@[simp] theorem putPhys_stackTab (p : Nat) (x : Phys) : (putPhys s p x).stackTab = s.stackTab := rfl
@[simp] theorem putPhys_rnd (p : Nat) (x : Phys) : (putPhys s p x).rnd = s.rnd := rfl
@[simp] theorem putPhys_nrg (p : Nat) (x : Phys) : (putPhys s p x).nrg = s.nrg := rfl
@[simp] theorem putPhys_power (p : Nat) (x : Phys) : (putPhys s p x).power = s.power := rfl
@[simp] theorem putPhys_powerNext (p : Nat) (x : Phys) : (putPhys s p x).powerNext = s.powerNext := rfl
@[simp] theorem putPhys_ebb (p : Nat) (x : Phys) : (putPhys s p x).ebb = s.ebb := rfl
@[simp] theorem putPhys_quench (p : Nat) (x : Phys) : (putPhys s p x).quench = s.quench := rfl
@[simp] theorem putPhys_cmds (p : Nat) (x : Phys) : (putPhys s p x).cmds = s.cmds := rfl
@[simp] theorem putPhys_nextOrder (p : Nat) (x : Phys) : (putPhys s p x).nextOrder = s.nextOrder := rfl
@[simp] theorem putPhys_mbx (p : Nat) (x : Phys) : (putPhys s p x).mbx = s.mbx := rfl
@[simp] theorem putPhys_ep (p : Nat) (x : Phys) : (putPhys s p x).ep = s.ep := rfl
@[simp] theorem putPhys_ports (p : Nat) (x : Phys) : (putPhys s p x).ports = s.ports := rfl
@[simp] theorem putPhys_fabId (p : Nat) (x : Phys) : (putPhys s p x).fabId = s.fabId := rfl
@[simp] theorem putPhys_absentRing (p : Nat) (x : Phys) : (putPhys s p x).absentRing = s.absentRing := rfl
@[simp] theorem putPhys_absentCount (p : Nat) (x : Phys) : (putPhys s p x).absentCount = s.absentCount := rfl
@[simp] theorem putPhys_presences (p : Nat) (x : Phys) : (putPhys s p x).presences = s.presences := rfl
@[simp] theorem putPhys_routes (p : Nat) (x : Phys) : (putPhys s p x).routes = s.routes := rfl
@[simp] theorem putPhys_lands (p : Nat) (x : Phys) : (putPhys s p x).lands = s.lands := rfl
@[simp] theorem putPhys_puts (p : Nat) (x : Phys) : (putPhys s p x).puts = s.puts := rfl
@[simp] theorem putPhys_qclass (p : Nat) (x : Phys) : (putPhys s p x).qclass = s.qclass := rfl
@[simp] theorem putPhys_qslots (p : Nat) (x : Phys) : (putPhys s p x).qslots = s.qslots := rfl
@[simp] theorem putPhys_qheld (p : Nat) (x : Phys) : (putPhys s p x).qheld = s.qheld := rfl
@[simp] theorem putPhys_qServed (p : Nat) (x : Phys) : (putPhys s p x).qServed = s.qServed := rfl
@[simp] theorem putPhys_qVoid (p : Nat) (x : Phys) : (putPhys s p x).qVoid = s.qVoid := rfl
@[simp] theorem putPhys_qLate (p : Nat) (x : Phys) : (putPhys s p x).qLate = s.qLate := rfl
@[simp] theorem putPhys_flt (p : Nat) (x : Phys) : (putPhys s p x).flt = s.flt := rfl
@[simp] theorem putPhys_snap (p : Nat) (x : Phys) : (putPhys s p x).snap = s.snap := rfl
@[simp] theorem putPhys_conf (p : Nat) (x : Phys) : (putPhys s p x).conf = s.conf := rfl
@[simp] theorem putPhys_trust (p : Nat) (x : Phys) : (putPhys s p x).trust = s.trust := rfl
@[simp] theorem putPhys_boot (p : Nat) (x : Phys) : (putPhys s p x).boot = s.boot := rfl
@[simp] theorem putPhys_i3c (p : Nat) (x : Phys) : (putPhys s p x).i3c = s.i3c := rfl
@[simp] theorem putPhys_pins (p : Nat) (x : Phys) : (putPhys s p x).pins = s.pins := rfl
@[simp] theorem putPhys_lowHeld (p : Nat) (x : Phys) : (putPhys s p x).lowHeld = s.lowHeld := rfl
@[simp] theorem putPhys_highLatch (p : Nat) (x : Phys) : (putPhys s p x).highLatch = s.highLatch := rfl
@[simp] theorem putPhys_out (p : Nat) (x : Phys) : (putPhys s p x).out = s.out := rfl

/-! ### After modPhys -/

@[simp] theorem modPhys_pending (p : Nat) (f : Phys → Phys) : (modPhys s p f).pending = s.pending := rfl
@[simp] theorem modPhys_now (p : Nat) (f : Phys → Phys) : (modPhys s p f).now = s.now := rfl
@[simp] theorem modPhys_freeCtr (p : Nat) (f : Phys → Phys) : (modPhys s p f).freeCtr = s.freeCtr := rfl
@[simp] theorem modPhys_mem (p : Nat) (f : Phys → Phys) : (modPhys s p f).mem = s.mem := rfl
@[simp] theorem modPhys_stopes (p : Nat) (f : Phys → Phys) : (modPhys s p f).stopes = s.stopes := rfl
@[simp] theorem modPhys_levels (p : Nat) (f : Phys → Phys) : (modPhys s p f).levels = s.levels := rfl
@[simp] theorem modPhys_devTallies (p : Nat) (f : Phys → Phys) : (modPhys s p f).devTallies = s.devTallies := rfl
@[simp] theorem modPhys_busyAt (p : Nat) (f : Phys → Phys) : (modPhys s p f).busyAt = s.busyAt := rfl
@[simp] theorem modPhys_signals (p : Nat) (f : Phys → Phys) : (modPhys s p f).signals = s.signals := rfl
@[simp] theorem modPhys_flagsDue (p : Nat) (f : Phys → Phys) : (modPhys s p f).flagsDue = s.flagsDue := rfl
@[simp] theorem modPhys_stackTab (p : Nat) (f : Phys → Phys) : (modPhys s p f).stackTab = s.stackTab := rfl
@[simp] theorem modPhys_rnd (p : Nat) (f : Phys → Phys) : (modPhys s p f).rnd = s.rnd := rfl
@[simp] theorem modPhys_nrg (p : Nat) (f : Phys → Phys) : (modPhys s p f).nrg = s.nrg := rfl
@[simp] theorem modPhys_power (p : Nat) (f : Phys → Phys) : (modPhys s p f).power = s.power := rfl
@[simp] theorem modPhys_powerNext (p : Nat) (f : Phys → Phys) : (modPhys s p f).powerNext = s.powerNext := rfl
@[simp] theorem modPhys_ebb (p : Nat) (f : Phys → Phys) : (modPhys s p f).ebb = s.ebb := rfl
@[simp] theorem modPhys_quench (p : Nat) (f : Phys → Phys) : (modPhys s p f).quench = s.quench := rfl
@[simp] theorem modPhys_cmds (p : Nat) (f : Phys → Phys) : (modPhys s p f).cmds = s.cmds := rfl
@[simp] theorem modPhys_nextOrder (p : Nat) (f : Phys → Phys) : (modPhys s p f).nextOrder = s.nextOrder := rfl
@[simp] theorem modPhys_mbx (p : Nat) (f : Phys → Phys) : (modPhys s p f).mbx = s.mbx := rfl
@[simp] theorem modPhys_ep (p : Nat) (f : Phys → Phys) : (modPhys s p f).ep = s.ep := rfl
@[simp] theorem modPhys_ports (p : Nat) (f : Phys → Phys) : (modPhys s p f).ports = s.ports := rfl
@[simp] theorem modPhys_fabId (p : Nat) (f : Phys → Phys) : (modPhys s p f).fabId = s.fabId := rfl
@[simp] theorem modPhys_absentRing (p : Nat) (f : Phys → Phys) : (modPhys s p f).absentRing = s.absentRing := rfl
@[simp] theorem modPhys_absentCount (p : Nat) (f : Phys → Phys) : (modPhys s p f).absentCount = s.absentCount := rfl
@[simp] theorem modPhys_presences (p : Nat) (f : Phys → Phys) : (modPhys s p f).presences = s.presences := rfl
@[simp] theorem modPhys_routes (p : Nat) (f : Phys → Phys) : (modPhys s p f).routes = s.routes := rfl
@[simp] theorem modPhys_lands (p : Nat) (f : Phys → Phys) : (modPhys s p f).lands = s.lands := rfl
@[simp] theorem modPhys_puts (p : Nat) (f : Phys → Phys) : (modPhys s p f).puts = s.puts := rfl
@[simp] theorem modPhys_qclass (p : Nat) (f : Phys → Phys) : (modPhys s p f).qclass = s.qclass := rfl
@[simp] theorem modPhys_qslots (p : Nat) (f : Phys → Phys) : (modPhys s p f).qslots = s.qslots := rfl
@[simp] theorem modPhys_qheld (p : Nat) (f : Phys → Phys) : (modPhys s p f).qheld = s.qheld := rfl
@[simp] theorem modPhys_qServed (p : Nat) (f : Phys → Phys) : (modPhys s p f).qServed = s.qServed := rfl
@[simp] theorem modPhys_qVoid (p : Nat) (f : Phys → Phys) : (modPhys s p f).qVoid = s.qVoid := rfl
@[simp] theorem modPhys_qLate (p : Nat) (f : Phys → Phys) : (modPhys s p f).qLate = s.qLate := rfl
@[simp] theorem modPhys_flt (p : Nat) (f : Phys → Phys) : (modPhys s p f).flt = s.flt := rfl
@[simp] theorem modPhys_snap (p : Nat) (f : Phys → Phys) : (modPhys s p f).snap = s.snap := rfl
@[simp] theorem modPhys_conf (p : Nat) (f : Phys → Phys) : (modPhys s p f).conf = s.conf := rfl
@[simp] theorem modPhys_trust (p : Nat) (f : Phys → Phys) : (modPhys s p f).trust = s.trust := rfl
@[simp] theorem modPhys_boot (p : Nat) (f : Phys → Phys) : (modPhys s p f).boot = s.boot := rfl
@[simp] theorem modPhys_i3c (p : Nat) (f : Phys → Phys) : (modPhys s p f).i3c = s.i3c := rfl
@[simp] theorem modPhys_pins (p : Nat) (f : Phys → Phys) : (modPhys s p f).pins = s.pins := rfl
@[simp] theorem modPhys_lowHeld (p : Nat) (f : Phys → Phys) : (modPhys s p f).lowHeld = s.lowHeld := rfl
@[simp] theorem modPhys_highLatch (p : Nat) (f : Phys → Phys) : (modPhys s p f).highLatch = s.highLatch := rfl
@[simp] theorem modPhys_out (p : Nat) (f : Phys → Phys) : (modPhys s p f).out = s.out := rfl

/-! ### After modStack -/

@[simp] theorem modStack_pending (k : Nat) (f : Stack → Stack) : (modStack s k f).pending = s.pending := rfl
@[simp] theorem modStack_now (k : Nat) (f : Stack → Stack) : (modStack s k f).now = s.now := rfl
@[simp] theorem modStack_freeCtr (k : Nat) (f : Stack → Stack) : (modStack s k f).freeCtr = s.freeCtr := rfl
@[simp] theorem modStack_mem (k : Nat) (f : Stack → Stack) : (modStack s k f).mem = s.mem := rfl
@[simp] theorem modStack_stopes (k : Nat) (f : Stack → Stack) : (modStack s k f).stopes = s.stopes := rfl
@[simp] theorem modStack_levels (k : Nat) (f : Stack → Stack) : (modStack s k f).levels = s.levels := rfl
@[simp] theorem modStack_phys (k : Nat) (f : Stack → Stack) : (modStack s k f).phys = s.phys := rfl
@[simp] theorem modStack_devTallies (k : Nat) (f : Stack → Stack) : (modStack s k f).devTallies = s.devTallies := rfl
@[simp] theorem modStack_busyAt (k : Nat) (f : Stack → Stack) : (modStack s k f).busyAt = s.busyAt := rfl
@[simp] theorem modStack_signals (k : Nat) (f : Stack → Stack) : (modStack s k f).signals = s.signals := rfl
@[simp] theorem modStack_flagsDue (k : Nat) (f : Stack → Stack) : (modStack s k f).flagsDue = s.flagsDue := rfl
@[simp] theorem modStack_rnd (k : Nat) (f : Stack → Stack) : (modStack s k f).rnd = s.rnd := rfl
@[simp] theorem modStack_nrg (k : Nat) (f : Stack → Stack) : (modStack s k f).nrg = s.nrg := rfl
@[simp] theorem modStack_power (k : Nat) (f : Stack → Stack) : (modStack s k f).power = s.power := rfl
@[simp] theorem modStack_powerNext (k : Nat) (f : Stack → Stack) : (modStack s k f).powerNext = s.powerNext := rfl
@[simp] theorem modStack_ebb (k : Nat) (f : Stack → Stack) : (modStack s k f).ebb = s.ebb := rfl
@[simp] theorem modStack_quench (k : Nat) (f : Stack → Stack) : (modStack s k f).quench = s.quench := rfl
@[simp] theorem modStack_cmds (k : Nat) (f : Stack → Stack) : (modStack s k f).cmds = s.cmds := rfl
@[simp] theorem modStack_nextOrder (k : Nat) (f : Stack → Stack) : (modStack s k f).nextOrder = s.nextOrder := rfl
@[simp] theorem modStack_mbx (k : Nat) (f : Stack → Stack) : (modStack s k f).mbx = s.mbx := rfl
@[simp] theorem modStack_ep (k : Nat) (f : Stack → Stack) : (modStack s k f).ep = s.ep := rfl
@[simp] theorem modStack_ports (k : Nat) (f : Stack → Stack) : (modStack s k f).ports = s.ports := rfl
@[simp] theorem modStack_fabId (k : Nat) (f : Stack → Stack) : (modStack s k f).fabId = s.fabId := rfl
@[simp] theorem modStack_absentRing (k : Nat) (f : Stack → Stack) : (modStack s k f).absentRing = s.absentRing := rfl
@[simp] theorem modStack_absentCount (k : Nat) (f : Stack → Stack) : (modStack s k f).absentCount = s.absentCount := rfl
@[simp] theorem modStack_presences (k : Nat) (f : Stack → Stack) : (modStack s k f).presences = s.presences := rfl
@[simp] theorem modStack_routes (k : Nat) (f : Stack → Stack) : (modStack s k f).routes = s.routes := rfl
@[simp] theorem modStack_lands (k : Nat) (f : Stack → Stack) : (modStack s k f).lands = s.lands := rfl
@[simp] theorem modStack_puts (k : Nat) (f : Stack → Stack) : (modStack s k f).puts = s.puts := rfl
@[simp] theorem modStack_qclass (k : Nat) (f : Stack → Stack) : (modStack s k f).qclass = s.qclass := rfl
@[simp] theorem modStack_qslots (k : Nat) (f : Stack → Stack) : (modStack s k f).qslots = s.qslots := rfl
@[simp] theorem modStack_qheld (k : Nat) (f : Stack → Stack) : (modStack s k f).qheld = s.qheld := rfl
@[simp] theorem modStack_qServed (k : Nat) (f : Stack → Stack) : (modStack s k f).qServed = s.qServed := rfl
@[simp] theorem modStack_qVoid (k : Nat) (f : Stack → Stack) : (modStack s k f).qVoid = s.qVoid := rfl
@[simp] theorem modStack_qLate (k : Nat) (f : Stack → Stack) : (modStack s k f).qLate = s.qLate := rfl
@[simp] theorem modStack_flt (k : Nat) (f : Stack → Stack) : (modStack s k f).flt = s.flt := rfl
@[simp] theorem modStack_snap (k : Nat) (f : Stack → Stack) : (modStack s k f).snap = s.snap := rfl
@[simp] theorem modStack_conf (k : Nat) (f : Stack → Stack) : (modStack s k f).conf = s.conf := rfl
@[simp] theorem modStack_trust (k : Nat) (f : Stack → Stack) : (modStack s k f).trust = s.trust := rfl
@[simp] theorem modStack_boot (k : Nat) (f : Stack → Stack) : (modStack s k f).boot = s.boot := rfl
@[simp] theorem modStack_i3c (k : Nat) (f : Stack → Stack) : (modStack s k f).i3c = s.i3c := rfl
@[simp] theorem modStack_pins (k : Nat) (f : Stack → Stack) : (modStack s k f).pins = s.pins := rfl
@[simp] theorem modStack_lowHeld (k : Nat) (f : Stack → Stack) : (modStack s k f).lowHeld = s.lowHeld := rfl
@[simp] theorem modStack_highLatch (k : Nat) (f : Stack → Stack) : (modStack s k f).highLatch = s.highLatch := rfl
@[simp] theorem modStack_out (k : Nat) (f : Stack → Stack) : (modStack s k f).out = s.out := rfl

/-! ### After putMbx -/

@[simp] theorem putMbx_pending (m : Nat) (x : Mbx) : (putMbx s m x).pending = s.pending := rfl
@[simp] theorem putMbx_now (m : Nat) (x : Mbx) : (putMbx s m x).now = s.now := rfl
@[simp] theorem putMbx_freeCtr (m : Nat) (x : Mbx) : (putMbx s m x).freeCtr = s.freeCtr := rfl
@[simp] theorem putMbx_mem (m : Nat) (x : Mbx) : (putMbx s m x).mem = s.mem := rfl
@[simp] theorem putMbx_stopes (m : Nat) (x : Mbx) : (putMbx s m x).stopes = s.stopes := rfl
@[simp] theorem putMbx_levels (m : Nat) (x : Mbx) : (putMbx s m x).levels = s.levels := rfl
@[simp] theorem putMbx_phys (m : Nat) (x : Mbx) : (putMbx s m x).phys = s.phys := rfl
@[simp] theorem putMbx_devTallies (m : Nat) (x : Mbx) : (putMbx s m x).devTallies = s.devTallies := rfl
@[simp] theorem putMbx_busyAt (m : Nat) (x : Mbx) : (putMbx s m x).busyAt = s.busyAt := rfl
@[simp] theorem putMbx_signals (m : Nat) (x : Mbx) : (putMbx s m x).signals = s.signals := rfl
@[simp] theorem putMbx_flagsDue (m : Nat) (x : Mbx) : (putMbx s m x).flagsDue = s.flagsDue := rfl
@[simp] theorem putMbx_stackTab (m : Nat) (x : Mbx) : (putMbx s m x).stackTab = s.stackTab := rfl
@[simp] theorem putMbx_rnd (m : Nat) (x : Mbx) : (putMbx s m x).rnd = s.rnd := rfl
@[simp] theorem putMbx_nrg (m : Nat) (x : Mbx) : (putMbx s m x).nrg = s.nrg := rfl
@[simp] theorem putMbx_power (m : Nat) (x : Mbx) : (putMbx s m x).power = s.power := rfl
@[simp] theorem putMbx_powerNext (m : Nat) (x : Mbx) : (putMbx s m x).powerNext = s.powerNext := rfl
@[simp] theorem putMbx_ebb (m : Nat) (x : Mbx) : (putMbx s m x).ebb = s.ebb := rfl
@[simp] theorem putMbx_quench (m : Nat) (x : Mbx) : (putMbx s m x).quench = s.quench := rfl
@[simp] theorem putMbx_cmds (m : Nat) (x : Mbx) : (putMbx s m x).cmds = s.cmds := rfl
@[simp] theorem putMbx_nextOrder (m : Nat) (x : Mbx) : (putMbx s m x).nextOrder = s.nextOrder := rfl
@[simp] theorem putMbx_mbx (m : Nat) (x : Mbx) : (putMbx s m x).mbx = tset s.mbx {} m x := rfl
@[simp] theorem putMbx_ep (m : Nat) (x : Mbx) : (putMbx s m x).ep = s.ep := rfl
@[simp] theorem putMbx_ports (m : Nat) (x : Mbx) : (putMbx s m x).ports = s.ports := rfl
@[simp] theorem putMbx_fabId (m : Nat) (x : Mbx) : (putMbx s m x).fabId = s.fabId := rfl
@[simp] theorem putMbx_absentRing (m : Nat) (x : Mbx) : (putMbx s m x).absentRing = s.absentRing := rfl
@[simp] theorem putMbx_absentCount (m : Nat) (x : Mbx) : (putMbx s m x).absentCount = s.absentCount := rfl
@[simp] theorem putMbx_presences (m : Nat) (x : Mbx) : (putMbx s m x).presences = s.presences := rfl
@[simp] theorem putMbx_routes (m : Nat) (x : Mbx) : (putMbx s m x).routes = s.routes := rfl
@[simp] theorem putMbx_lands (m : Nat) (x : Mbx) : (putMbx s m x).lands = s.lands := rfl
@[simp] theorem putMbx_puts (m : Nat) (x : Mbx) : (putMbx s m x).puts = s.puts := rfl
@[simp] theorem putMbx_qclass (m : Nat) (x : Mbx) : (putMbx s m x).qclass = s.qclass := rfl
@[simp] theorem putMbx_qslots (m : Nat) (x : Mbx) : (putMbx s m x).qslots = s.qslots := rfl
@[simp] theorem putMbx_qheld (m : Nat) (x : Mbx) : (putMbx s m x).qheld = s.qheld := rfl
@[simp] theorem putMbx_qServed (m : Nat) (x : Mbx) : (putMbx s m x).qServed = s.qServed := rfl
@[simp] theorem putMbx_qVoid (m : Nat) (x : Mbx) : (putMbx s m x).qVoid = s.qVoid := rfl
@[simp] theorem putMbx_qLate (m : Nat) (x : Mbx) : (putMbx s m x).qLate = s.qLate := rfl
@[simp] theorem putMbx_flt (m : Nat) (x : Mbx) : (putMbx s m x).flt = s.flt := rfl
@[simp] theorem putMbx_snap (m : Nat) (x : Mbx) : (putMbx s m x).snap = s.snap := rfl
@[simp] theorem putMbx_conf (m : Nat) (x : Mbx) : (putMbx s m x).conf = s.conf := rfl
@[simp] theorem putMbx_trust (m : Nat) (x : Mbx) : (putMbx s m x).trust = s.trust := rfl
@[simp] theorem putMbx_boot (m : Nat) (x : Mbx) : (putMbx s m x).boot = s.boot := rfl
@[simp] theorem putMbx_i3c (m : Nat) (x : Mbx) : (putMbx s m x).i3c = s.i3c := rfl
@[simp] theorem putMbx_pins (m : Nat) (x : Mbx) : (putMbx s m x).pins = s.pins := rfl
@[simp] theorem putMbx_lowHeld (m : Nat) (x : Mbx) : (putMbx s m x).lowHeld = s.lowHeld := rfl
@[simp] theorem putMbx_highLatch (m : Nat) (x : Mbx) : (putMbx s m x).highLatch = s.highLatch := rfl
@[simp] theorem putMbx_out (m : Nat) (x : Mbx) : (putMbx s m x).out = s.out := rfl

/-! ### After modMbx -/

@[simp] theorem modMbx_pending (m : Nat) (f : Mbx → Mbx) : (modMbx s m f).pending = s.pending := rfl
@[simp] theorem modMbx_now (m : Nat) (f : Mbx → Mbx) : (modMbx s m f).now = s.now := rfl
@[simp] theorem modMbx_freeCtr (m : Nat) (f : Mbx → Mbx) : (modMbx s m f).freeCtr = s.freeCtr := rfl
@[simp] theorem modMbx_mem (m : Nat) (f : Mbx → Mbx) : (modMbx s m f).mem = s.mem := rfl
@[simp] theorem modMbx_stopes (m : Nat) (f : Mbx → Mbx) : (modMbx s m f).stopes = s.stopes := rfl
@[simp] theorem modMbx_levels (m : Nat) (f : Mbx → Mbx) : (modMbx s m f).levels = s.levels := rfl
@[simp] theorem modMbx_phys (m : Nat) (f : Mbx → Mbx) : (modMbx s m f).phys = s.phys := rfl
@[simp] theorem modMbx_devTallies (m : Nat) (f : Mbx → Mbx) : (modMbx s m f).devTallies = s.devTallies := rfl
@[simp] theorem modMbx_busyAt (m : Nat) (f : Mbx → Mbx) : (modMbx s m f).busyAt = s.busyAt := rfl
@[simp] theorem modMbx_signals (m : Nat) (f : Mbx → Mbx) : (modMbx s m f).signals = s.signals := rfl
@[simp] theorem modMbx_flagsDue (m : Nat) (f : Mbx → Mbx) : (modMbx s m f).flagsDue = s.flagsDue := rfl
@[simp] theorem modMbx_stackTab (m : Nat) (f : Mbx → Mbx) : (modMbx s m f).stackTab = s.stackTab := rfl
@[simp] theorem modMbx_rnd (m : Nat) (f : Mbx → Mbx) : (modMbx s m f).rnd = s.rnd := rfl
@[simp] theorem modMbx_nrg (m : Nat) (f : Mbx → Mbx) : (modMbx s m f).nrg = s.nrg := rfl
@[simp] theorem modMbx_power (m : Nat) (f : Mbx → Mbx) : (modMbx s m f).power = s.power := rfl
@[simp] theorem modMbx_powerNext (m : Nat) (f : Mbx → Mbx) : (modMbx s m f).powerNext = s.powerNext := rfl
@[simp] theorem modMbx_ebb (m : Nat) (f : Mbx → Mbx) : (modMbx s m f).ebb = s.ebb := rfl
@[simp] theorem modMbx_quench (m : Nat) (f : Mbx → Mbx) : (modMbx s m f).quench = s.quench := rfl
@[simp] theorem modMbx_cmds (m : Nat) (f : Mbx → Mbx) : (modMbx s m f).cmds = s.cmds := rfl
@[simp] theorem modMbx_nextOrder (m : Nat) (f : Mbx → Mbx) : (modMbx s m f).nextOrder = s.nextOrder := rfl
@[simp] theorem modMbx_ep (m : Nat) (f : Mbx → Mbx) : (modMbx s m f).ep = s.ep := rfl
@[simp] theorem modMbx_ports (m : Nat) (f : Mbx → Mbx) : (modMbx s m f).ports = s.ports := rfl
@[simp] theorem modMbx_fabId (m : Nat) (f : Mbx → Mbx) : (modMbx s m f).fabId = s.fabId := rfl
@[simp] theorem modMbx_absentRing (m : Nat) (f : Mbx → Mbx) : (modMbx s m f).absentRing = s.absentRing := rfl
@[simp] theorem modMbx_absentCount (m : Nat) (f : Mbx → Mbx) : (modMbx s m f).absentCount = s.absentCount := rfl
@[simp] theorem modMbx_presences (m : Nat) (f : Mbx → Mbx) : (modMbx s m f).presences = s.presences := rfl
@[simp] theorem modMbx_routes (m : Nat) (f : Mbx → Mbx) : (modMbx s m f).routes = s.routes := rfl
@[simp] theorem modMbx_lands (m : Nat) (f : Mbx → Mbx) : (modMbx s m f).lands = s.lands := rfl
@[simp] theorem modMbx_puts (m : Nat) (f : Mbx → Mbx) : (modMbx s m f).puts = s.puts := rfl
@[simp] theorem modMbx_qclass (m : Nat) (f : Mbx → Mbx) : (modMbx s m f).qclass = s.qclass := rfl
@[simp] theorem modMbx_qslots (m : Nat) (f : Mbx → Mbx) : (modMbx s m f).qslots = s.qslots := rfl
@[simp] theorem modMbx_qheld (m : Nat) (f : Mbx → Mbx) : (modMbx s m f).qheld = s.qheld := rfl
@[simp] theorem modMbx_qServed (m : Nat) (f : Mbx → Mbx) : (modMbx s m f).qServed = s.qServed := rfl
@[simp] theorem modMbx_qVoid (m : Nat) (f : Mbx → Mbx) : (modMbx s m f).qVoid = s.qVoid := rfl
@[simp] theorem modMbx_qLate (m : Nat) (f : Mbx → Mbx) : (modMbx s m f).qLate = s.qLate := rfl
@[simp] theorem modMbx_flt (m : Nat) (f : Mbx → Mbx) : (modMbx s m f).flt = s.flt := rfl
@[simp] theorem modMbx_snap (m : Nat) (f : Mbx → Mbx) : (modMbx s m f).snap = s.snap := rfl
@[simp] theorem modMbx_conf (m : Nat) (f : Mbx → Mbx) : (modMbx s m f).conf = s.conf := rfl
@[simp] theorem modMbx_trust (m : Nat) (f : Mbx → Mbx) : (modMbx s m f).trust = s.trust := rfl
@[simp] theorem modMbx_boot (m : Nat) (f : Mbx → Mbx) : (modMbx s m f).boot = s.boot := rfl
@[simp] theorem modMbx_i3c (m : Nat) (f : Mbx → Mbx) : (modMbx s m f).i3c = s.i3c := rfl
@[simp] theorem modMbx_pins (m : Nat) (f : Mbx → Mbx) : (modMbx s m f).pins = s.pins := rfl
@[simp] theorem modMbx_lowHeld (m : Nat) (f : Mbx → Mbx) : (modMbx s m f).lowHeld = s.lowHeld := rfl
@[simp] theorem modMbx_highLatch (m : Nat) (f : Mbx → Mbx) : (modMbx s m f).highLatch = s.highLatch := rfl
@[simp] theorem modMbx_out (m : Nat) (f : Mbx → Mbx) : (modMbx s m f).out = s.out := rfl

/-! ### After putPort -/

@[simp] theorem putPort_pending (p : Nat) (x : Port) : (putPort s p x).pending = s.pending := rfl
@[simp] theorem putPort_now (p : Nat) (x : Port) : (putPort s p x).now = s.now := rfl
@[simp] theorem putPort_freeCtr (p : Nat) (x : Port) : (putPort s p x).freeCtr = s.freeCtr := rfl
@[simp] theorem putPort_mem (p : Nat) (x : Port) : (putPort s p x).mem = s.mem := rfl
@[simp] theorem putPort_stopes (p : Nat) (x : Port) : (putPort s p x).stopes = s.stopes := rfl
@[simp] theorem putPort_levels (p : Nat) (x : Port) : (putPort s p x).levels = s.levels := rfl
@[simp] theorem putPort_phys (p : Nat) (x : Port) : (putPort s p x).phys = s.phys := rfl
@[simp] theorem putPort_devTallies (p : Nat) (x : Port) : (putPort s p x).devTallies = s.devTallies := rfl
@[simp] theorem putPort_busyAt (p : Nat) (x : Port) : (putPort s p x).busyAt = s.busyAt := rfl
@[simp] theorem putPort_signals (p : Nat) (x : Port) : (putPort s p x).signals = s.signals := rfl
@[simp] theorem putPort_flagsDue (p : Nat) (x : Port) : (putPort s p x).flagsDue = s.flagsDue := rfl
@[simp] theorem putPort_stackTab (p : Nat) (x : Port) : (putPort s p x).stackTab = s.stackTab := rfl
@[simp] theorem putPort_rnd (p : Nat) (x : Port) : (putPort s p x).rnd = s.rnd := rfl
@[simp] theorem putPort_nrg (p : Nat) (x : Port) : (putPort s p x).nrg = s.nrg := rfl
@[simp] theorem putPort_power (p : Nat) (x : Port) : (putPort s p x).power = s.power := rfl
@[simp] theorem putPort_powerNext (p : Nat) (x : Port) : (putPort s p x).powerNext = s.powerNext := rfl
@[simp] theorem putPort_ebb (p : Nat) (x : Port) : (putPort s p x).ebb = s.ebb := rfl
@[simp] theorem putPort_quench (p : Nat) (x : Port) : (putPort s p x).quench = s.quench := rfl
@[simp] theorem putPort_cmds (p : Nat) (x : Port) : (putPort s p x).cmds = s.cmds := rfl
@[simp] theorem putPort_nextOrder (p : Nat) (x : Port) : (putPort s p x).nextOrder = s.nextOrder := rfl
@[simp] theorem putPort_mbx (p : Nat) (x : Port) : (putPort s p x).mbx = s.mbx := rfl
@[simp] theorem putPort_ep (p : Nat) (x : Port) : (putPort s p x).ep = s.ep := rfl
@[simp] theorem putPort_ports (p : Nat) (x : Port) : (putPort s p x).ports = tset s.ports {} p x := rfl
@[simp] theorem putPort_fabId (p : Nat) (x : Port) : (putPort s p x).fabId = s.fabId := rfl
@[simp] theorem putPort_absentRing (p : Nat) (x : Port) : (putPort s p x).absentRing = s.absentRing := rfl
@[simp] theorem putPort_absentCount (p : Nat) (x : Port) : (putPort s p x).absentCount = s.absentCount := rfl
@[simp] theorem putPort_presences (p : Nat) (x : Port) : (putPort s p x).presences = s.presences := rfl
@[simp] theorem putPort_routes (p : Nat) (x : Port) : (putPort s p x).routes = s.routes := rfl
@[simp] theorem putPort_lands (p : Nat) (x : Port) : (putPort s p x).lands = s.lands := rfl
@[simp] theorem putPort_puts (p : Nat) (x : Port) : (putPort s p x).puts = s.puts := rfl
@[simp] theorem putPort_qclass (p : Nat) (x : Port) : (putPort s p x).qclass = s.qclass := rfl
@[simp] theorem putPort_qslots (p : Nat) (x : Port) : (putPort s p x).qslots = s.qslots := rfl
@[simp] theorem putPort_qheld (p : Nat) (x : Port) : (putPort s p x).qheld = s.qheld := rfl
@[simp] theorem putPort_qServed (p : Nat) (x : Port) : (putPort s p x).qServed = s.qServed := rfl
@[simp] theorem putPort_qVoid (p : Nat) (x : Port) : (putPort s p x).qVoid = s.qVoid := rfl
@[simp] theorem putPort_qLate (p : Nat) (x : Port) : (putPort s p x).qLate = s.qLate := rfl
@[simp] theorem putPort_flt (p : Nat) (x : Port) : (putPort s p x).flt = s.flt := rfl
@[simp] theorem putPort_snap (p : Nat) (x : Port) : (putPort s p x).snap = s.snap := rfl
@[simp] theorem putPort_conf (p : Nat) (x : Port) : (putPort s p x).conf = s.conf := rfl
@[simp] theorem putPort_trust (p : Nat) (x : Port) : (putPort s p x).trust = s.trust := rfl
@[simp] theorem putPort_boot (p : Nat) (x : Port) : (putPort s p x).boot = s.boot := rfl
@[simp] theorem putPort_i3c (p : Nat) (x : Port) : (putPort s p x).i3c = s.i3c := rfl
@[simp] theorem putPort_pins (p : Nat) (x : Port) : (putPort s p x).pins = s.pins := rfl
@[simp] theorem putPort_lowHeld (p : Nat) (x : Port) : (putPort s p x).lowHeld = s.lowHeld := rfl
@[simp] theorem putPort_highLatch (p : Nat) (x : Port) : (putPort s p x).highLatch = s.highLatch := rfl
@[simp] theorem putPort_out (p : Nat) (x : Port) : (putPort s p x).out = s.out := rfl

/-! ### After modPort -/

@[simp] theorem modPort_pending (p : Nat) (f : Port → Port) : (modPort s p f).pending = s.pending := rfl
@[simp] theorem modPort_now (p : Nat) (f : Port → Port) : (modPort s p f).now = s.now := rfl
@[simp] theorem modPort_freeCtr (p : Nat) (f : Port → Port) : (modPort s p f).freeCtr = s.freeCtr := rfl
@[simp] theorem modPort_mem (p : Nat) (f : Port → Port) : (modPort s p f).mem = s.mem := rfl
@[simp] theorem modPort_stopes (p : Nat) (f : Port → Port) : (modPort s p f).stopes = s.stopes := rfl
@[simp] theorem modPort_levels (p : Nat) (f : Port → Port) : (modPort s p f).levels = s.levels := rfl
@[simp] theorem modPort_phys (p : Nat) (f : Port → Port) : (modPort s p f).phys = s.phys := rfl
@[simp] theorem modPort_devTallies (p : Nat) (f : Port → Port) : (modPort s p f).devTallies = s.devTallies := rfl
@[simp] theorem modPort_busyAt (p : Nat) (f : Port → Port) : (modPort s p f).busyAt = s.busyAt := rfl
@[simp] theorem modPort_signals (p : Nat) (f : Port → Port) : (modPort s p f).signals = s.signals := rfl
@[simp] theorem modPort_flagsDue (p : Nat) (f : Port → Port) : (modPort s p f).flagsDue = s.flagsDue := rfl
@[simp] theorem modPort_stackTab (p : Nat) (f : Port → Port) : (modPort s p f).stackTab = s.stackTab := rfl
@[simp] theorem modPort_rnd (p : Nat) (f : Port → Port) : (modPort s p f).rnd = s.rnd := rfl
@[simp] theorem modPort_nrg (p : Nat) (f : Port → Port) : (modPort s p f).nrg = s.nrg := rfl
@[simp] theorem modPort_power (p : Nat) (f : Port → Port) : (modPort s p f).power = s.power := rfl
@[simp] theorem modPort_powerNext (p : Nat) (f : Port → Port) : (modPort s p f).powerNext = s.powerNext := rfl
@[simp] theorem modPort_ebb (p : Nat) (f : Port → Port) : (modPort s p f).ebb = s.ebb := rfl
@[simp] theorem modPort_quench (p : Nat) (f : Port → Port) : (modPort s p f).quench = s.quench := rfl
@[simp] theorem modPort_cmds (p : Nat) (f : Port → Port) : (modPort s p f).cmds = s.cmds := rfl
@[simp] theorem modPort_nextOrder (p : Nat) (f : Port → Port) : (modPort s p f).nextOrder = s.nextOrder := rfl
@[simp] theorem modPort_mbx (p : Nat) (f : Port → Port) : (modPort s p f).mbx = s.mbx := rfl
@[simp] theorem modPort_ep (p : Nat) (f : Port → Port) : (modPort s p f).ep = s.ep := rfl
@[simp] theorem modPort_fabId (p : Nat) (f : Port → Port) : (modPort s p f).fabId = s.fabId := rfl
@[simp] theorem modPort_absentRing (p : Nat) (f : Port → Port) : (modPort s p f).absentRing = s.absentRing := rfl
@[simp] theorem modPort_absentCount (p : Nat) (f : Port → Port) : (modPort s p f).absentCount = s.absentCount := rfl
@[simp] theorem modPort_presences (p : Nat) (f : Port → Port) : (modPort s p f).presences = s.presences := rfl
@[simp] theorem modPort_routes (p : Nat) (f : Port → Port) : (modPort s p f).routes = s.routes := rfl
@[simp] theorem modPort_lands (p : Nat) (f : Port → Port) : (modPort s p f).lands = s.lands := rfl
@[simp] theorem modPort_puts (p : Nat) (f : Port → Port) : (modPort s p f).puts = s.puts := rfl
@[simp] theorem modPort_qclass (p : Nat) (f : Port → Port) : (modPort s p f).qclass = s.qclass := rfl
@[simp] theorem modPort_qslots (p : Nat) (f : Port → Port) : (modPort s p f).qslots = s.qslots := rfl
@[simp] theorem modPort_qheld (p : Nat) (f : Port → Port) : (modPort s p f).qheld = s.qheld := rfl
@[simp] theorem modPort_qServed (p : Nat) (f : Port → Port) : (modPort s p f).qServed = s.qServed := rfl
@[simp] theorem modPort_qVoid (p : Nat) (f : Port → Port) : (modPort s p f).qVoid = s.qVoid := rfl
@[simp] theorem modPort_qLate (p : Nat) (f : Port → Port) : (modPort s p f).qLate = s.qLate := rfl
@[simp] theorem modPort_flt (p : Nat) (f : Port → Port) : (modPort s p f).flt = s.flt := rfl
@[simp] theorem modPort_snap (p : Nat) (f : Port → Port) : (modPort s p f).snap = s.snap := rfl
@[simp] theorem modPort_conf (p : Nat) (f : Port → Port) : (modPort s p f).conf = s.conf := rfl
@[simp] theorem modPort_trust (p : Nat) (f : Port → Port) : (modPort s p f).trust = s.trust := rfl
@[simp] theorem modPort_boot (p : Nat) (f : Port → Port) : (modPort s p f).boot = s.boot := rfl
@[simp] theorem modPort_i3c (p : Nat) (f : Port → Port) : (modPort s p f).i3c = s.i3c := rfl
@[simp] theorem modPort_pins (p : Nat) (f : Port → Port) : (modPort s p f).pins = s.pins := rfl
@[simp] theorem modPort_lowHeld (p : Nat) (f : Port → Port) : (modPort s p f).lowHeld = s.lowHeld := rfl
@[simp] theorem modPort_highLatch (p : Nat) (f : Port → Port) : (modPort s p f).highLatch = s.highLatch := rfl
@[simp] theorem modPort_out (p : Nat) (f : Port → Port) : (modPort s p f).out = s.out := rfl

/-! ### After putCmd -/

@[simp] theorem putCmd_pending (c : Cmd) : (putCmd s c).pending = s.pending := rfl
@[simp] theorem putCmd_now (c : Cmd) : (putCmd s c).now = s.now := rfl
@[simp] theorem putCmd_freeCtr (c : Cmd) : (putCmd s c).freeCtr = s.freeCtr := rfl
@[simp] theorem putCmd_mem (c : Cmd) : (putCmd s c).mem = s.mem := rfl
@[simp] theorem putCmd_stopes (c : Cmd) : (putCmd s c).stopes = s.stopes := rfl
@[simp] theorem putCmd_levels (c : Cmd) : (putCmd s c).levels = s.levels := rfl
@[simp] theorem putCmd_phys (c : Cmd) : (putCmd s c).phys = s.phys := rfl
@[simp] theorem putCmd_devTallies (c : Cmd) : (putCmd s c).devTallies = s.devTallies := rfl
@[simp] theorem putCmd_busyAt (c : Cmd) : (putCmd s c).busyAt = s.busyAt := rfl
@[simp] theorem putCmd_signals (c : Cmd) : (putCmd s c).signals = s.signals := rfl
@[simp] theorem putCmd_flagsDue (c : Cmd) : (putCmd s c).flagsDue = s.flagsDue := rfl
@[simp] theorem putCmd_stackTab (c : Cmd) : (putCmd s c).stackTab = s.stackTab := rfl
@[simp] theorem putCmd_rnd (c : Cmd) : (putCmd s c).rnd = s.rnd := rfl
@[simp] theorem putCmd_nrg (c : Cmd) : (putCmd s c).nrg = s.nrg := rfl
@[simp] theorem putCmd_power (c : Cmd) : (putCmd s c).power = s.power := rfl
@[simp] theorem putCmd_powerNext (c : Cmd) : (putCmd s c).powerNext = s.powerNext := rfl
@[simp] theorem putCmd_ebb (c : Cmd) : (putCmd s c).ebb = s.ebb := rfl
@[simp] theorem putCmd_quench (c : Cmd) : (putCmd s c).quench = s.quench := rfl
@[simp] theorem putCmd_cmds (c : Cmd) : (putCmd s c).cmds = s.cmds.map (fun d => if d.order = c.order then c else d) := rfl
@[simp] theorem putCmd_nextOrder (c : Cmd) : (putCmd s c).nextOrder = s.nextOrder := rfl
@[simp] theorem putCmd_mbx (c : Cmd) : (putCmd s c).mbx = s.mbx := rfl
@[simp] theorem putCmd_ep (c : Cmd) : (putCmd s c).ep = s.ep := rfl
@[simp] theorem putCmd_ports (c : Cmd) : (putCmd s c).ports = s.ports := rfl
@[simp] theorem putCmd_fabId (c : Cmd) : (putCmd s c).fabId = s.fabId := rfl
@[simp] theorem putCmd_absentRing (c : Cmd) : (putCmd s c).absentRing = s.absentRing := rfl
@[simp] theorem putCmd_absentCount (c : Cmd) : (putCmd s c).absentCount = s.absentCount := rfl
@[simp] theorem putCmd_presences (c : Cmd) : (putCmd s c).presences = s.presences := rfl
@[simp] theorem putCmd_routes (c : Cmd) : (putCmd s c).routes = s.routes := rfl
@[simp] theorem putCmd_lands (c : Cmd) : (putCmd s c).lands = s.lands := rfl
@[simp] theorem putCmd_puts (c : Cmd) : (putCmd s c).puts = s.puts := rfl
@[simp] theorem putCmd_qclass (c : Cmd) : (putCmd s c).qclass = s.qclass := rfl
@[simp] theorem putCmd_qslots (c : Cmd) : (putCmd s c).qslots = s.qslots := rfl
@[simp] theorem putCmd_qheld (c : Cmd) : (putCmd s c).qheld = s.qheld := rfl
@[simp] theorem putCmd_qServed (c : Cmd) : (putCmd s c).qServed = s.qServed := rfl
@[simp] theorem putCmd_qVoid (c : Cmd) : (putCmd s c).qVoid = s.qVoid := rfl
@[simp] theorem putCmd_qLate (c : Cmd) : (putCmd s c).qLate = s.qLate := rfl
@[simp] theorem putCmd_flt (c : Cmd) : (putCmd s c).flt = s.flt := rfl
@[simp] theorem putCmd_snap (c : Cmd) : (putCmd s c).snap = s.snap := rfl
@[simp] theorem putCmd_conf (c : Cmd) : (putCmd s c).conf = s.conf := rfl
@[simp] theorem putCmd_trust (c : Cmd) : (putCmd s c).trust = s.trust := rfl
@[simp] theorem putCmd_boot (c : Cmd) : (putCmd s c).boot = s.boot := rfl
@[simp] theorem putCmd_i3c (c : Cmd) : (putCmd s c).i3c = s.i3c := rfl
@[simp] theorem putCmd_pins (c : Cmd) : (putCmd s c).pins = s.pins := rfl
@[simp] theorem putCmd_lowHeld (c : Cmd) : (putCmd s c).lowHeld = s.lowHeld := rfl
@[simp] theorem putCmd_highLatch (c : Cmd) : (putCmd s c).highLatch = s.highLatch := rfl
@[simp] theorem putCmd_out (c : Cmd) : (putCmd s c).out = s.out := rfl

/-! ### After useFree -/

@[simp] theorem useFree_pending (n : Nat) : (useFree s n).pending = s.pending := rfl
@[simp] theorem useFree_now (n : Nat) : (useFree s n).now = s.now := rfl
@[simp] theorem useFree_freeCtr (n : Nat) : (useFree s n).freeCtr = s.freeCtr + n := rfl
@[simp] theorem useFree_mem (n : Nat) : (useFree s n).mem = s.mem := rfl
@[simp] theorem useFree_stopes (n : Nat) : (useFree s n).stopes = s.stopes := rfl
@[simp] theorem useFree_levels (n : Nat) : (useFree s n).levels = s.levels := rfl
@[simp] theorem useFree_phys (n : Nat) : (useFree s n).phys = s.phys := rfl
@[simp] theorem useFree_devTallies (n : Nat) : (useFree s n).devTallies = s.devTallies := rfl
@[simp] theorem useFree_busyAt (n : Nat) : (useFree s n).busyAt = s.busyAt := rfl
@[simp] theorem useFree_signals (n : Nat) : (useFree s n).signals = s.signals := rfl
@[simp] theorem useFree_flagsDue (n : Nat) : (useFree s n).flagsDue = s.flagsDue := rfl
@[simp] theorem useFree_stackTab (n : Nat) : (useFree s n).stackTab = s.stackTab := rfl
@[simp] theorem useFree_rnd (n : Nat) : (useFree s n).rnd = s.rnd := rfl
@[simp] theorem useFree_nrg (n : Nat) : (useFree s n).nrg = s.nrg := rfl
@[simp] theorem useFree_power (n : Nat) : (useFree s n).power = s.power := rfl
@[simp] theorem useFree_powerNext (n : Nat) : (useFree s n).powerNext = s.powerNext := rfl
@[simp] theorem useFree_ebb (n : Nat) : (useFree s n).ebb = s.ebb := rfl
@[simp] theorem useFree_quench (n : Nat) : (useFree s n).quench = s.quench := rfl
@[simp] theorem useFree_cmds (n : Nat) : (useFree s n).cmds = s.cmds := rfl
@[simp] theorem useFree_nextOrder (n : Nat) : (useFree s n).nextOrder = s.nextOrder := rfl
@[simp] theorem useFree_mbx (n : Nat) : (useFree s n).mbx = s.mbx := rfl
@[simp] theorem useFree_ep (n : Nat) : (useFree s n).ep = s.ep := rfl
@[simp] theorem useFree_ports (n : Nat) : (useFree s n).ports = s.ports := rfl
@[simp] theorem useFree_fabId (n : Nat) : (useFree s n).fabId = s.fabId := rfl
@[simp] theorem useFree_absentRing (n : Nat) : (useFree s n).absentRing = s.absentRing := rfl
@[simp] theorem useFree_absentCount (n : Nat) : (useFree s n).absentCount = s.absentCount := rfl
@[simp] theorem useFree_presences (n : Nat) : (useFree s n).presences = s.presences := rfl
@[simp] theorem useFree_routes (n : Nat) : (useFree s n).routes = s.routes := rfl
@[simp] theorem useFree_lands (n : Nat) : (useFree s n).lands = s.lands := rfl
@[simp] theorem useFree_puts (n : Nat) : (useFree s n).puts = s.puts := rfl
@[simp] theorem useFree_qclass (n : Nat) : (useFree s n).qclass = s.qclass := rfl
@[simp] theorem useFree_qslots (n : Nat) : (useFree s n).qslots = s.qslots := rfl
@[simp] theorem useFree_qheld (n : Nat) : (useFree s n).qheld = s.qheld := rfl
@[simp] theorem useFree_qServed (n : Nat) : (useFree s n).qServed = s.qServed := rfl
@[simp] theorem useFree_qVoid (n : Nat) : (useFree s n).qVoid = s.qVoid := rfl
@[simp] theorem useFree_qLate (n : Nat) : (useFree s n).qLate = s.qLate := rfl
@[simp] theorem useFree_flt (n : Nat) : (useFree s n).flt = s.flt := rfl
@[simp] theorem useFree_snap (n : Nat) : (useFree s n).snap = s.snap := rfl
@[simp] theorem useFree_conf (n : Nat) : (useFree s n).conf = s.conf := rfl
@[simp] theorem useFree_trust (n : Nat) : (useFree s n).trust = s.trust := rfl
@[simp] theorem useFree_boot (n : Nat) : (useFree s n).boot = s.boot := rfl
@[simp] theorem useFree_i3c (n : Nat) : (useFree s n).i3c = s.i3c := rfl
@[simp] theorem useFree_pins (n : Nat) : (useFree s n).pins = s.pins := rfl
@[simp] theorem useFree_lowHeld (n : Nat) : (useFree s n).lowHeld = s.lowHeld := rfl
@[simp] theorem useFree_highLatch (n : Nat) : (useFree s n).highLatch = s.highLatch := rfl
@[simp] theorem useFree_out (n : Nat) : (useFree s n).out = s.out := rfl

/-! ### After emit -/

@[simp] theorem emit_pending (o : Out) : (emit s o).pending = s.pending := rfl
@[simp] theorem emit_now (o : Out) : (emit s o).now = s.now := rfl
@[simp] theorem emit_freeCtr (o : Out) : (emit s o).freeCtr = s.freeCtr := rfl
@[simp] theorem emit_mem (o : Out) : (emit s o).mem = s.mem := rfl
@[simp] theorem emit_stopes (o : Out) : (emit s o).stopes = s.stopes := rfl
@[simp] theorem emit_levels (o : Out) : (emit s o).levels = s.levels := rfl
@[simp] theorem emit_phys (o : Out) : (emit s o).phys = s.phys := rfl
@[simp] theorem emit_devTallies (o : Out) : (emit s o).devTallies = s.devTallies := rfl
@[simp] theorem emit_busyAt (o : Out) : (emit s o).busyAt = s.busyAt := rfl
@[simp] theorem emit_signals (o : Out) : (emit s o).signals = s.signals := rfl
@[simp] theorem emit_flagsDue (o : Out) : (emit s o).flagsDue = s.flagsDue := rfl
@[simp] theorem emit_stackTab (o : Out) : (emit s o).stackTab = s.stackTab := rfl
@[simp] theorem emit_rnd (o : Out) : (emit s o).rnd = s.rnd := rfl
@[simp] theorem emit_nrg (o : Out) : (emit s o).nrg = s.nrg := rfl
@[simp] theorem emit_power (o : Out) : (emit s o).power = s.power := rfl
@[simp] theorem emit_powerNext (o : Out) : (emit s o).powerNext = s.powerNext := rfl
@[simp] theorem emit_ebb (o : Out) : (emit s o).ebb = s.ebb := rfl
@[simp] theorem emit_quench (o : Out) : (emit s o).quench = s.quench := rfl
@[simp] theorem emit_cmds (o : Out) : (emit s o).cmds = s.cmds := rfl
@[simp] theorem emit_nextOrder (o : Out) : (emit s o).nextOrder = s.nextOrder := rfl
@[simp] theorem emit_mbx (o : Out) : (emit s o).mbx = s.mbx := rfl
@[simp] theorem emit_ep (o : Out) : (emit s o).ep = s.ep := rfl
@[simp] theorem emit_ports (o : Out) : (emit s o).ports = s.ports := rfl
@[simp] theorem emit_fabId (o : Out) : (emit s o).fabId = s.fabId := rfl
@[simp] theorem emit_absentRing (o : Out) : (emit s o).absentRing = s.absentRing := rfl
@[simp] theorem emit_absentCount (o : Out) : (emit s o).absentCount = s.absentCount := rfl
@[simp] theorem emit_presences (o : Out) : (emit s o).presences = s.presences := rfl
@[simp] theorem emit_routes (o : Out) : (emit s o).routes = s.routes := rfl
@[simp] theorem emit_lands (o : Out) : (emit s o).lands = s.lands := rfl
@[simp] theorem emit_puts (o : Out) : (emit s o).puts = s.puts := rfl
@[simp] theorem emit_qclass (o : Out) : (emit s o).qclass = s.qclass := rfl
@[simp] theorem emit_qslots (o : Out) : (emit s o).qslots = s.qslots := rfl
@[simp] theorem emit_qheld (o : Out) : (emit s o).qheld = s.qheld := rfl
@[simp] theorem emit_qServed (o : Out) : (emit s o).qServed = s.qServed := rfl
@[simp] theorem emit_qVoid (o : Out) : (emit s o).qVoid = s.qVoid := rfl
@[simp] theorem emit_qLate (o : Out) : (emit s o).qLate = s.qLate := rfl
@[simp] theorem emit_flt (o : Out) : (emit s o).flt = s.flt := rfl
@[simp] theorem emit_snap (o : Out) : (emit s o).snap = s.snap := rfl
@[simp] theorem emit_conf (o : Out) : (emit s o).conf = s.conf := rfl
@[simp] theorem emit_trust (o : Out) : (emit s o).trust = s.trust := rfl
@[simp] theorem emit_boot (o : Out) : (emit s o).boot = s.boot := rfl
@[simp] theorem emit_i3c (o : Out) : (emit s o).i3c = s.i3c := rfl
@[simp] theorem emit_pins (o : Out) : (emit s o).pins = s.pins := rfl
@[simp] theorem emit_lowHeld (o : Out) : (emit s o).lowHeld = s.lowHeld := rfl
@[simp] theorem emit_highLatch (o : Out) : (emit s o).highLatch = s.highLatch := rfl
@[simp] theorem emit_out (o : Out) : (emit s o).out = o :: s.out := rfl

/-! ### After writeCells -/

@[simp] theorem writeCells_pending (cs : List Host.Cell) : (writeCells s cs).pending = s.pending := rfl
@[simp] theorem writeCells_now (cs : List Host.Cell) : (writeCells s cs).now = s.now := rfl
@[simp] theorem writeCells_freeCtr (cs : List Host.Cell) : (writeCells s cs).freeCtr = s.freeCtr := rfl
@[simp] theorem writeCells_mem (cs : List Host.Cell) : (writeCells s cs).mem = cellsPut s.mem cs := rfl
@[simp] theorem writeCells_stopes (cs : List Host.Cell) : (writeCells s cs).stopes = s.stopes := rfl
@[simp] theorem writeCells_levels (cs : List Host.Cell) : (writeCells s cs).levels = s.levels := rfl
@[simp] theorem writeCells_phys (cs : List Host.Cell) : (writeCells s cs).phys = s.phys := rfl
@[simp] theorem writeCells_devTallies (cs : List Host.Cell) : (writeCells s cs).devTallies = s.devTallies := rfl
@[simp] theorem writeCells_busyAt (cs : List Host.Cell) : (writeCells s cs).busyAt = s.busyAt := rfl
@[simp] theorem writeCells_signals (cs : List Host.Cell) : (writeCells s cs).signals = s.signals := rfl
@[simp] theorem writeCells_flagsDue (cs : List Host.Cell) : (writeCells s cs).flagsDue = s.flagsDue := rfl
@[simp] theorem writeCells_stackTab (cs : List Host.Cell) : (writeCells s cs).stackTab = s.stackTab := rfl
@[simp] theorem writeCells_rnd (cs : List Host.Cell) : (writeCells s cs).rnd = s.rnd := rfl
@[simp] theorem writeCells_nrg (cs : List Host.Cell) : (writeCells s cs).nrg = s.nrg := rfl
@[simp] theorem writeCells_power (cs : List Host.Cell) : (writeCells s cs).power = s.power := rfl
@[simp] theorem writeCells_powerNext (cs : List Host.Cell) : (writeCells s cs).powerNext = s.powerNext := rfl
@[simp] theorem writeCells_ebb (cs : List Host.Cell) : (writeCells s cs).ebb = s.ebb := rfl
@[simp] theorem writeCells_quench (cs : List Host.Cell) : (writeCells s cs).quench = s.quench := rfl
@[simp] theorem writeCells_cmds (cs : List Host.Cell) : (writeCells s cs).cmds = s.cmds := rfl
@[simp] theorem writeCells_nextOrder (cs : List Host.Cell) : (writeCells s cs).nextOrder = s.nextOrder := rfl
@[simp] theorem writeCells_mbx (cs : List Host.Cell) : (writeCells s cs).mbx = s.mbx := rfl
@[simp] theorem writeCells_ep (cs : List Host.Cell) : (writeCells s cs).ep = s.ep := rfl
@[simp] theorem writeCells_ports (cs : List Host.Cell) : (writeCells s cs).ports = s.ports := rfl
@[simp] theorem writeCells_fabId (cs : List Host.Cell) : (writeCells s cs).fabId = s.fabId := rfl
@[simp] theorem writeCells_absentRing (cs : List Host.Cell) : (writeCells s cs).absentRing = s.absentRing := rfl
@[simp] theorem writeCells_absentCount (cs : List Host.Cell) : (writeCells s cs).absentCount = s.absentCount := rfl
@[simp] theorem writeCells_presences (cs : List Host.Cell) : (writeCells s cs).presences = s.presences := rfl
@[simp] theorem writeCells_routes (cs : List Host.Cell) : (writeCells s cs).routes = s.routes := rfl
@[simp] theorem writeCells_lands (cs : List Host.Cell) : (writeCells s cs).lands = s.lands := rfl
@[simp] theorem writeCells_puts (cs : List Host.Cell) : (writeCells s cs).puts = s.puts := rfl
@[simp] theorem writeCells_qclass (cs : List Host.Cell) : (writeCells s cs).qclass = s.qclass := rfl
@[simp] theorem writeCells_qslots (cs : List Host.Cell) : (writeCells s cs).qslots = s.qslots := rfl
@[simp] theorem writeCells_qheld (cs : List Host.Cell) : (writeCells s cs).qheld = s.qheld := rfl
@[simp] theorem writeCells_qServed (cs : List Host.Cell) : (writeCells s cs).qServed = s.qServed := rfl
@[simp] theorem writeCells_qVoid (cs : List Host.Cell) : (writeCells s cs).qVoid = s.qVoid := rfl
@[simp] theorem writeCells_qLate (cs : List Host.Cell) : (writeCells s cs).qLate = s.qLate := rfl
@[simp] theorem writeCells_flt (cs : List Host.Cell) : (writeCells s cs).flt = s.flt := rfl
@[simp] theorem writeCells_snap (cs : List Host.Cell) : (writeCells s cs).snap = s.snap := rfl
@[simp] theorem writeCells_conf (cs : List Host.Cell) : (writeCells s cs).conf = s.conf := rfl
@[simp] theorem writeCells_trust (cs : List Host.Cell) : (writeCells s cs).trust = s.trust := rfl
@[simp] theorem writeCells_boot (cs : List Host.Cell) : (writeCells s cs).boot = s.boot := rfl
@[simp] theorem writeCells_i3c (cs : List Host.Cell) : (writeCells s cs).i3c = s.i3c := rfl
@[simp] theorem writeCells_pins (cs : List Host.Cell) : (writeCells s cs).pins = s.pins := rfl
@[simp] theorem writeCells_lowHeld (cs : List Host.Cell) : (writeCells s cs).lowHeld = s.lowHeld := rfl
@[simp] theorem writeCells_highLatch (cs : List Host.Cell) : (writeCells s cs).highLatch = s.highLatch := rfl
@[simp] theorem writeCells_out (cs : List Host.Cell) : (writeCells s cs).out = s.out := rfl

/-! ### After time has passed -/

@[simp] theorem passTo_now (t : Nat) : (passTo s t).now = t := rfl
theorem advance_of_lt (t : Nat) (h : s.now < t) : advance s t = passTo s t := by simp [advance, h]
theorem advance_of_le (t : Nat) (h : t ≤ s.now) : advance s t = s := by simp [advance, Nat.not_lt.mpr h]
theorem advance_now (t : Nat) : (advance s t).now = max s.now t := by
  by_cases h : s.now < t
  · rw [advance_of_lt s t h, passTo_now]; omega
  · rw [advance_of_le s t (by omega)]; omega

end Sys2Proof.Machine
end

