-- ==== Sys2Proof/Laws/Keeps.lean ====
section
/-! SUPPORT. What the shared operations keep: the queue of waiting commands, and the canonical form of memory. -/

set_option linter.unusedSimpArgs false
set_option linter.unusedVariables false

namespace Sys2Proof.Machine

/-- From s to t the queue stands, and memory that was canonical still is. -/
def Keeps (s t : State) : Prop := t.pending = s.pending ∧ (memWf s.mem = true → memWf t.mem = true)

theorem Keeps.refl (s : State) : Keeps s s := ⟨rfl, id⟩

theorem Keeps.trans {s t u : State} (h : Keeps s t) (k : Keeps t u) : Keeps s u := ⟨k.1.trans h.1, fun w => k.2 (h.2 w)⟩

theorem Keeps.cells {s t : State} (h : Keeps s t) {u : State} (hp : u.pending = t.pending)
    (hm : memWf t.mem = true → memWf u.mem = true) : Keeps s u := ⟨hp.trans h.1, fun w => hm (h.2 w)⟩

theorem Keeps.ite {s a b : State} {c : Prop} [Decidable c] (ha : c → Keeps s a) (hb : ¬c → Keeps s b) :
    Keeps s (if c then a else b) := by split <;> rename_i h <;> first | exact ha h | exact hb h

theorem Keeps.foldl {α : Type} {s t : State} {l : List α} {f : State → α → State} (h : Keeps s t)
    (hf : ∀ u x, Keeps s u → Keeps s (f u x)) : Keeps s (l.foldl f t) := by
  induction l generalizing t with
  | nil => exact h
  | cons x l ih => exact ih (hf t x h)

/-- The same of a queue and a memory alone. -/
def KeepsPM (s : State) (q : List Instr) (m : List Host.Cell) : Prop := q = s.pending ∧ (memWf s.mem = true → memWf m = true)

theorem KeepsPM.of {s t : State} (h : Keeps s t) : KeepsPM s t.pending t.mem := h

theorem keeps_mk (s : State) (pending : List Instr) (now : Nat) (freeCtr : Nat) (mem : List Host.Cell) (stopes : Tab Stope)
    (levels : Tab Level) (phys : Tab Phys) (devTallies : Tab Tally) (busyAt : Nat) (signals : List Signal) (flagsDue : List (Scope ×
    Nat × Nat)) (stackTab : Tab Stack) (rnd : Round) (nrg : Ledger) (power : Power) (powerNext : Option (Power × Nat)) (ebb : Bool)
    (quench : Bool) (cmds : List Cmd) (nextOrder : Nat) (mbx : Tab Mbx) (ep : Endpoint) (ports : Tab Port) (fabId : Nat) (absentRing :
    Tab Word32) (absentCount : Nat) (presences : Nat) (routes : Tab Word32) (lands : Tab Land) (puts : List (Nat × Nat)) (qclass : Tab
    Word32) (qslots : Tab QSlot) (qheld : Tab Bool) (qServed : Nat) (qVoid : Tab Nat) (qLate : Nat) (flt : Faults) (snap : Snap) (conf
    : Conf) (trust : Trust) (boot : Boot) (i3c : I3c) (pins : Pins) (lowHeld : Tab Word32) (highLatch : Tab Word32) (out : List Out) :
    Keeps s (State.mk pending now freeCtr mem stopes levels phys devTallies busyAt signals flagsDue stackTab rnd nrg power powerNext
    ebb quench cmds nextOrder mbx ep ports fabId absentRing absentCount presences routes lands puts qclass qslots qheld qServed qVoid
    qLate flt snap conf trust boot i3c pins lowHeld highLatch out) ↔ KeepsPM s pending mem := ⟨fun h => h, fun h => h⟩

/-- An answer that is a next state which keeps, by cases of the conditions it stands under. -/
theorem Keeps.answerIte {s : State} {c : Prop} [Decidable c] {x y : Answer} (hx : ∃ t, x = .next t ∧ Keeps s t)
    (hy : ∃ t, y = .next t ∧ Keeps s t) : ∃ t, (if c then x else y) = .next t ∧ Keeps s t := by split <;> assumption

theorem Keeps.answerNext {s t : State} (h : Keeps s t) : ∃ u, (Host.Outcome.next t : Answer) = .next u ∧ Keeps s u := ⟨t, rfl, h⟩

theorem Keeps.pair {α : Type} {s t : State} {n : α} (h : Keeps s t) : Keeps s (n, t).2 := h

theorem Keeps.foldl1 {α β : Type} {s : State} {t : State × β} {l : List α} {f : State × β → α → State × β} (h : Keeps s t.1)
    (hf : ∀ u x, Keeps s u.1 → Keeps s (f u x).1) : Keeps s (l.foldl f t).1 := by
  induction l generalizing t with
  | nil => exact h
  | cons x l ih => exact ih (hf t x h)

/-- What the body of an issue answers keeps. -/
def ResKeeps (s : State) : IssueRes → Prop
  | .trap .. => True
  | .trapOpen _ => True
  | .held => True
  | .trapAfter u _ => Keeps s u
  | .trapWith u _ _ => Keeps s u
  | .done u _ => Keeps s u

theorem ResKeeps.trap {s : State} (a b : Nat) : ResKeeps s (.trap a b) := trivial
theorem ResKeeps.trapOpen {s : State} (a : Nat) : ResKeeps s (.trapOpen a) := trivial
theorem ResKeeps.held {s : State} : ResKeeps s .held := trivial
theorem ResKeeps.trapAfter {s u : State} {a : Nat} (h : Keeps s u) : ResKeeps s (.trapAfter u a) := h
theorem ResKeeps.trapWith {s u : State} {a b : Nat} (h : Keeps s u) : ResKeeps s (.trapWith u a b) := h
theorem ResKeeps.done {s u : State} {f : Flow} (h : Keeps s u) : ResKeeps s (.done u f) := h
theorem ResKeeps.ite {s : State} {a b : IssueRes} {c : Prop} [Decidable c] (ha : c → ResKeeps s a) (hb : ¬c → ResKeeps s b) :
    ResKeeps s (if c then a else b) := by split <;> rename_i h <;> first | exact ha h | exact hb h

/-! ### Ops -/

theorem putStope_keeps {s₀ s : State} (h₀ : Keeps s₀ s) (st : Nat) (x : Stope) : Keeps s₀ (putStope s st x) := by
  unfold putStope
  repeat' first
    | with_reducible assumption | (simp only [keeps_mk]; with_reducible apply KeepsPM.of) | dsimp only

theorem modStope_keeps {s₀ s : State} (h₀ : Keeps s₀ s) (st : Nat) (f : Stope → Stope) : Keeps s₀ (modStope s st f) := by
  unfold modStope
  repeat' first
    | with_reducible assumption | with_reducible apply putStope_keeps | dsimp only

theorem modCrew_keeps {s₀ s : State} (h₀ : Keeps s₀ s) (st : Nat) (ag : Nat) (f : Crew → Crew) :
    Keeps s₀ (modCrew s st ag f) := by
  unfold modCrew
  repeat' first
    | with_reducible assumption | with_reducible apply modStope_keeps | intro _ | dsimp only

theorem putLevel_keeps {s₀ s : State} (h₀ : Keeps s₀ s) (n : Nat) (x : Level) : Keeps s₀ (putLevel s n x) := by
  unfold putLevel
  repeat' first
    | with_reducible assumption | (simp only [keeps_mk]; with_reducible apply KeepsPM.of) | dsimp only

theorem modLevel_keeps {s₀ s : State} (h₀ : Keeps s₀ s) (n : Nat) (f : Level → Level) : Keeps s₀ (modLevel s n f) := by
  unfold modLevel
  repeat' first
    | with_reducible assumption | with_reducible apply putLevel_keeps | dsimp only

theorem modHoist_keeps {s₀ s : State} (h₀ : Keeps s₀ s) (n : Nat) (f : Hoist → Hoist) : Keeps s₀ (modHoist s n f) := by
  unfold modHoist
  repeat' first
    | with_reducible assumption | with_reducible apply modLevel_keeps
    | (simp only [keeps_mk]; with_reducible apply KeepsPM.of) | intro _ | dsimp only

theorem putPhys_keeps {s₀ s : State} (h₀ : Keeps s₀ s) (p : Nat) (x : Phys) : Keeps s₀ (putPhys s p x) := by
  unfold putPhys
  repeat' first
    | with_reducible assumption | (simp only [keeps_mk]; with_reducible apply KeepsPM.of) | dsimp only

theorem modPhys_keeps {s₀ s : State} (h₀ : Keeps s₀ s) (p : Nat) (f : Phys → Phys) : Keeps s₀ (modPhys s p f) := by
  unfold modPhys
  repeat' first
    | with_reducible assumption | with_reducible apply putPhys_keeps | dsimp only

theorem modStack_keeps {s₀ s : State} (h₀ : Keeps s₀ s) (k : Nat) (f : Stack → Stack) : Keeps s₀ (modStack s k f) := by
  unfold modStack
  repeat' first
    | with_reducible assumption | (simp only [keeps_mk]; with_reducible apply KeepsPM.of) | dsimp only

theorem putMbx_keeps {s₀ s : State} (h₀ : Keeps s₀ s) (m : Nat) (x : Mbx) : Keeps s₀ (putMbx s m x) := by
  unfold putMbx
  repeat' first
    | with_reducible assumption | (simp only [keeps_mk]; with_reducible apply KeepsPM.of) | dsimp only

theorem modMbx_keeps {s₀ s : State} (h₀ : Keeps s₀ s) (m : Nat) (f : Mbx → Mbx) : Keeps s₀ (modMbx s m f) := by
  unfold modMbx
  repeat' first
    | with_reducible assumption | with_reducible apply putMbx_keeps | dsimp only

theorem putPort_keeps {s₀ s : State} (h₀ : Keeps s₀ s) (p : Nat) (x : Port) : Keeps s₀ (putPort s p x) := by
  unfold putPort
  repeat' first
    | with_reducible assumption | (simp only [keeps_mk]; with_reducible apply KeepsPM.of) | dsimp only

theorem modPort_keeps {s₀ s : State} (h₀ : Keeps s₀ s) (p : Nat) (f : Port → Port) : Keeps s₀ (modPort s p f) := by
  unfold modPort
  repeat' first
    | with_reducible assumption | with_reducible apply putPort_keeps | dsimp only

theorem useFree_keeps {s₀ s : State} (h₀ : Keeps s₀ s) (n : Nat) : Keeps s₀ (useFree s n) := by
  unfold useFree
  repeat' first
    | with_reducible assumption | (simp only [keeps_mk]; with_reducible apply KeepsPM.of) | dsimp only

theorem emit_keeps {s₀ s : State} (h₀ : Keeps s₀ s) (o : Out) : Keeps s₀ (emit s o) := by
  unfold emit
  repeat' first
    | with_reducible assumption | (simp only [keeps_mk]; with_reducible apply KeepsPM.of) | dsimp only

theorem writeCells_keeps {s₀ s : State} (h₀ : Keeps s₀ s) (cs : List Host.Cell) : Keeps s₀ (writeCells s cs) :=
  h₀.cells rfl (memWf_cellsPut cs)

theorem writeBytes_keeps {s₀ s : State} (h₀ : Keeps s₀ s) (pa : Nat) (bs : List Byte) : Keeps s₀ (writeBytes s pa bs) := by
  unfold writeBytes
  repeat' first
    | with_reducible assumption | with_reducible apply writeCells_keeps | intro _ | dsimp only

theorem putSideEntry_keeps {s₀ s : State} (h₀ : Keeps s₀ s) (pa : Nat) (e : Word64) : Keeps s₀ (putSideEntry s pa e) := by
  unfold putSideEntry
  try dsimp only
  repeat' first
    | with_reducible assumption | with_reducible apply modStope_keeps | with_reducible apply writeCells_keeps
    | (simp only [keeps_mk]; with_reducible apply KeepsPM.of) | intro _ | dsimp only | split

theorem clearPresent_keeps {s₀ s : State} (h₀ : Keeps s₀ s) (pa : Nat) : Keeps s₀ (clearPresent s pa) := by
  unfold clearPresent
  repeat' first
    | with_reducible assumption | with_reducible apply putSideEntry_keeps | dsimp only

theorem raiseEvent_keeps {s₀ s : State} (h₀ : Keeps s₀ s) (st : Nat) (e : Event) : Keeps s₀ (raiseEvent s st e) := by
  unfold raiseEvent
  repeat' first
    | with_reducible assumption | with_reducible apply modStope_keeps | intro _ | dsimp only

theorem xferEvent_keeps {s₀ s : State} (h₀ : Keeps s₀ s) (st : Nat) (cr : Nat) (code : Nat) (arg : Nat) (extra : Nat) (tag : Nat) (epoch : Nat) :
    Keeps s₀ (xferEvent s st cr code arg extra tag epoch) := by
  unfold xferEvent
  repeat' first
    | with_reducible assumption | with_reducible apply raiseEvent_keeps
    | (simp only [keeps_mk]; with_reducible apply KeepsPM.of) | dsimp only

theorem markEnd_keeps {s₀ s : State} (h₀ : Keeps s₀ s) (tag : Nat) (epoch : Nat) (code : Nat) :
    Keeps s₀ (markEnd s tag epoch code) := by
  unfold markEnd
  repeat' first
    | with_reducible assumption | with_reducible apply Keeps.ite | (simp only [keeps_mk]; with_reducible apply KeepsPM.of)
    | intro _ | dsimp only | split

theorem faultEvent_keeps {s₀ s : State} (h₀ : Keeps s₀ s) (st : Nat) (cr : Nat) (code : Nat) (arg : Nat) (extra : Nat) (tag : Nat) (epoch : Nat) :
    Keeps s₀ (faultEvent s st cr code arg extra tag epoch) := by
  unfold faultEvent
  try dsimp only
  repeat' first
    | with_reducible assumption | with_reducible apply Keeps.ite | with_reducible apply markEnd_keeps
    | with_reducible apply xferEvent_keeps | intro _ | dsimp only | split

theorem traceRec_keeps {s₀ s : State} (h₀ : Keeps s₀ s) (st : Nat) (code : Nat) (tag : Nat) (epoch : Nat) (agent : Nat) (arg : Nat) :
    Keeps s₀ (traceRec s st code tag epoch agent arg) := by
  unfold traceRec
  try dsimp only
  repeat' first
    | with_reducible assumption | with_reducible apply Keeps.ite | with_reducible apply putStope_keeps
    | with_reducible apply writeCells_keeps | (simp only [keeps_mk]; with_reducible apply KeepsPM.of) | intro _ | dsimp only
    | split

/-! ### Link -/

theorem sendFlit_keeps {s₀ s : State} (h₀ : Keeps s₀ s) (p : Nat) (q : QItem) (turn : Nat) : Keeps s₀ (sendFlit s p q turn) := by
  unfold sendFlit
  try dsimp only
  repeat' first
    | with_reducible assumption | with_reducible apply Keeps.ite | with_reducible apply modPort_keeps
    | with_reducible apply emit_keeps | (simp only [keeps_mk]; with_reducible apply KeepsPM.of) | intro _ | dsimp only | split

theorem pump_keeps {s₀ s : State} (h₀ : Keeps s₀ s) (n p : Nat) : Keeps s₀ (pump n s p) := by
  induction n generalizing s with
  | zero => exact h₀
  | succ n ih =>
    unfold pump
    dsimp only
    split
    · split
      · exact ih (sendFlit_keeps h₀ _ _ _)
      · exact h₀
    · exact h₀

theorem sendOn_keeps {s₀ s : State} (h₀ : Keeps s₀ s) (p : Nat) : Keeps s₀ (sendOn s p) := by
  unfold sendOn
  repeat' first
    | with_reducible assumption | with_reducible apply pump_keeps | dsimp only

theorem queueItem_keeps {s₀ s : State} (h₀ : Keeps s₀ s) (p : Nat) (q : QItem) : Keeps s₀ (queueItem s p q) := by
  unfold queueItem
  repeat' first
    | with_reducible assumption | with_reducible apply modPort_keeps | with_reducible apply sendOn_keeps
    | (simp only [keeps_mk]; with_reducible apply KeepsPM.of) | intro _ | dsimp only

theorem discardMsg_keeps {s₀ s : State} (h₀ : Keeps s₀ s) (p : Nat) : Keeps s₀ (discardMsg s p) := by
  unfold discardMsg
  repeat' first
    | with_reducible assumption | with_reducible apply modPort_keeps | (simp only [keeps_mk]; with_reducible apply KeepsPM.of)
    | intro _ | dsimp only

theorem sendFab_keeps {s₀ s : State} (h₀ : Keeps s₀ s) (p : Nat) (m : FabMsg) : Keeps s₀ (sendFab s p m) := by
  unfold sendFab
  repeat' first
    | with_reducible assumption | with_reducible apply Keeps.ite | with_reducible apply queueItem_keeps
    | (simp only [keeps_mk]; with_reducible apply KeepsPM.of) | intro _ | dsimp only | split

theorem sendOwn_keeps {s₀ s : State} (h₀ : Keeps s₀ s) (p : Nat) (m : FabMsg) : Keeps s₀ (sendOwn s p m) := by
  unfold sendOwn
  repeat' first
    | with_reducible assumption | with_reducible apply sendFab_keeps | with_reducible apply useFree_keeps
    | (simp only [keeps_mk]; with_reducible apply KeepsPM.of) | dsimp only

theorem setFabId_keeps {s₀ s : State} (h₀ : Keeps s₀ s) (v : Nat) : Keeps s₀ (setFabId s v) := by
  unfold setFabId
  try dsimp only
  repeat' first
    | with_reducible assumption | with_reducible apply Keeps.ite | with_reducible apply modPort_keeps
    | (simp only [keeps_mk]; with_reducible apply KeepsPM.of) | with_reducible apply Keeps.foldl | (intro _ _ _) | intro _
    | dsimp only | split

theorem sendCtl_keeps {s₀ s : State} (h₀ : Keeps s₀ s) (p : Nat) (o : Out) : Keeps s₀ (sendCtl s p o) := by
  unfold sendCtl
  repeat' first
    | with_reducible assumption | with_reducible apply queueItem_keeps
    | (simp only [keeps_mk]; with_reducible apply KeepsPM.of) | dsimp only

theorem sendRaw_keeps {s₀ s : State} (h₀ : Keeps s₀ s) (p : Nat) (n : Nat) (o : Out) : Keeps s₀ (sendRaw s p n o) := by
  unfold sendRaw
  repeat' first
    | with_reducible assumption | with_reducible apply modPort_keeps | with_reducible apply emit_keeps
    | (simp only [keeps_mk]; with_reducible apply KeepsPM.of) | intro _ | dsimp only

theorem toVigilLane_keeps {s₀ s : State} (h₀ : Keeps s₀ s) (p : Nat) : Keeps s₀ (toVigilLane s p) := by
  unfold toVigilLane
  try dsimp only
  repeat' first
    | with_reducible assumption | with_reducible apply putPort_keeps | with_reducible apply sendRaw_keeps
    | (simp only [keeps_mk]; with_reducible apply KeepsPM.of) | intro _ | dsimp only

/-! ### Post -/

theorem sendVector_keeps {s₀ s : State} (h₀ : Keeps s₀ s) (v : Nat) : Keeps s₀ (sendVector s v) := by
  unfold sendVector
  repeat' first
    | with_reducible assumption | with_reducible apply Keeps.ite | with_reducible apply emit_keeps
    | (simp only [keeps_mk]; with_reducible apply KeepsPM.of) | intro _ | dsimp only | split

theorem freeVector_keeps {s₀ s : State} (h₀ : Keeps s₀ s) (v : Nat) : Keeps s₀ (freeVector s v) := by
  unfold freeVector
  repeat' first
    | with_reducible assumption | with_reducible apply Keeps.ite | with_reducible apply emit_keeps
    | (simp only [keeps_mk]; with_reducible apply KeepsPM.of) | intro _ | dsimp only | split

theorem raiseCause_keeps {s₀ s : State} (h₀ : Keeps s₀ s) (b : Nat) : Keeps s₀ (raiseCause s b) := by
  unfold raiseCause
  try dsimp only
  repeat' first
    | with_reducible assumption | with_reducible apply Keeps.ite | with_reducible apply sendVector_keeps
    | (simp only [keeps_mk]; with_reducible apply KeepsPM.of) | intro _ | dsimp only | split

theorem coverSlots_keeps {s₀ s : State} (h₀ : Keeps s₀ s) (m : Nat) : Keeps s₀ (coverSlots s m) := by
  unfold coverSlots
  try dsimp only
  repeat' first
    | with_reducible assumption | with_reducible apply Keeps.ite | with_reducible apply sendVector_keeps
    | with_reducible apply modMbx_keeps | (simp only [keeps_mk]; with_reducible apply KeepsPM.of) | intro _ | dsimp only
    | split

theorem rspCause_keeps {s₀ s : State} (h₀ : Keeps s₀ s) (m : Nat) : Keeps s₀ (rspCause s m) := by
  unfold rspCause
  try dsimp only
  repeat' first
    | with_reducible assumption | with_reducible apply Keeps.ite | with_reducible apply putMbx_keeps
    | with_reducible apply coverSlots_keeps | (simp only [keeps_mk]; with_reducible apply KeepsPM.of) | intro _ | dsimp only
    | split

theorem postSlot_keeps {s₀ s : State} (h₀ : Keeps s₀ s) (m : Msg) : Keeps s₀ (postSlot s m) := by
  unfold postSlot
  try dsimp only
  repeat' first
    | with_reducible assumption | with_reducible apply Keeps.ite | with_reducible apply putMbx_keeps
    | with_reducible apply emit_keeps | with_reducible apply rspCause_keeps | with_reducible apply writeCells_keeps
    | (simp only [keeps_mk]; with_reducible apply KeepsPM.of) | intro _ | dsimp only | split

theorem queueEvent_keeps {s₀ s : State} (h₀ : Keeps s₀ s) (e : CtlEvent) : Keeps s₀ (queueEvent s e) := by
  unfold queueEvent
  repeat' first
    | with_reducible assumption | with_reducible apply Keeps.ite | (simp only [keeps_mk]; with_reducible apply KeepsPM.of)
    | intro _ | dsimp only | split

theorem postNow_keeps {s₀ s : State} (h₀ : Keeps s₀ s) (m : Msg) : Keeps s₀ (postNow s m) := by
  unfold postNow
  try dsimp only
  repeat' first
    | with_reducible assumption | with_reducible apply Keeps.ite | with_reducible apply putMbx_keeps
    | with_reducible apply postSlot_keeps | (simp only [keeps_mk]; with_reducible apply KeepsPM.of)
    | with_reducible apply Keeps.foldl | (intro _ _ _) | intro _ | dsimp only | split

theorem post_keeps {s₀ s : State} (h₀ : Keeps s₀ s) (m : Msg) : Keeps s₀ (post s m) := by
  unfold post
  repeat' first
    | with_reducible assumption | with_reducible apply Keeps.ite | with_reducible apply queueEvent_keeps
    | with_reducible apply postNow_keeps | intro _ | dsimp only | split

theorem postPending_keeps {s₀ s : State} (h₀ : Keeps s₀ s) (k n : Nat) : Keeps s₀ (postPending s k n) := by
  induction n generalizing s with
  | zero => exact h₀
  | succ n ih =>
    unfold postPending
    dsimp only
    split
    · exact h₀
    · split
      · exact ih (postSlot_keeps (putMbx_keeps h₀ _ _) _)
      · exact h₀

theorem notesNow_keeps {s₀ s : State} (h₀ : Keeps s₀ s) (typ : Nat) (payload : List Byte) :
    Keeps s₀ (notesNow s typ payload) := by
  unfold notesNow
  try dsimp only
  repeat' first
    | with_reducible assumption | with_reducible apply Keeps.ite | with_reducible apply postNow_keeps
    | (simp only [keeps_mk]; with_reducible apply KeepsPM.of) | with_reducible apply Keeps.foldl | (intro _ _ _) | intro _
    | dsimp only | split

theorem postNotes_keeps {s₀ s : State} (h₀ : Keeps s₀ s) (typ : Nat) (payload : List Byte) :
    Keeps s₀ (postNotes s typ payload) := by
  unfold postNotes
  repeat' first
    | with_reducible assumption | with_reducible apply Keeps.ite | with_reducible apply queueEvent_keeps
    | with_reducible apply notesNow_keeps | intro _ | dsimp only | split

theorem stateNote_keeps {s₀ s : State} (h₀ : Keeps s₀ s) (what : Nat) (val : Nat) (st : Nat) :
    Keeps s₀ (stateNote s what val st) := by
  unfold stateNote
  repeat' first
    | with_reducible assumption | with_reducible apply postNotes_keeps | dsimp only

theorem openNote_keeps {s₀ s : State} (h₀ : Keeps s₀ s) (what : Nat) : Keeps s₀ (openNote s what) := by
  unfold openNote
  repeat' first
    | with_reducible assumption | with_reducible apply useFree_keeps | with_reducible apply stateNote_keeps | dsimp only

theorem absentNote_keeps {s₀ s : State} (h₀ : Keeps s₀ s) (dev : Nat) (reason : Nat) (wire : Nat) :
    Keeps s₀ (absentNote s dev reason wire) := by
  unfold absentNote
  repeat' first
    | with_reducible assumption | with_reducible apply postNotes_keeps | dsimp only

theorem setAlert_keeps {s₀ s : State} (h₀ : Keeps s₀ s) (b : Nat) : Keeps s₀ (setAlert s b) := by
  unfold setAlert
  try dsimp only
  repeat' first
    | with_reducible assumption | with_reducible apply Keeps.ite | (simp only [keeps_mk]; with_reducible apply KeepsPM.of)
    | intro _ | dsimp only | split

theorem recordNow_keeps {s₀ s : State} (h₀ : Keeps s₀ s) (head : List Byte) : Keeps s₀ (recordNow s head) := by
  unfold recordNow
  try dsimp only
  repeat' first
    | with_reducible assumption | with_reducible apply Keeps.ite | with_reducible apply setAlert_keeps
    | with_reducible apply notesNow_keeps | (simp only [keeps_mk]; with_reducible apply KeepsPM.of) | intro _ | dsimp only
    | split

theorem appendRecord_keeps {s₀ s : State} (h₀ : Keeps s₀ s) (head : List Byte) : Keeps s₀ (appendRecord s head) := by
  unfold appendRecord
  repeat' first
    | with_reducible assumption | with_reducible apply Keeps.ite | with_reducible apply queueEvent_keeps
    | with_reducible apply recordNow_keeps | intro _ | dsimp only | split

theorem handleEvent_keeps {s₀ s : State} (h₀ : Keeps s₀ s) (e : CtlEvent) : Keeps s₀ (handleEvent s e) := by
  unfold handleEvent
  try dsimp only
  repeat' first
    | with_reducible assumption | with_reducible apply postNow_keeps | with_reducible apply notesNow_keeps
    | with_reducible apply recordNow_keeps | (simp only [keeps_mk]; with_reducible apply KeepsPM.of) | dsimp only | split

theorem logFault_keeps {s₀ s : State} (h₀ : Keeps s₀ s) (r : FaultRec) : Keeps s₀ (logFault s r) := by
  unfold logFault
  repeat' first
    | with_reducible assumption | with_reducible apply appendRecord_keeps | dsimp only

/-! ### TallyBlock -/

theorem putTally_keeps {s₀ s : State} (h₀ : Keeps s₀ s) (sc : Scope) (unit : Nat) (num : Nat) (x : Tally) :
    Keeps s₀ (putTally s sc unit num x) := by
  unfold putTally
  try dsimp only
  repeat' first
    | with_reducible assumption | with_reducible apply modLevel_keeps | with_reducible apply modStope_keeps
    | (simp only [keeps_mk]; with_reducible apply KeepsPM.of) | intro _ | dsimp only | split

theorem modWait_keeps {s₀ s : State} (h₀ : Keeps s₀ s) (st : Nat) (cr : Nat) (f : Wait → Wait) :
    Keeps s₀ (modWait s st cr f) := by
  unfold modWait
  repeat' first
    | with_reducible assumption | with_reducible apply modCrew_keeps | (simp only [keeps_mk]; with_reducible apply KeepsPM.of)
    | intro _ | dsimp only

theorem setPhase_keeps {s₀ s : State} (h₀ : Keeps s₀ s) (st : Nat) (cr : Nat) (p : WaitPhase) :
    Keeps s₀ (setPhase s st cr p) := by
  unfold setPhase
  repeat' first
    | with_reducible assumption | with_reducible apply modWait_keeps | (simp only [keeps_mk]; with_reducible apply KeepsPM.of)
    | intro _ | dsimp only

theorem placeWaiter_keeps {s₀ s : State} (h₀ : Keeps s₀ s) (v : Visit) (o : Outcome) (w : Waiter) :
    Keeps s₀ (placeWaiter v o s w) := by
  unfold placeWaiter
  repeat' first
    | with_reducible assumption | with_reducible apply Keeps.ite | with_reducible apply modWait_keeps
    | (simp only [keeps_mk]; with_reducible apply KeepsPM.of) | intro _ | dsimp only | split

theorem reachTally_keeps {s₀ s : State} (h₀ : Keeps s₀ s) (sc : Scope) (unit : Nat) (num : Nat) (f : Visit → Visit) :
    Keeps s₀ (reachTally s sc unit num f) := by
  unfold reachTally
  try dsimp only
  repeat' first
    | with_reducible assumption | with_reducible apply Keeps.ite | with_reducible apply putTally_keeps
    | with_reducible apply placeWaiter_keeps | (simp only [keeps_mk]; with_reducible apply KeepsPM.of)
    | with_reducible apply Keeps.foldl | (intro _ _ _) | intro _ | dsimp only | split

theorem flagEvent_keeps {s₀ s : State} (h₀ : Keeps s₀ s) (sc : Scope) (unit : Nat) (num : Nat) (under : Bool) (ops : List SigIn) :
    Keeps s₀ (flagEvent s sc unit num under ops) := by
  unfold flagEvent
  try dsimp only
  repeat' first
    | with_reducible assumption | with_reducible apply Keeps.ite | with_reducible apply traceRec_keeps
    | with_reducible apply raiseEvent_keeps | with_reducible apply logFault_keeps
    | (simp only [keeps_mk]; with_reducible apply KeepsPM.of) | intro _ | dsimp only | split

theorem flagsOf_keeps {s₀ s : State} (h₀ : Keeps s₀ s) (k : Scope × Nat × Nat) : Keeps s₀ (flagsOf s k) := by
  unfold flagsOf
  try dsimp only
  repeat' first
    | with_reducible assumption | with_reducible apply Keeps.ite | with_reducible apply flagEvent_keeps
    | (simp only [keeps_mk]; with_reducible apply KeepsPM.of) | intro _ | dsimp only | split

theorem endCycle_keeps {s₀ s : State} (h₀ : Keeps s₀ s) : Keeps s₀ (endCycle s) := by
  unfold endCycle
  repeat' first
    | with_reducible assumption | with_reducible apply flagsOf_keeps | (simp only [keeps_mk]; with_reducible apply KeepsPM.of)
    | with_reducible apply Keeps.foldl | (intro _ _ _) | dsimp only

theorem passTo_keeps {s₀ s : State} (h₀ : Keeps s₀ s) (t : Nat) : Keeps s₀ (passTo s t) := by
  unfold passTo
  repeat' first
    | with_reducible assumption | with_reducible apply Keeps.ite | with_reducible apply endCycle_keeps
    | (simp only [keeps_mk]; with_reducible apply KeepsPM.of) | intro _ | dsimp only | split

theorem advance_keeps {s₀ s : State} (h₀ : Keeps s₀ s) (t : Nat) : Keeps s₀ (advance s t) := by
  unfold advance
  repeat' first
    | with_reducible assumption | with_reducible apply Keeps.ite | with_reducible apply passTo_keeps | intro _ | dsimp only
    | split

theorem signalTally_keeps {s₀ s : State} (h₀ : Keeps s₀ s) (sc : Scope) (unit : Nat) (num : Nat) (ins : List SigIn) :
    Keeps s₀ (signalTally s sc unit num ins) := by
  unfold signalTally
  repeat' first
    | with_reducible assumption | with_reducible apply reachTally_keeps
    | (simp only [keeps_mk]; with_reducible apply KeepsPM.of) | intro _ | dsimp only

theorem signalOne_keeps {s₀ s : State} (h₀ : Keeps s₀ s) (sc : Scope) (unit : Nat) (num : Nat) (n : Nat) (sub : Bool) (by' : Issuer) :
    Keeps s₀ (signalOne s sc unit num n sub by') := by
  unfold signalOne
  repeat' first
    | with_reducible assumption | with_reducible apply signalTally_keeps
    | (simp only [keeps_mk]; with_reducible apply KeepsPM.of) | dsimp only

theorem tramSignal_keeps {s₀ s : State} (h₀ : Keeps s₀ s) (st : Nat) (q : Nat) (crew : Nat) (tag : Nat) (epoch : Nat) :
    Keeps s₀ (tramSignal s st q crew tag epoch) := by
  unfold tramSignal
  repeat' first
    | with_reducible assumption | with_reducible apply signalOne_keeps
    | (simp only [keeps_mk]; with_reducible apply KeepsPM.of) | dsimp only

theorem writeCount_keeps {s₀ s : State} (h₀ : Keeps s₀ s) (sc : Scope) (unit : Nat) (num : Nat) (v : Nat) :
    Keeps s₀ (writeCount s sc unit num v) := by
  unfold writeCount
  repeat' first
    | with_reducible assumption | with_reducible apply reachTally_keeps
    | (simp only [keeps_mk]; with_reducible apply KeepsPM.of) | intro _ | dsimp only

theorem restoreCount_keeps {s₀ s : State} (h₀ : Keeps s₀ s) (sc : Scope) (unit : Nat) (num : Nat) :
    Keeps s₀ (restoreCount s sc unit num) := by
  unfold restoreCount
  repeat' first
    | with_reducible assumption | with_reducible apply reachTally_keeps
    | (simp only [keeps_mk]; with_reducible apply KeepsPM.of) | intro _ | dsimp only

theorem joinTally_keeps {s₀ s : State} (h₀ : Keeps s₀ s) (sc : Scope) (unit : Nat) (num : Nat) (w : Waiter) :
    Keeps s₀ (joinTally s sc unit num w) := by
  unfold joinTally
  repeat' first
    | with_reducible assumption | with_reducible apply reachTally_keeps
    | (simp only [keeps_mk]; with_reducible apply KeepsPM.of) | intro _ | dsimp only

theorem leaveTally_keeps {s₀ s : State} (h₀ : Keeps s₀ s) (sc : Scope) (unit : Nat) (num : Nat) (st : Nat) (cr : Nat) :
    Keeps s₀ (leaveTally s sc unit num st cr) := by
  unfold leaveTally
  repeat' first
    | with_reducible assumption | with_reducible apply reachTally_keeps
    | (simp only [keeps_mk]; with_reducible apply KeepsPM.of) | intro _ | dsimp only

theorem dropWaiters_keeps {s₀ s : State} (h₀ : Keeps s₀ s) (sc : Scope) (unit : Nat) (num : Nat) (p : Waiter → Bool) :
    Keeps s₀ (dropWaiters s sc unit num p) := by
  unfold dropWaiters
  try dsimp only
  repeat' first
    | with_reducible assumption | with_reducible apply putTally_keeps | with_reducible apply endCycle_keeps
    | (simp only [keeps_mk]; with_reducible apply KeepsPM.of) | intro _ | dsimp only

/-! ### Landing -/

theorem loadCycleOf_keeps {s₀ s : State} (h₀ : Keeps s₀ s) (st : Nat) (w : WldRun) : Keeps s₀ (loadCycleOf s st w) := by
  unfold loadCycleOf
  try dsimp only
  repeat' first
    | with_reducible assumption | with_reducible apply Keeps.ite | with_reducible apply modStope_keeps
    | (simp only [keeps_mk]; with_reducible apply KeepsPM.of) | intro _ | dsimp only | split

theorem putAcc_keeps {s₀ s : State} (h₀ : Keeps s₀ s) (st : Nat) (a : Nat) (row : Nat) (c : Nat) (v : BitVec 8192) :
    Keeps s₀ (putAcc s st a row c v) := by
  unfold putAcc
  repeat' first
    | with_reducible assumption | with_reducible apply modStope_keeps | intro _ | dsimp only

theorem landSums_keeps {s₀ s : State} (h₀ : Keeps s₀ s) (st : Nat) (a : Nat) (row : Nat) (c : Nat) (accum : Bool) (ys : Option (List Word32)) :
    Keeps s₀ (landSums s st a row c accum ys) := by
  unfold landSums
  try dsimp only
  repeat' first
    | with_reducible assumption | with_reducible apply putAcc_keeps | with_reducible apply useFree_keeps
    | (simp only [keeps_mk]; with_reducible apply KeepsPM.of) | dsimp only | split

theorem landFlight_keeps {s₀ s : State} (h₀ : Keeps s₀ s) (st : Nat) (a : Nat) (f : Flight) : Keeps s₀ (landFlight s st a f) := by
  unfold landFlight
  try dsimp only
  repeat' first
    | with_reducible assumption | with_reducible apply Keeps.ite | with_reducible apply landSums_keeps
    | with_reducible apply Keeps.foldl | (intro _ _ _) | intro _ | dsimp only | split

theorem landEff_keeps {s₀ s : State} (h₀ : Keeps s₀ s) (st : Nat) (ag : Nat) (n : Nat) (e : Eff) :
    Keeps s₀ (landEff s st ag n e) := by
  unfold landEff
  try dsimp only
  repeat' first
    | with_reducible assumption | with_reducible apply putAcc_keeps | with_reducible apply modCrew_keeps
    | with_reducible apply modStope_keeps | with_reducible apply writeCells_keeps
    | (simp only [keeps_mk]; with_reducible apply KeepsPM.of) | with_reducible apply Keeps.foldl | (intro _ _ _) | intro _
    | dsimp only | split

theorem landOne_keeps {s₀ s : State} (h₀ : Keeps s₀ s) (st : Nat) (d : Due) : Keeps s₀ (landOne s st d) := by
  unfold landOne
  try dsimp only
  repeat' first
    | with_reducible assumption | with_reducible apply landEff_keeps | with_reducible apply landFlight_keeps
    | with_reducible apply modCrew_keeps | with_reducible apply modStope_keeps | with_reducible apply putStope_keeps
    | with_reducible apply loadCycleOf_keeps | (simp only [keeps_mk]; with_reducible apply KeepsPM.of) | intro _ | dsimp only
    | split

theorem settleTo_keeps {s₀ s : State} (h₀ : Keeps s₀ s) (st bound n : Nat) : Keeps s₀ (settleTo s st bound n) := by
  induction n generalizing s with
  | zero => exact h₀
  | succ n ih =>
    unfold settleTo
    split
    · exact h₀
    · split
      · exact ih (landOne_keeps h₀ _ _)
      · exact h₀

theorem settleAt_keeps {s₀ s : State} (h₀ : Keeps s₀ s) (st : Nat) (c : Nat) : Keeps s₀ (settleAt s st c) := by
  unfold settleAt
  try dsimp only
  repeat' first
    | with_reducible assumption | with_reducible apply modStope_keeps | with_reducible apply settleTo_keeps
    | (simp only [keeps_mk]; with_reducible apply KeepsPM.of) | intro _ | dsimp only

theorem settle_keeps {s₀ s : State} (h₀ : Keeps s₀ s) (st : Nat) : Keeps s₀ (settle s st) := by
  unfold settle
  repeat' first
    | with_reducible assumption | with_reducible apply settleAt_keeps | dsimp only

theorem settleBefore_keeps {s₀ s : State} (h₀ : Keeps s₀ s) (st : Nat) : Keeps s₀ (settleBefore s st) := by
  unfold settleBefore
  try dsimp only
  repeat' first
    | with_reducible assumption | with_reducible apply Keeps.ite | with_reducible apply settle_keeps
    | with_reducible apply settleTo_keeps | intro _ | dsimp only | split

theorem settleAll_keeps {s₀ s : State} (h₀ : Keeps s₀ s) : Keeps s₀ (settleAll s) := by
  unfold settleAll
  repeat' first
    | with_reducible assumption | with_reducible apply settle_keeps | with_reducible apply Keeps.foldl
    | with_reducible apply Keeps.foldl1 | (intro _ _ _) | intro _ | dsimp only

/-! ### Issue -/

theorem markHold_keeps {s₀ s : State} (h₀ : Keeps s₀ s) (st : Nat) : Keeps s₀ (markHold s st) := by
  unfold markHold
  repeat' first
    | with_reducible assumption | with_reducible apply modStope_keeps
    | (simp only [keeps_mk]; with_reducible apply KeepsPM.of) | intro _ | dsimp only

theorem traceOpen_keeps {s₀ s : State} (h₀ : Keeps s₀ s) (st : Nat) (code : Nat) (tag : Nat) (epoch : Nat) (arg : Nat) :
    Keeps s₀ (traceOpen s st code tag epoch arg) := by
  unfold traceOpen
  repeat' first
    | with_reducible assumption | with_reducible apply traceRec_keeps | with_reducible apply useFree_keeps | dsimp only

theorem ungate_keeps {s₀ s : State} (h₀ : Keeps s₀ s) (st : Nat) (bell : Option Scope) : Keeps s₀ (ungate s st bell) := by
  unfold ungate
  try dsimp only
  repeat' first
    | with_reducible assumption | with_reducible apply Keeps.ite | with_reducible apply traceOpen_keeps
    | with_reducible apply putStope_keeps | (simp only [keeps_mk]; with_reducible apply KeepsPM.of) | intro _ | dsimp only
    | split

theorem storeRead_keeps {s₀ s : State} (h₀ : Keeps s₀ s) (e : Ecc) : Keeps s₀ (storeRead s e) := by
  unfold storeRead
  repeat' first
    | with_reducible assumption | with_reducible apply Keeps.ite | (simp only [keeps_mk]; with_reducible apply KeepsPM.of)
    | intro _ | dsimp only | split

theorem ovmFault_keeps {s₀ s : State} (h₀ : Keeps s₀ s) (st : Nat) (code : Nat) (arg : Nat) :
    Keeps s₀ (ovmFault s st code arg) := by
  unfold ovmFault
  try dsimp only
  repeat' first
    | with_reducible assumption | with_reducible apply Keeps.ite | with_reducible apply ungate_keeps
    | with_reducible apply putStope_keeps | (simp only [keeps_mk]; with_reducible apply KeepsPM.of)
    | with_reducible apply Keeps.foldl | (intro _ _ _) | intro _ | dsimp only | split

theorem crewFault_keeps {s₀ s : State} (h₀ : Keeps s₀ s) (st : Nat) (ag : Nat) (code : Nat) (arg : Nat) :
    Keeps s₀ (crewFault s st ag code arg) := by
  unfold crewFault
  try dsimp only
  repeat' first
    | with_reducible assumption | with_reducible apply traceRec_keeps | with_reducible apply putStope_keeps
    | (simp only [keeps_mk]; with_reducible apply KeepsPM.of) | dsimp only

theorem takeFault_keeps {s₀ s : State} (h₀ : Keeps s₀ s) (st : Nat) (ag : Nat) (code : Nat) (arg : Nat) :
    Keeps s₀ (takeFault s st ag code arg) := by
  unfold takeFault
  repeat' first
    | with_reducible assumption | with_reducible apply Keeps.ite | with_reducible apply ovmFault_keeps
    | with_reducible apply crewFault_keeps | intro _ | dsimp only | split

theorem takeOpen_keeps {s₀ s : State} (h₀ : Keeps s₀ s) (st : Nat) (ag : Nat) (code : Nat) :
    Keeps s₀ (takeOpen s st ag code) := by
  unfold takeOpen
  repeat' first
    | with_reducible assumption | with_reducible apply takeFault_keeps | with_reducible apply useFree_keeps | dsimp only

theorem startWrites_keeps {s₀ s : State} (h₀ : Keeps s₀ s) (st : Nat) (ag : Nat) (c : Nat) (es : List (Nat × Eff)) :
    Keeps s₀ (startWrites s st ag c es) := by
  unfold startWrites
  repeat' first
    | with_reducible assumption | with_reducible apply modCrew_keeps | with_reducible apply modStope_keeps
    | (simp only [keeps_mk]; with_reducible apply KeepsPM.of) | with_reducible apply Keeps.foldl
    | with_reducible apply Keeps.foldl1 | (intro _ _ _) | intro _ | dsimp only

theorem countBlocked_keeps {s₀ s : State} (h₀ : Keeps s₀ s) (st : Nat) (ag : Nat) (c : Nat) (first : Nat) :
    Keeps s₀ (countBlocked s st ag c first) := by
  unfold countBlocked
  repeat' first
    | with_reducible assumption | with_reducible apply modCrew_keeps | (simp only [keeps_mk]; with_reducible apply KeepsPM.of)
    | intro _ | dsimp only

theorem retire_keeps {s₀ s : State} (h₀ : Keeps s₀ s) (st : Nat) (ag : Nat) (c : Nat) (first : Nat) (n : Need) (f : Flow) :
    Keeps s₀ (retire s st ag c first n f) := by
  unfold retire
  try dsimp only
  repeat' first
    | with_reducible assumption | with_reducible apply Keeps.ite | with_reducible apply modStope_keeps
    | (simp only [keeps_mk]; with_reducible apply KeepsPM.of) | intro _ | dsimp only | split

theorem issue_keeps {s₀ s : State} (h₀ :
    Keeps s₀ s) (st ag : Nat) (w : Word64) (op : Nat) (n : Nat → Need) (floor : Nat) (adm : Nat → Bool)
    {body : State → Nat → IssueRes} (hb : ∀ u c, Keeps s₀ u → ResKeeps s₀ (body u c)) :
    Keeps s₀ (issue s st ag w op n floor adm body) := by
  unfold issue
  dsimp only
  have hu := advance_keeps h₀ (issueTime (stopeOf s st) ag s.now (issueCycle (stopeOf s st) ag s.now n floor adm))
  generalize advance s (issueTime (stopeOf s st) ag s.now (issueCycle (stopeOf s st) ag s.now n floor adm)) = v at hu ⊢
  have ht : ∀ b : Prop, ∀ [Decidable b], Keeps s₀ (if b then settle v st
      else settleAt v st (issueCycle (stopeOf s st) ag s.now n floor adm)) :=
    fun b _ => Keeps.ite (fun _ => settle_keeps hu _) (fun _ => settleAt_keeps hu _ _)
  have hr := hb _ (issueCycle (stopeOf s st) ag s.now n floor adm) (ht (ag = 16))
  refine Keeps.ite (fun _ => Keeps.ite (fun _ => takeOpen_keeps (countBlocked_keeps (ht _) _ _ _ _) _ _ _) (fun _ => Keeps.ite (fun _ => takeOpen_keeps (countBlocked_keeps (ht _) _ _ _ _) _ _ _) (fun _ => ?_))) (fun _ => h₀)
  revert hr
  generalize body _ _ = r
  intro hr
  cases r with
  | trap a b => exact takeFault_keeps (countBlocked_keeps (ht _) _ _ _ _) _ _ _ _
  | trapOpen a => exact takeOpen_keeps (countBlocked_keeps (ht _) _ _ _ _) _ _ _
  | trapAfter u a => exact takeOpen_keeps (countBlocked_keeps hr _ _ _ _) _ _ _
  | trapWith u a b => exact takeFault_keeps (countBlocked_keeps hr _ _ _ _) _ _ _ _
  | done u f => exact retire_keeps hr _ _ _ _ _ _
  | held => exact modCrew_keeps h₀ _ _ _

theorem issueWrites_keeps {s₀ s : State} (h₀ : Keeps s₀ s) (st : Nat) (ag : Nat) (w : Word64) (op : Nat) (n : Nat → Need) (legal : Bool) (ws : Crew → List (Nat × Eff)) :
    Keeps s₀ (issueWrites s st ag w op n legal ws) := by
  unfold issueWrites
  repeat' first
    | with_reducible assumption | with_reducible apply Keeps.ite | with_reducible apply ResKeeps.ite
    | (with_reducible apply ResKeeps.done) | with_reducible exact ResKeeps.trap _ _ | with_reducible exact ResKeeps.trapOpen _
    | with_reducible exact ResKeeps.held | with_reducible apply ResKeeps.trapAfter | with_reducible apply ResKeeps.trapWith
    | with_reducible apply startWrites_keeps | with_reducible apply issue_keeps | intro _ | dsimp only | split

theorem crewOnly_keeps {s₀ : State} {ag : Nat} {r : IssueRes} (h : ResKeeps s₀ r) : ResKeeps s₀ (crewOnly ag r) :=
  ResKeeps.ite (fun _ => trivial) (fun _ => h)

/-! ### Scalar -/

theorem scalarOp_keeps {s₀ s : State} (h₀ : Keeps s₀ s) (st : Nat) (ag : Nat) (w : Word64) (op : Nat) (n : Nat) (f : Word64 → Word64 → Word64) :
    Keeps s₀ (scalarOp st ag w op n f s) := by
  unfold scalarOp
  repeat' first
    | with_reducible assumption | with_reducible apply issueWrites_keeps | intro _ | dsimp only

theorem storeUncorr_keeps {s₀ s : State} (h₀ : Keeps s₀ s) (st : Nat) (ag : Nat) (addr : Nat) :
    Keeps s₀ (storeUncorr s st ag addr) := by
  unfold storeUncorr
  try dsimp only
  repeat' first
    | with_reducible assumption | with_reducible apply faultEvent_keeps | dsimp only

/-! ### Vector -/

theorem vectorOp_keeps {s₀ s : State} (h₀ : Keeps s₀ s) (st : Nat) (ag : Nat) (w : Word64) (op : Nat) (n : Need) (fs : List (Nat × Nat)) (ok : Bool) (ws : Crew → List (Nat × Eff)) :
    Keeps s₀ (vectorOp st ag w op n fs ok ws s) := by
  unfold vectorOp
  repeat' first
    | with_reducible assumption | with_reducible apply Keeps.ite | with_reducible apply ResKeeps.ite
    | (with_reducible apply ResKeeps.done) | with_reducible exact ResKeeps.trap _ _ | with_reducible exact ResKeeps.trapOpen _
    | with_reducible exact ResKeeps.held | with_reducible apply ResKeeps.trapAfter | with_reducible apply ResKeeps.trapWith
    | with_reducible apply startWrites_keeps | with_reducible apply crewOnly_keeps | with_reducible apply issue_keeps
    | intro _ | dsimp only | split

theorem takeDraws_keeps {s₀ s : State} (h₀ : Keeps s₀ s) (st : Nat) (ag : Nat) (n : Nat) (sr : Bool) :
    Keeps s₀ (takeDraws s st ag n sr) := by
  unfold takeDraws
  repeat' first
    | with_reducible assumption | with_reducible apply Keeps.ite | with_reducible apply modCrew_keeps | intro _ | dsimp only
    | split

/-! ### Tiles -/

theorem recountClaim_keeps {s₀ s : State} (h₀ : Keeps s₀ s) (st : Nat) : Keeps s₀ (recountClaim s st) := by
  unfold recountClaim
  try dsimp only
  repeat' first
    | with_reducible assumption | with_reducible apply Keeps.ite | with_reducible apply modStope_keeps
    | (simp only [keeps_mk]; with_reducible apply KeepsPM.of) | intro _ | dsimp only | split

theorem recountHeld_keeps {s₀ s : State} (h₀ : Keeps s₀ s) (st : Nat) (held : Option Held) :
    Keeps s₀ (recountHeld s st held) := by
  unfold recountHeld
  repeat' first
    | with_reducible assumption | with_reducible apply Keeps.ite | with_reducible apply recountClaim_keeps | intro _
    | dsimp only | split

theorem queueTile_keeps {s₀ s : State} (h₀ : Keeps s₀ s) (st : Nat) (cr : Nat) (t : Nat) (kind : XKind) (store : Bool) (va : Nat) (recVa : Option Nat) (q : Nat) :
    Keeps s₀ (queueTile s st cr t kind store va recVa q) := by
  unfold queueTile
  try dsimp only
  repeat' first
    | with_reducible assumption | with_reducible apply Keeps.ite | with_reducible apply traceRec_keeps
    | with_reducible apply recountClaim_keeps | with_reducible apply putStope_keeps
    | (simp only [keeps_mk]; with_reducible apply KeepsPM.of) | intro _ | dsimp only | split

/-! ### Arrays -/

theorem streamOp_keeps {s₀ s : State} (h₀ : Keeps s₀ s) (st : Nat) (ag : Nat) (w : Word64) (op : Nat) (column : Bool) :
    Keeps s₀ (streamOp st ag w op column s) := by
  unfold streamOp
  try dsimp only
  repeat' first
    | with_reducible assumption | with_reducible apply Keeps.ite | with_reducible apply ResKeeps.ite
    | (with_reducible apply ResKeeps.done) | with_reducible exact ResKeeps.trap _ _ | with_reducible exact ResKeeps.trapOpen _
    | with_reducible exact ResKeeps.held | with_reducible apply ResKeeps.trapAfter | with_reducible apply ResKeeps.trapWith
    | with_reducible apply crewOnly_keeps | with_reducible apply putStope_keeps | with_reducible apply issue_keeps
    | (simp only [keeps_mk]; with_reducible apply KeepsPM.of) | with_reducible apply Keeps.foldl | (intro _ _ _) | intro _
    | dsimp only | split

theorem accOp_keeps {s₀ s : State} (h₀ : Keeps s₀ s) (st ag : Nat) (w : Word64) (op : Nat) (legal : Bool) (n busy : Nat)
    {eff : State → Crew → Nat → Nat → State} (he : ∀ u k r c, Keeps s₀ u → Keeps s₀ (eff u k r c)) :
    Keeps s₀ (accOp st ag w op legal n busy eff s) := by
  unfold accOp
  dsimp only
  refine issue_keeps h₀ _ _ _ _ _ _ _ (fun u c hu => crewOnly_keeps (ResKeeps.ite (fun _ => ResKeeps.ite (fun _ => modStope_keeps hu _ _) (fun _ => ?_)) (fun _ => trivial)))
  exact he _ _ _ _ (modStope_keeps hu _ _)

/-! ### TallyOps -/

theorem waitOp_keeps {s₀ s : State} (h₀ : Keeps s₀ s) (st : Nat) (ag : Nat) (w : Word64) (op : Nat) (take : Bool) :
    Keeps s₀ (waitOp st ag w op take s) := by
  unfold waitOp
  try dsimp only
  repeat' first
    | with_reducible assumption | with_reducible apply Keeps.ite | with_reducible apply ResKeeps.ite
    | (with_reducible apply ResKeeps.done) | with_reducible exact ResKeeps.trap _ _ | with_reducible exact ResKeeps.trapOpen _
    | with_reducible exact ResKeeps.held | with_reducible apply ResKeeps.trapAfter | with_reducible apply ResKeeps.trapWith
    | with_reducible apply modCrew_keeps | with_reducible apply crewOnly_keeps | with_reducible apply issue_keeps
    | (simp only [keeps_mk]; with_reducible apply KeepsPM.of) | intro _ | dsimp only | split

/-! ### Stacks -/

theorem saveGranule_keeps {s₀ s : State} (h₀ : Keeps s₀ s) (k o rnd : Nat) {t : State} (h : saveGranule s k o rnd = some t) :
    Keeps s₀ t := by
  unfold saveGranule at h
  dsimp only at h
  split at h
  · cases h; exact h₀
  · split at h
    · cases h
    · cases h; exact writeCells_keeps (modStack_keeps h₀ _ _) _

theorem snapEnd_keeps {s₀ s : State} (h₀ : Keeps s₀ s) (result : Nat) (seg : Nat) : Keeps s₀ (snapEnd s result seg) := by
  unfold snapEnd
  try dsimp only
  repeat' first
    | with_reducible assumption | with_reducible apply postNotes_keeps
    | (simp only [keeps_mk]; with_reducible apply KeepsPM.of) | dsimp only | split

theorem snapAbort_keeps {s₀ s : State} (h₀ : Keeps s₀ s) : Keeps s₀ (snapAbort s) := by
  unfold snapAbort
  try dsimp only
  repeat' first
    | with_reducible assumption | with_reducible apply Keeps.ite | with_reducible apply snapEnd_keeps
    | (simp only [keeps_mk]; with_reducible apply KeepsPM.of) | intro _ | dsimp only | split

theorem restartDrain_keeps {s₀ s : State} (h₀ : Keeps s₀ s) : Keeps s₀ (restartDrain s) := by
  unfold restartDrain
  repeat' first
    | with_reducible assumption | with_reducible apply Keeps.ite | (simp only [keeps_mk]; with_reducible apply KeepsPM.of)
    | intro _ | dsimp only | split

theorem beginStaging_keeps {s₀ s : State} (h₀ : Keeps s₀ s) : Keeps s₀ (beginStaging s) := by
  unfold beginStaging
  repeat' first
    | with_reducible assumption | with_reducible apply Keeps.ite | (simp only [keeps_mk]; with_reducible apply KeepsPM.of)
    | intro _ | dsimp only | split

theorem logOpen_keeps {s₀ s : State} (h₀ : Keeps s₀ s) (r : FaultRec) : Keeps s₀ (logOpen s r) := by
  unfold logOpen
  repeat' first
    | with_reducible assumption | with_reducible apply useFree_keeps | with_reducible apply logFault_keeps
    | (simp only [keeps_mk]; with_reducible apply KeepsPM.of) | dsimp only

theorem countCorrected_keeps {s₀ s : State} (h₀ : Keeps s₀ s) (k : Nat) (pc : Nat) : Keeps s₀ (countCorrected s k pc) := by
  unfold countCorrected
  try dsimp only
  repeat' first
    | with_reducible assumption | with_reducible apply Keeps.ite | with_reducible apply modStack_keeps
    | with_reducible apply logOpen_keeps | (simp only [keeps_mk]; with_reducible apply KeepsPM.of) | intro _ | dsimp only
    | split

theorem hbmEcc_keeps {s₀ s : State} (h₀ : Keeps s₀ s) (k : Nat) (pc : Nat) (e : Ecc) : Keeps s₀ (hbmEcc s k pc e) := by
  unfold hbmEcc
  try dsimp only
  repeat' first
    | with_reducible assumption | with_reducible apply countCorrected_keeps | with_reducible apply modStack_keeps
    | (simp only [keeps_mk]; with_reducible apply KeepsPM.of) | intro _ | dsimp only | split

theorem readEcc_keeps {s₀ s : State} (h₀ : Keeps s₀ s) (pa : Nat) (e : Ecc) : Keeps s₀ (readEcc s pa e) := by
  unfold readEcc
  try dsimp only
  repeat' first
    | with_reducible assumption | with_reducible apply hbmEcc_keeps | with_reducible apply storeRead_keeps
    | (simp only [keeps_mk]; with_reducible apply KeepsPM.of) | dsimp only | split

theorem stageGranule_keeps {s₀ s : State} (h₀ : Keeps s₀ s) (k : Nat) (o : Nat) (i : Nat) (ecc : Ecc) :
    Keeps s₀ (stageGranule s k o i ecc) := by
  unfold stageGranule
  try dsimp only
  repeat' first
    | with_reducible assumption | with_reducible apply Keeps.ite | with_reducible apply hbmEcc_keeps
    | with_reducible apply snapEnd_keeps | with_reducible apply logOpen_keeps
    | (simp only [keeps_mk]; with_reducible apply KeepsPM.of) | intro _ | dsimp only | split

theorem stageAhead_keeps {s₀ s : State} (h₀ : Keeps s₀ s) (who : Writer) (k : Nat) (o : Nat) :
    Keeps s₀ (stageAhead s who k o) := by
  unfold stageAhead
  try dsimp only
  repeat' first
    | with_reducible assumption | with_reducible apply Keeps.ite | with_reducible apply stageGranule_keeps
    | with_reducible apply useFree_keeps | (simp only [keeps_mk]; with_reducible apply KeepsPM.of) | intro _ | dsimp only
    | split

theorem cleanse_keeps {s₀ s : State} (h₀ : Keeps s₀ s) (pa : Nat) (n : Nat) (left : List (Nat × Nat)) :
    Keeps s₀ (cleanse s pa n left) := by
  unfold cleanse
  repeat' first
    | with_reducible assumption | with_reducible apply modStack_keeps
    | (simp only [keeps_mk]; with_reducible apply KeepsPM.of) | with_reducible apply Keeps.foldl
    | with_reducible apply Keeps.foldl1 | (intro _ _ _) | intro _ | dsimp only

theorem noteFull_keeps {s₀ s : State} (h₀ : Keeps s₀ s) (rnd : Nat) : Keeps s₀ (noteFull s rnd) := by
  unfold noteFull
  repeat' first
    | with_reducible assumption | with_reducible apply Keeps.ite | (simp only [keeps_mk]; with_reducible apply KeepsPM.of)
    | intro _ | dsimp only | split

theorem readyGranule_keeps {s₀ : State} {r : State × List (Nat × Nat)} (h₀ :
    Keeps s₀ r.1) (who : Writer) (rnd : Nat) (g : Nat × Nat) :
    Keeps s₀ (readyGranule who rnd r g).1 := by
  have hs := stageAhead_keeps h₀ who g.1 g.2
  unfold readyGranule
  dsimp only
  split
  · split
    · exact saveGranule_keeps hs _ _ _ (by assumption)
    · exact hs
  · exact hs

theorem physWrite_keeps {s₀ s : State} (h₀ : Keeps s₀ s) (who : Writer) (rnd : Nat) (pa : Nat) (bs : List Byte) :
    Keeps s₀ (physWrite s who rnd pa bs).1 := by
  unfold physWrite
  try dsimp only
  repeat' first
    | with_reducible assumption | with_reducible apply settle_keeps | with_reducible apply readyGranule_keeps
    | with_reducible apply writeCells_keeps | with_reducible apply cleanse_keeps
    | (simp only [keeps_mk]; with_reducible apply KeepsPM.of) | with_reducible apply Keeps.foldl
    | with_reducible apply Keeps.foldl1 | (intro _ _ _) | intro _ | dsimp only | split

theorem physEntry_keeps {s₀ s : State} (h₀ : Keeps s₀ s) (who : Writer) (rnd : Nat) (pa : Nat) (e : Word64) :
    Keeps s₀ (physEntry s who rnd pa e).1 := by
  unfold physEntry
  try dsimp only
  repeat' first
    | with_reducible assumption | with_reducible apply Keeps.ite | with_reducible apply putSideEntry_keeps
    | with_reducible apply readyGranule_keeps | with_reducible apply Keeps.foldl | with_reducible apply Keeps.foldl1
    | (intro _ _ _) | intro _ | dsimp only | split

theorem physAbsent_keeps {s₀ s : State} (h₀ : Keeps s₀ s) (who : Writer) (rnd : Nat) (pa : Nat) :
    Keeps s₀ (physAbsent s who rnd pa).1 := by
  unfold physAbsent
  repeat' first
    | with_reducible assumption | with_reducible apply physEntry_keeps | dsimp only

theorem sidePort_keeps {s₀ s : State} (h₀ : Keeps s₀ s) (who : Writer) (pa : Nat) (n : Nat) : Keeps s₀ (sidePort s who pa n) := by
  unfold sidePort
  try dsimp only
  repeat' first
    | with_reducible assumption | with_reducible apply Keeps.ite | with_reducible apply modLevel_keeps
    | (simp only [keeps_mk]; with_reducible apply KeepsPM.of) | intro _ | dsimp only | split

theorem absentUnder_keeps {s₀ s : State} (h₀ : Keeps s₀ s) (who : Writer) (pa : Nat) (n : Nat) :
    Keeps s₀ (absentUnder s who pa n) := by
  unfold absentUnder
  repeat' first
    | with_reducible assumption | with_reducible apply physAbsent_keeps | with_reducible apply Keeps.foldl
    | with_reducible apply Keeps.foldl1 | (intro _ _ _) | intro _ | dsimp only

theorem stackArrive_keeps {s₀ s : State} (h₀ : Keeps s₀ s) (who : Writer) (rnd : Nat) (pa : Nat) (bs : List Byte) :
    Keeps s₀ (stackArrive s who rnd pa bs).1 := by
  unfold stackArrive
  repeat' first
    | with_reducible assumption | with_reducible apply Keeps.ite | with_reducible apply sidePort_keeps
    | with_reducible apply physWrite_keeps | intro _ | dsimp only | split

/-! ### Tram -/

theorem setXfer_keeps {s₀ s : State} (h₀ : Keeps s₀ s) (st : Nat) (f : Xfer) : Keeps s₀ (setXfer s st f) := by
  unfold setXfer
  repeat' first
    | with_reducible assumption | with_reducible apply modStope_keeps | intro _ | dsimp only

theorem sendXfer_keeps {s₀ s : State} (h₀ : Keeps s₀ s) (st : Nat) (f : Xfer) : Keeps s₀ (sendXfer s st f) := by
  unfold sendXfer
  repeat' first
    | with_reducible assumption | with_reducible apply modStope_keeps
    | (simp only [keeps_mk]; with_reducible apply KeepsPM.of) | intro _ | dsimp only

theorem addReport_keeps {s₀ s : State} (h₀ : Keeps s₀ s) (tag : Nat) (kind : Nat) (arg : Nat) :
    Keeps s₀ (addReport s tag kind arg) := by
  unfold addReport
  repeat' first
    | with_reducible assumption | with_reducible apply Keeps.ite | (simp only [keeps_mk]; with_reducible apply KeepsPM.of)
    | intro _ | dsimp only | split

theorem holdXfer_keeps {s₀ s : State} (h₀ : Keeps s₀ s) (st : Nat) (f : Xfer) (code : Nat) (va : Nat) :
    Keeps s₀ (holdXfer s st f code va) := by
  unfold holdXfer
  try dsimp only
  repeat' first
    | with_reducible assumption | with_reducible apply Keeps.ite | with_reducible apply traceRec_keeps
    | with_reducible apply recountClaim_keeps | with_reducible apply faultEvent_keeps | with_reducible apply markEnd_keeps
    | with_reducible apply putStope_keeps | (simp only [keeps_mk]; with_reducible apply KeepsPM.of) | intro _ | dsimp only
    | split

theorem reportGob_keeps {s₀ s : State} (h₀ : Keeps s₀ s) (tag : Nat) (full : List (Nat × Nat)) :
    Keeps s₀ (reportGob s tag full) := by
  unfold reportGob
  repeat' first
    | with_reducible assumption | with_reducible apply addReport_keeps | with_reducible apply Keeps.foldl
    | with_reducible apply Keeps.foldl1 | (intro _ _ _) | intro _ | dsimp only

theorem beginTiles_keeps {s₀ s : State} (h₀ : Keeps s₀ s) (st : Nat) (f : Xfer) : Keeps s₀ (beginTiles s st f) := by
  unfold beginTiles
  try dsimp only
  repeat' first
    | with_reducible assumption | with_reducible apply Keeps.ite | with_reducible apply sendXfer_keeps
    | with_reducible apply setXfer_keeps | (simp only [keeps_mk]; with_reducible apply KeepsPM.of)
    | with_reducible apply Keeps.foldl | (intro _ _ _) | intro _ | dsimp only | split

theorem absentTiles_keeps {s₀ s : State} (h₀ : Keeps s₀ s) (st : Nat) (f : Xfer) : Keeps s₀ (absentTiles s st f) := by
  unfold absentTiles
  try dsimp only
  repeat' first
    | with_reducible assumption | with_reducible apply Keeps.ite | with_reducible apply setXfer_keeps
    | with_reducible apply physAbsent_keeps | with_reducible apply reportGob_keeps
    | (simp only [keeps_mk]; with_reducible apply KeepsPM.of) | with_reducible apply Keeps.foldl
    | with_reducible apply Keeps.foldl1 | (intro _ _ _) | intro _ | dsimp only | split

theorem refuseDesc_keeps {s₀ s : State} (h₀ : Keeps s₀ s) (st : Nat) (f : Xfer) (code : Nat) :
    Keeps s₀ (refuseDesc s st f code) := by
  unfold refuseDesc
  try dsimp only
  repeat' first
    | with_reducible assumption | with_reducible apply useFree_keeps | with_reducible apply modStope_keeps
    | with_reducible apply xferEvent_keeps | intro _ | dsimp only

theorem requestSwap_keeps {s₀ s : State} (h₀ : Keeps s₀ s) (st : Nat) : Keeps s₀ (requestSwap s st) := by
  unfold requestSwap
  repeat' first
    | with_reducible assumption | with_reducible apply modStope_keeps
    | (simp only [keeps_mk]; with_reducible apply KeepsPM.of) | intro _ | dsimp only

theorem copyDone_keeps {s₀ s : State} (h₀ : Keeps s₀ s) (st : Nat) (f : Xfer) (copied : Bool) :
    Keeps s₀ (copyDone s st f copied) := by
  unfold copyDone
  try dsimp only
  repeat' first
    | with_reducible assumption | with_reducible apply Keeps.ite | with_reducible apply requestSwap_keeps
    | (simp only [keeps_mk]; with_reducible apply KeepsPM.of) | intro _ | dsimp only | split

theorem startTram_keeps {s₀ s : State} (h₀ : Keeps s₀ s) (st : Nat) (f : Xfer) (d : TramDesc) :
    Keeps s₀ (startTram s st f d) := by
  unfold startTram
  try dsimp only
  repeat' first
    | with_reducible assumption | with_reducible apply Keeps.ite | with_reducible apply sendXfer_keeps
    | with_reducible apply addReport_keeps | with_reducible apply refuseDesc_keeps | with_reducible apply setXfer_keeps
    | with_reducible apply copyDone_keeps | with_reducible apply beginTiles_keeps
    | (simp only [keeps_mk]; with_reducible apply KeepsPM.of) | intro _ | dsimp only | split

theorem countBytes_keeps {s₀ s : State} (h₀ : Keeps s₀ s) (st : Nat) (src : List (Nat × Nat)) (dst : List (Nat × Nat)) :
    Keeps s₀ (countBytes s st src dst) := by
  unfold countBytes
  repeat' first
    | with_reducible assumption | with_reducible apply Keeps.ite | with_reducible apply modStope_keeps
    | (simp only [keeps_mk]; with_reducible apply KeepsPM.of) | with_reducible apply Keeps.foldl | (intro _ _ _) | intro _
    | dsimp only | split

theorem landRow_keeps {s₀ s : State} (h₀ : Keeps s₀ s) (st : Nat) (f : Xfer) (h : XRow) (bs : List Byte) :
    Keeps s₀ (landRow s st f h bs).1 := by
  unfold landRow
  try dsimp only
  repeat' first
    | with_reducible assumption | with_reducible apply Keeps.ite | with_reducible apply physWrite_keeps
    | with_reducible apply Keeps.foldl | with_reducible apply Keeps.foldl1 | (intro _ _ _) | intro _ | dsimp only | split

theorem loadRow_keeps {s₀ s : State} (h₀ : Keeps s₀ s) (st : Nat) (f : Xfer) (r : Nat) (bs : List Byte) :
    Keeps s₀ (loadRow s st f r bs) := by
  unfold loadRow
  try dsimp only
  repeat' first
    | with_reducible assumption | with_reducible apply Keeps.ite | with_reducible apply modCrew_keeps
    | (simp only [keeps_mk]; with_reducible apply KeepsPM.of) | intro _ | dsimp only | split

theorem settleAddr_keeps {s₀ s : State} (h₀ : Keeps s₀ s) (pa : Nat) : Keeps s₀ (settleAddr s pa) := by
  unfold settleAddr
  try dsimp only
  repeat' first
    | with_reducible assumption | with_reducible apply settle_keeps | (simp only [keeps_mk]; with_reducible apply KeepsPM.of)
    | dsimp only | split

theorem afterRow_keeps {s₀ s : State} (h₀ : Keeps s₀ s) (st : Nat) (f : Xfer) : Keeps s₀ (afterRow s st f) := by
  unfold afterRow
  try dsimp only
  repeat' first
    | with_reducible assumption | with_reducible apply Keeps.ite | with_reducible apply sendXfer_keeps
    | with_reducible apply setXfer_keeps | (simp only [keeps_mk]; with_reducible apply KeepsPM.of) | intro _ | dsimp only
    | split

theorem countRowStalls_keeps {s₀ s : State} (h₀ : Keeps s₀ s) (st : Nat) (hbm : Nat) (link : Nat) :
    Keeps s₀ (countRowStalls s st hbm link) := by
  unfold countRowStalls
  repeat' first
    | with_reducible assumption | with_reducible apply Keeps.ite | with_reducible apply modStope_keeps
    | (simp only [keeps_mk]; with_reducible apply KeepsPM.of) | intro _ | dsimp only | split

theorem nextTile_keeps {s₀ s : State} (h₀ : Keeps s₀ s) (st : Nat) (f : Xfer) : Keeps s₀ (nextTile s st f) := by
  unfold nextTile
  try dsimp only
  repeat' first
    | with_reducible assumption | with_reducible apply Keeps.ite | with_reducible apply setXfer_keeps
    | with_reducible apply beginTiles_keeps | (simp only [keeps_mk]; with_reducible apply KeepsPM.of) | intro _ | dsimp only
    | split

theorem afterCheck_keeps {s₀ s : State} (h₀ : Keeps s₀ s) (st : Nat) (f : Xfer) : Keeps s₀ (afterCheck s st f) := by
  unfold afterCheck
  try dsimp only
  repeat' first
    | with_reducible assumption | with_reducible apply Keeps.ite | with_reducible apply ResKeeps.ite
    | (with_reducible apply ResKeeps.done) | with_reducible exact ResKeeps.trap _ _ | with_reducible exact ResKeeps.trapOpen _
    | with_reducible exact ResKeeps.held | with_reducible apply ResKeeps.trapAfter | with_reducible apply ResKeeps.trapWith
    | with_reducible apply sendXfer_keeps | with_reducible apply setXfer_keeps | with_reducible apply nextTile_keeps
    | (simp only [keeps_mk]; with_reducible apply KeepsPM.of) | intro _ | dsimp only | split

theorem readAgain_keeps {s₀ s : State} (h₀ : Keeps s₀ s) (st : Nat) (f : Xfer) (r : Nat) (shape : Nat) :
    Keeps s₀ (readAgain s st f r shape) := by
  unfold readAgain
  try dsimp only
  repeat' first
    | with_reducible assumption | with_reducible apply Keeps.ite | with_reducible apply setXfer_keeps
    | with_reducible apply beginTiles_keeps | (simp only [keeps_mk]; with_reducible apply KeepsPM.of) | intro _ | dsimp only
    | split

theorem endEntries_keeps {s₀ s : State} (h₀ : Keeps s₀ s) (st : Nat) (f : Xfer) : Keeps s₀ (endEntries s st f).1 := by
  unfold endEntries
  try dsimp only
  repeat' first
    | with_reducible assumption | with_reducible apply Keeps.ite | with_reducible apply physEntry_keeps
    | (simp only [keeps_mk]; with_reducible apply KeepsPM.of) | with_reducible apply Keeps.foldl
    | with_reducible apply Keeps.foldl1 | (intro _ _ _) | intro _ | dsimp only | split

theorem trmErr_keeps {s₀ s : State} (h₀ : Keeps s₀ s) (st : Nat) : Keeps s₀ (trmErr s st) := by
  unfold trmErr
  repeat' first
    | with_reducible assumption | with_reducible apply modStope_keeps
    | (simp only [keeps_mk]; with_reducible apply KeepsPM.of) | intro _ | dsimp only

theorem writeTrmCtl_keeps {s₀ s : State} (h₀ : Keeps s₀ s) (st : Nat) (v : Nat) : Keeps s₀ (writeTrmCtl s st v) := by
  unfold writeTrmCtl
  try dsimp only
  repeat' first
    | with_reducible assumption | with_reducible apply Keeps.ite | with_reducible apply traceRec_keeps
    | with_reducible apply trmErr_keeps | with_reducible apply modStope_keeps | with_reducible apply putStope_keeps
    | with_reducible apply recountClaim_keeps | (simp only [keeps_mk]; with_reducible apply KeepsPM.of) | intro _ | dsimp only
    | split

theorem quiesceOn_keeps {s₀ s : State} (h₀ : Keeps s₀ s) (st : Nat) : Keeps s₀ (quiesceOn s st) := by
  unfold quiesceOn
  try dsimp only
  repeat' first
    | with_reducible assumption | with_reducible apply Keeps.ite | with_reducible apply putStope_keeps
    | with_reducible apply holdXfer_keeps | (simp only [keeps_mk]; with_reducible apply KeepsPM.of)
    | with_reducible apply Keeps.foldl | (intro _ _ _) | intro _ | dsimp only | split

theorem quiesceOff_keeps {s₀ s : State} (h₀ : Keeps s₀ s) (st : Nat) : Keeps s₀ (quiesceOff s st) := by
  unfold quiesceOff
  repeat' first
    | with_reducible assumption | with_reducible apply modStope_keeps
    | (simp only [keeps_mk]; with_reducible apply KeepsPM.of) | intro _ | dsimp only

theorem endXfers_keeps {s₀ s : State} (h₀ : Keeps s₀ s) (st : Nat) (tag : Nat) : Keeps s₀ (endXfers s st tag) := by
  unfold endXfers
  try dsimp only
  repeat' first
    | with_reducible assumption | with_reducible apply Keeps.ite | with_reducible apply modStope_keeps
    | with_reducible apply recountClaim_keeps | (simp only [keeps_mk]; with_reducible apply KeepsPM.of) | intro _ | dsimp only
    | split

/-! ### Pipeline -/

theorem reachCycle_keeps {s₀ s : State} (h₀ : Keeps s₀ s) (st : Nat) (c : Nat) : Keeps s₀ (reachCycle s st c) := by
  unfold reachCycle
  try dsimp only
  repeat' first
    | with_reducible assumption | with_reducible apply Keeps.ite | with_reducible apply settle_keeps
    | with_reducible apply advance_keeps | intro _ | dsimp only | split

theorem failCheck_keeps {s₀ s : State} (h₀ : Keeps s₀ s) (st : Nat) (c : WCheck) (code : Nat) :
    Keeps s₀ (failCheck s st c code) := by
  unfold failCheck
  repeat' first
    | with_reducible assumption | with_reducible apply faultEvent_keeps | with_reducible apply modStope_keeps | intro _
    | dsimp only

theorem checkEnd_keeps {s₀ s : State} (h₀ : Keeps s₀ s) (st : Nat) (c : WCheck) (glitch : Bool) (r : TileCheck) :
    Keeps s₀ (checkEnd s st c glitch r) := by
  unfold checkEnd
  try dsimp only
  repeat' first
    | with_reducible assumption | with_reducible apply Keeps.ite | with_reducible apply failCheck_keeps
    | with_reducible apply putStope_keeps | (simp only [keeps_mk]; with_reducible apply KeepsPM.of) | intro _ | dsimp only
    | split

theorem retryEnd_keeps {s₀ s : State} (h₀ : Keeps s₀ s) (st : Nat) (c : WCheck) (glitch : Bool) (r : TileCheck) :
    Keeps s₀ (retryEnd s st c glitch r) := by
  unfold retryEnd
  try dsimp only
  repeat' first
    | with_reducible assumption | with_reducible apply failCheck_keeps | with_reducible apply modStope_keeps
    | (simp only [keeps_mk]; with_reducible apply KeepsPM.of) | intro _ | dsimp only | split

theorem retryTile_keeps {s₀ s : State} (h₀ : Keeps s₀ s) (glitch : Bool) (st : Nat) (c : WCheck) :
    Keeps s₀ (retryTile glitch st s c) := by
  unfold retryTile
  try dsimp only
  repeat' first
    | with_reducible assumption | with_reducible apply retryEnd_keeps | with_reducible apply putStope_keeps
    | (simp only [keeps_mk]; with_reducible apply KeepsPM.of) | intro _ | dsimp only

theorem setDensity_keeps {s₀ s : State} (h₀ : Keeps s₀ s) (st : Nat) (d : Nat) : Keeps s₀ (setDensity s st d) := by
  unfold setDensity
  try dsimp only
  repeat' first
    | with_reducible assumption | with_reducible apply Keeps.ite | with_reducible apply traceOpen_keeps
    | with_reducible apply settle_keeps | with_reducible apply modStope_keeps
    | (simp only [keeps_mk]; with_reducible apply KeepsPM.of) | intro _ | dsimp only | split

theorem doSwap_keeps {s₀ s : State} (h₀ : Keeps s₀ s) (st : Nat) : Keeps s₀ (doSwap s st) := by
  unfold doSwap
  try dsimp only
  repeat' first
    | with_reducible assumption | with_reducible apply ungate_keeps | with_reducible apply traceOpen_keeps
    | with_reducible apply raiseEvent_keeps | with_reducible apply modStope_keeps
    | (simp only [keeps_mk]; with_reducible apply KeepsPM.of) | intro _ | dsimp only

theorem cancelSwap_keeps {s₀ s : State} (h₀ : Keeps s₀ s) (st : Nat) : Keeps s₀ (cancelSwap s st) := by
  unfold cancelSwap
  try dsimp only
  repeat' first
    | with_reducible assumption | with_reducible apply Keeps.ite | with_reducible apply ungate_keeps
    | with_reducible apply traceOpen_keeps | with_reducible apply raiseEvent_keeps | with_reducible apply modStope_keeps
    | (simp only [keeps_mk]; with_reducible apply KeepsPM.of) | intro _ | dsimp only | split

/-! ### Overman -/

theorem writeCtxCtl_keeps {s₀ s : State} (h₀ : Keeps s₀ s) (st : Nat) (v : Nat) : Keeps s₀ (writeCtxCtl s st v) := by
  unfold writeCtxCtl
  try dsimp only
  repeat' first
    | with_reducible assumption | with_reducible apply Keeps.ite | with_reducible apply trmErr_keeps
    | with_reducible apply modStope_keeps | with_reducible apply putStope_keeps
    | (simp only [keeps_mk]; with_reducible apply KeepsPM.of) | with_reducible apply Keeps.foldl | (intro _ _ _) | intro _
    | dsimp only | split

theorem ctxFault_keeps {s₀ s : State} (h₀ : Keeps s₀ s) (st : Nat) (cr : Nat) (pa : Nat) (code : Nat) :
    Keeps s₀ (ctxFault s st cr pa code) := by
  unfold ctxFault
  try dsimp only
  repeat' first
    | with_reducible assumption | with_reducible apply modStope_keeps | with_reducible apply xferEvent_keeps
    | (simp only [keeps_mk]; with_reducible apply KeepsPM.of) | intro _ | dsimp only

theorem writeTrace_keeps {s₀ s : State} (h₀ : Keeps s₀ s) (st : Nat) (v : Nat) : Keeps s₀ (writeTrace s st v) := by
  unfold writeTrace
  try dsimp only
  repeat' first
    | with_reducible assumption | with_reducible apply Keeps.ite | with_reducible apply traceRec_keeps | intro _ | dsimp only
    | split

theorem sysWrite_keeps {s₀ s : State} (h₀ : Keeps s₀ s) (st : Nat) (n : Nat) (v : Nat) : Keeps s₀ (sysWrite s st n v) := by
  unfold sysWrite
  try dsimp only
  repeat' first
    | with_reducible assumption | with_reducible apply Keeps.ite | with_reducible apply cancelSwap_keeps
    | with_reducible apply quiesceOff_keeps | with_reducible apply writeTrmCtl_keeps | with_reducible apply modStope_keeps
    | with_reducible apply quiesceOn_keeps | with_reducible apply writeTrace_keeps | with_reducible apply writeCtxCtl_keeps
    | (simp only [keeps_mk]; with_reducible apply KeepsPM.of) | intro _ | dsimp only | split

theorem clearTrace_keeps {s₀ s : State} (h₀ : Keeps s₀ s) (st : Nat) : Keeps s₀ (clearTrace s st) := by
  unfold clearTrace
  try dsimp only
  repeat' first
    | with_reducible assumption | with_reducible apply modStope_keeps | with_reducible apply writeCells_keeps
    | (simp only [keeps_mk]; with_reducible apply KeepsPM.of) | intro _ | dsimp only

theorem privOp_keeps {s₀ s : State} (h₀ : Keeps s₀ s) (st ag : Nat) (w : Word64) (op : Nat) (legal : Bool)
    {body : State → Crew → Nat → IssueRes} (hb : ∀ u k c, Keeps s₀ u → ResKeeps s₀ (body u k c)) :
    Keeps s₀ (privOp st ag w op legal body s) :=
  issue_keeps h₀ _ _ _ _ _ _ _ (fun u c hu => ResKeeps.ite (fun _ => trivial) (fun _ => ResKeeps.ite (fun _ => hb u _ c hu) (fun _ => trivial)))

theorem ovmWrite_keeps {s₀ t : State} (h₀ : Keeps s₀ t) (st : Nat) (c : Nat) (n : Nat) (e : Eff) :
    Keeps s₀ (ovmWrite t st c n e) := by
  unfold ovmWrite
  repeat' first
    | with_reducible assumption | with_reducible apply startWrites_keeps | dsimp only

theorem startCrew_keeps {s₀ s : State} (h₀ : Keeps s₀ s) (st : Nat) (cr : Nat) (pc : Nat) (t : Nat) :
    Keeps s₀ (startCrew s st cr pc t) := by
  unfold startCrew
  try dsimp only
  repeat' first
    | with_reducible assumption | with_reducible apply ungate_keeps | with_reducible apply modStope_keeps
    | (simp only [keeps_mk]; with_reducible apply KeepsPM.of) | intro _ | dsimp only

/-! ### CmdOps -/

theorem tuneStope_keeps {s₀ s : State} (h₀ : Keeps s₀ s) (st : Nat) : Keeps s₀ (tuneStope s st) := by
  unfold tuneStope
  repeat' first
    | with_reducible assumption | with_reducible apply Keeps.ite | with_reducible apply setDensity_keeps | intro _
    | dsimp only | split

theorem putCmd_keeps {s₀ s : State} (h₀ : Keeps s₀ s) (c : Cmd) : Keeps s₀ (putCmd s c) := by
  unfold putCmd
  repeat' first
    | with_reducible assumption | with_reducible apply Keeps.ite | (simp only [keeps_mk]; with_reducible apply KeepsPM.of)
    | intro _ | dsimp only | split

theorem finishCmd_keeps {s₀ s : State} (h₀ : Keeps s₀ s) (c : Cmd) (outcome : Nat) (code : Nat) :
    Keeps s₀ (finishCmd s c outcome code) := by
  unfold finishCmd
  try dsimp only
  repeat' first
    | with_reducible assumption | with_reducible apply Keeps.ite | with_reducible apply putCmd_keeps
    | with_reducible apply traceRec_keeps | with_reducible apply post_keeps | with_reducible apply tuneStope_keeps
    | (simp only [keeps_mk]; with_reducible apply KeepsPM.of) | with_reducible apply Keeps.foldl | (intro _ _ _) | intro _
    | dsimp only | split

theorem unlist_keeps {s₀ s : State} (h₀ : Keeps s₀ s) (st : Nat) (cr : Nat) : Keeps s₀ (unlist s st cr) := by
  unfold unlist
  try dsimp only
  repeat' first
    | with_reducible assumption | with_reducible apply dropWaiters_keeps
    | (simp only [keeps_mk]; with_reducible apply KeepsPM.of) | intro _ | dsimp only | split

theorem endCrews_keeps {s₀ s : State} (h₀ : Keeps s₀ s) (st : Nat) (p : Crew → Bool) : Keeps s₀ (endCrews s st p) := by
  unfold endCrews
  try dsimp only
  repeat' first
    | with_reducible assumption | with_reducible apply Keeps.ite | with_reducible apply ungate_keeps
    | with_reducible apply modStope_keeps | with_reducible apply unlist_keeps
    | (simp only [keeps_mk]; with_reducible apply KeepsPM.of) | with_reducible apply Keeps.foldl | (intro _ _ _) | intro _
    | dsimp only | split

theorem endWork_keeps {s₀ s : State} (h₀ : Keeps s₀ s) (c : Cmd) (st : Nat) : Keeps s₀ (endWork s c st) := by
  unfold endWork
  try dsimp only
  repeat' first
    | with_reducible assumption | with_reducible apply settle_keeps | with_reducible apply endXfers_keeps
    | with_reducible apply modStope_keeps | with_reducible apply endCrews_keeps
    | (simp only [keeps_mk]; with_reducible apply KeepsPM.of) | intro _ | dsimp only

theorem endWorkAll_keeps {s₀ s : State} (h₀ : Keeps s₀ s) (c : Cmd) : Keeps s₀ (endWorkAll s c) := by
  unfold endWorkAll
  repeat' first
    | with_reducible assumption | with_reducible apply endWork_keeps | with_reducible apply Keeps.foldl | (intro _ _ _)
    | intro _ | dsimp only

theorem endSieve_keeps {s₀ s : State} (h₀ : Keeps s₀ s) (tag : Nat) : Keeps s₀ (endSieve s tag) := by
  unfold endSieve
  try dsimp only
  repeat' first
    | with_reducible assumption | with_reducible apply Keeps.ite | with_reducible apply modLevel_keeps
    | with_reducible apply addReport_keeps | (simp only [keeps_mk]; with_reducible apply KeepsPM.of)
    | with_reducible apply Keeps.foldl | (intro _ _ _) | intro _ | dsimp only | split

theorem reportTallies_keeps {s₀ s : State} (h₀ : Keeps s₀ s) (c : Cmd) : Keeps s₀ (reportTallies s c) := by
  unfold reportTallies
  repeat' first
    | with_reducible assumption | with_reducible apply Keeps.ite | with_reducible apply addReport_keeps
    | with_reducible apply Keeps.foldl | with_reducible apply Keeps.foldl1 | (intro _ _ _) | intro _ | dsimp only | split

theorem reportReductions_keeps {s₀ s : State} (h₀ : Keeps s₀ s) (c : Cmd) : Keeps s₀ (reportReductions s c) := by
  unfold reportReductions
  repeat' first
    | with_reducible assumption | with_reducible apply addReport_keeps | with_reducible apply Keeps.foldl
    | with_reducible apply Keeps.foldl1 | (intro _ _ _) | intro _ | dsimp only

theorem endCommand_keeps {s₀ s : State} (h₀ : Keeps s₀ s) (c : Cmd) (code : Nat) (lost : Bool) :
    Keeps s₀ (endCommand s c code lost) := by
  unfold endCommand
  try dsimp only
  repeat' first
    | with_reducible assumption | with_reducible apply endSieve_keeps | with_reducible apply reportTallies_keeps
    | with_reducible apply endWorkAll_keeps | with_reducible apply finishCmd_keeps
    | with_reducible apply reportReductions_keeps | (simp only [keeps_mk]; with_reducible apply KeepsPM.of) | dsimp only

theorem endOnStopes_keeps {s₀ s : State} (h₀ : Keeps s₀ s) (sts : List Nat) (code : Nat) : Keeps s₀ (endOnStopes s sts code) := by
  unfold endOnStopes
  repeat' first
    | with_reducible assumption | with_reducible apply Keeps.ite | with_reducible apply endCommand_keeps
    | with_reducible apply Keeps.foldl | (intro _ _ _) | intro _ | dsimp only | split

theorem endOnLevel_keeps {s₀ s : State} (h₀ : Keeps s₀ s) (n : Nat) (code : Nat) : Keeps s₀ (endOnLevel s n code) := by
  unfold endOnLevel
  repeat' first
    | with_reducible assumption | with_reducible apply Keeps.ite | with_reducible apply endCommand_keeps
    | with_reducible apply Keeps.foldl | (intro _ _ _) | intro _ | dsimp only | split

theorem toBase_keeps {s₀ s : State} (h₀ : Keeps s₀ s) (k : Scope × Nat × Nat) : Keeps s₀ (toBase s k) := by
  unfold toBase
  repeat' first
    | with_reducible assumption | with_reducible apply restoreCount_keeps | dsimp only

theorem failUncorr_keeps {s₀ s : State} (h₀ : Keeps s₀ s) (c : Cmd) : Keeps s₀ (failUncorr s c) := by
  unfold failUncorr
  repeat' first
    | with_reducible assumption | with_reducible apply logOpen_keeps | with_reducible apply endCommand_keeps
    | (simp only [keeps_mk]; with_reducible apply KeepsPM.of) | dsimp only

theorem failCommand_keeps {s₀ s : State} (h₀ : Keeps s₀ s) (tag : Nat) (code : Nat) : Keeps s₀ (failCommand s tag code) := by
  unfold failCommand
  try dsimp only
  repeat' first
    | with_reducible assumption | with_reducible apply endCommand_keeps
    | (simp only [keeps_mk]; with_reducible apply KeepsPM.of) | dsimp only | split

/-! ### Hoist -/

theorem recountStalls_keeps {s₀ s : State} (h₀ : Keeps s₀ s) (n : Nat) : Keeps s₀ (recountStalls s n) := by
  unfold recountStalls
  try dsimp only
  repeat' first
    | with_reducible assumption | with_reducible apply modHoist_keeps
    | (simp only [keeps_mk]; with_reducible apply KeepsPM.of) | intro _ | dsimp only

theorem hoistCtl_keeps {s₀ s : State} (h₀ : Keeps s₀ s) (p : Nat) (o : Out) : Keeps s₀ (hoistCtl s p o) := by
  unfold hoistCtl
  repeat' first
    | with_reducible assumption | with_reducible apply Keeps.ite | with_reducible apply queueItem_keeps
    | (simp only [keeps_mk]; with_reducible apply KeepsPM.of) | intro _ | dsimp only | split

theorem grantCredits_keeps {s₀ s : State} (h₀ : Keeps s₀ s) (k n : Nat) : Keeps s₀ (grantCredits k s n) := by
  induction k generalizing s with
  | zero => exact h₀
  | succ k ih =>
    unfold grantCredits
    split
    · exact h₀
    · exact ih (hoistCtl_keeps (modHoist_keeps h₀ _ _) _ _)

theorem losePorts_keeps {s₀ s : State} (h₀ : Keeps s₀ s) (n : Nat) : Keeps s₀ (losePorts s n) := by
  unfold losePorts
  try dsimp only
  repeat' first
    | with_reducible assumption | with_reducible apply modHoist_keeps
    | (simp only [keeps_mk]; with_reducible apply KeepsPM.of) | intro _ | dsimp only

theorem recountHoist_keeps {s₀ s : State} (h₀ : Keeps s₀ s) (n : Nat) : Keeps s₀ (recountHoist s n) := by
  unfold recountHoist
  try dsimp only
  repeat' first
    | with_reducible assumption | with_reducible apply recountStalls_keeps | with_reducible apply losePorts_keeps
    | with_reducible apply grantCredits_keeps | with_reducible apply Keeps.foldl | (intro _ _ _) | intro _ | dsimp only

theorem recountPorts_keeps {s₀ s : State} (h₀ : Keeps s₀ s) : Keeps s₀ (recountPorts s) := by
  unfold recountPorts
  repeat' first
    | with_reducible assumption | with_reducible apply Keeps.ite | with_reducible apply recountHoist_keeps
    | with_reducible apply Keeps.foldl | (intro _ _ _) | intro _ | dsimp only | split

theorem launchSlice_keeps {s₀ s : State} (h₀ : Keeps s₀ s) (n : Nat) (port : Nat) (m : SliceMsg) :
    Keeps s₀ (launchSlice s n port m) := by
  unfold launchSlice
  try dsimp only
  repeat' first
    | with_reducible assumption | with_reducible apply Keeps.ite | with_reducible apply modHoist_keeps
    | with_reducible apply queueItem_keeps | (simp only [keeps_mk]; with_reducible apply KeepsPM.of) | intro _ | dsimp only
    | split

theorem sendSlice_keeps {s₀ s : State} (h₀ : Keeps s₀ s) (n : Nat) (port : Nat) (m : SliceMsg) :
    Keeps s₀ (sendSlice s n port m) := by
  unfold sendSlice
  repeat' first
    | with_reducible assumption | with_reducible apply Keeps.ite | with_reducible apply modHoist_keeps
    | with_reducible apply launchSlice_keeps | (simp only [keeps_mk]; with_reducible apply KeepsPM.of) | intro _ | dsimp only
    | split

theorem launchWaiting_keeps {s₀ s : State} (h₀ : Keeps s₀ s) (k n port : Nat) : Keeps s₀ (launchWaiting k s n port) := by
  induction k generalizing s with
  | zero => exact h₀
  | succ k ih =>
    unfold launchWaiting
    split
    · exact h₀
    · exact Keeps.ite (fun _ => ih (launchSlice_keeps (modHoist_keeps h₀ _ _) _ _ _)) (fun _ => h₀)

theorem writeResult_keeps {s₀ s : State} (h₀ : Keeps s₀ s) (x : HSlot) (lo : Nat) (data : List Word32) :
    Keeps s₀ (writeResult s x lo data) := by
  unfold writeResult
  try dsimp only
  repeat' first
    | with_reducible assumption | with_reducible apply Keeps.ite | with_reducible apply physEntry_keeps
    | with_reducible apply reportGob_keeps | with_reducible apply failCommand_keeps | with_reducible apply physWrite_keeps
    | with_reducible apply physAbsent_keeps | with_reducible apply Keeps.foldl | with_reducible apply Keeps.foldl1
    | (intro _ _ _) | intro _ | dsimp only | split

theorem dropReduction_keeps {s₀ s : State} (h₀ : Keeps s₀ s) (tag : Nat) (n : Nat) (k : Nat) :
    Keeps s₀ (dropReduction s tag n k) := by
  unfold dropReduction
  repeat' first
    | with_reducible assumption | with_reducible apply Keeps.ite | (simp only [keeps_mk]; with_reducible apply KeepsPM.of)
    | intro _ | dsimp only | split

theorem closeReduction_keeps {s₀ s : State} (h₀ : Keeps s₀ s) (n : Nat) (k : Nat) : Keeps s₀ (closeReduction s n k) := by
  unfold closeReduction
  try dsimp only
  repeat' first
    | with_reducible assumption | with_reducible apply Keeps.ite | with_reducible apply ResKeeps.ite
    | (with_reducible apply ResKeeps.done) | with_reducible exact ResKeeps.trap _ _ | with_reducible exact ResKeeps.trapOpen _
    | with_reducible exact ResKeeps.held | with_reducible apply ResKeeps.trapAfter | with_reducible apply ResKeeps.trapWith
    | with_reducible apply modHoist_keeps | with_reducible apply reportGob_keeps | with_reducible apply failCommand_keeps
    | with_reducible apply physWrite_keeps | with_reducible apply signalOne_keeps | with_reducible apply dropReduction_keeps
    | (simp only [keeps_mk]; with_reducible apply KeepsPM.of) | intro _ | dsimp only | split

theorem takeResult_keeps {s₀ s : State} (h₀ : Keeps s₀ s) (n : Nat) (k : Nat) (m : SliceMsg) : Keeps s₀ (takeResult s n k m) := by
  unfold takeResult
  try dsimp only
  repeat' first
    | with_reducible assumption | with_reducible apply Keeps.ite | with_reducible apply modHoist_keeps
    | with_reducible apply writeResult_keeps | with_reducible apply sendSlice_keeps
    | with_reducible apply closeReduction_keeps | (simp only [keeps_mk]; with_reducible apply KeepsPM.of)
    | with_reducible apply Keeps.foldl | (intro _ _ _) | intro _ | dsimp only | split

theorem forwardSlice_keeps {s₀ s : State} (h₀ : Keeps s₀ s) (n : Nat) (k : Nat) (i : Nat) : Keeps s₀ (forwardSlice s n k i) := by
  unfold forwardSlice
  try dsimp only
  repeat' first
    | with_reducible assumption | with_reducible apply Keeps.ite | with_reducible apply takeResult_keeps
    | with_reducible apply modHoist_keeps | with_reducible apply writeResult_keeps | with_reducible apply sendSlice_keeps
    | (simp only [keeps_mk]; with_reducible apply KeepsPM.of) | intro _ | dsimp only | split

theorem endRing_keeps {s₀ s : State} (h₀ : Keeps s₀ s) (n : Nat) (k : Nat) (i : Nat) : Keeps s₀ (endRing s n k i) := by
  unfold endRing
  try dsimp only
  repeat' first
    | with_reducible assumption | with_reducible apply modHoist_keeps
    | (simp only [keeps_mk]; with_reducible apply KeepsPM.of) | intro _ | dsimp only | split

theorem useSlice_keeps {s₀ s : State} (h₀ : Keeps s₀ s) (n : Nat) (port : Nat) (m : SliceMsg) (r : Nat) (t : Nat) :
    Keeps s₀ (useSlice s n port m r t) := by
  unfold useSlice
  try dsimp only
  repeat' first
    | with_reducible assumption | with_reducible apply Keeps.ite | with_reducible apply takeResult_keeps
    | with_reducible apply modHoist_keeps | (simp only [keeps_mk]; with_reducible apply KeepsPM.of) | intro _ | dsimp only
    | split

theorem takeSlice_keeps {s₀ s : State} (h₀ : Keeps s₀ s) (n : Nat) (port : Nat) (m : SliceMsg) :
    Keeps s₀ (takeSlice s n port m) := by
  unfold takeSlice
  try dsimp only
  repeat' first
    | with_reducible assumption | with_reducible apply Keeps.ite | with_reducible apply modHoist_keeps
    | with_reducible apply useSlice_keeps | (simp only [keeps_mk]; with_reducible apply KeepsPM.of) | intro _ | dsimp only
    | split

theorem receiveSlice_keeps {s₀ s : State} (h₀ : Keeps s₀ s) (n : Nat) (port : Nat) (m : SliceMsg) (fails : Nat) :
    Keeps s₀ (receiveSlice s n port m fails) := by
  unfold receiveSlice
  try dsimp only
  repeat' first
    | with_reducible assumption | with_reducible apply Keeps.ite | with_reducible apply modHoist_keeps
    | with_reducible apply takeSlice_keeps | with_reducible apply logOpen_keeps | with_reducible apply hoistCtl_keeps
    | (simp only [keeps_mk]; with_reducible apply KeepsPM.of) | intro _ | dsimp only | split

theorem loadSlot_keeps {s₀ s : State} (h₀ : Keeps s₀ s) (e : Entry) (tag : Nat) (round : Nat) :
    Keeps s₀ (loadSlot s e tag round) := by
  unfold loadSlot
  try dsimp only
  repeat' first
    | with_reducible assumption | with_reducible apply modHoist_keeps | with_reducible apply useSlice_keeps
    | with_reducible apply recountHoist_keeps | (simp only [keeps_mk]; with_reducible apply KeepsPM.of)
    | with_reducible apply Keeps.foldl | with_reducible apply Keeps.foldl1 | (intro _ _ _) | intro _ | dsimp only

theorem deadlineMark_keeps {s₀ s : State} (h₀ : Keeps s₀ s) (n : Nat) (round : Nat) (phase : Nat) :
    Keeps s₀ (deadlineMark s n round phase) := by
  unfold deadlineMark
  try dsimp only
  repeat' first
    | with_reducible assumption | with_reducible apply Keeps.ite | with_reducible apply modHoist_keeps
    | (simp only [keeps_mk]; with_reducible apply KeepsPM.of) | with_reducible apply Keeps.foldl
    | with_reducible apply Keeps.foldl1 | (intro _ _ _) | intro _ | dsimp only | split

theorem endReduction_keeps {s₀ s : State} (h₀ : Keeps s₀ s) (n : Nat) (k : Nat) : Keeps s₀ (endReduction s n k) := by
  unfold endReduction
  try dsimp only
  repeat' first
    | with_reducible assumption | with_reducible apply Keeps.ite | with_reducible apply modHoist_keeps
    | with_reducible apply modStope_keeps | (simp only [keeps_mk]; with_reducible apply KeepsPM.of)
    | with_reducible apply Keeps.foldl | (intro _ _ _) | intro _ | dsimp only | split

theorem endReductions_keeps {s₀ s : State} (h₀ : Keeps s₀ s) (n : Nat) (r : Nat) : Keeps s₀ (endReductions s n r) := by
  unfold endReductions
  try dsimp only
  repeat' first
    | with_reducible assumption | with_reducible apply modHoist_keeps | with_reducible apply recountHoist_keeps
    | with_reducible apply endReduction_keeps | (simp only [keeps_mk]; with_reducible apply KeepsPM.of)
    | with_reducible apply Keeps.foldl | with_reducible apply Keeps.foldl1 | (intro _ _ _) | intro _ | dsimp only

theorem writeWinCfg_keeps {s₀ s : State} (h₀ : Keeps s₀ s) (n : Nat) (v : Nat) : Keeps s₀ (writeWinCfg s n v) := by
  unfold writeWinCfg
  try dsimp only
  repeat' first
    | with_reducible assumption | with_reducible apply Keeps.ite | with_reducible apply modHoist_keeps
    | with_reducible apply recountHoist_keeps | (simp only [keeps_mk]; with_reducible apply KeepsPM.of) | intro _ | dsimp only
    | split

/-! ### Energy -/

theorem latchMark_keeps {s₀ s : State} (h₀ : Keeps s₀ s) : Keeps s₀ (latchMark s) := by
  unfold latchMark
  repeat' first
    | with_reducible assumption | (simp only [keeps_mk]; with_reducible apply KeepsPM.of) | dsimp only

theorem applyDensity_keeps {s₀ s : State} (h₀ : Keeps s₀ s) : Keeps s₀ (applyDensity s) := by
  unfold applyDensity
  try dsimp only
  repeat' first
    | with_reducible assumption | with_reducible apply Keeps.ite | with_reducible apply tuneStope_keeps
    | (simp only [keeps_mk]; with_reducible apply KeepsPM.of) | with_reducible apply Keeps.foldl | (intro _ _ _) | intro _
    | dsimp only | split

theorem govern_keeps {s₀ s : State} (h₀ : Keeps s₀ s) : Keeps s₀ (govern s) := by
  unfold govern
  try dsimp only
  repeat' first
    | with_reducible assumption | with_reducible apply Keeps.ite | (simp only [keeps_mk]; with_reducible apply KeepsPM.of)
    | intro _ | dsimp only | split

theorem weigh_keeps {s₀ s : State} (h₀ : Keeps s₀ s) : Keeps s₀ (weigh s) := by
  unfold weigh
  repeat' first
    | with_reducible assumption | with_reducible apply Keeps.ite | (simp only [keeps_mk]; with_reducible apply KeepsPM.of)
    | intro _ | dsimp only | split

theorem spend_keeps {s₀ s : State} (h₀ : Keeps s₀ s) (p : Nat) : Keeps s₀ (spend s p) := by
  unfold spend
  try dsimp only
  repeat' first
    | with_reducible assumption | (simp only [keeps_mk]; with_reducible apply KeepsPM.of) | dsimp only

theorem showFigures_keeps {s₀ s : State} (h₀ : Keeps s₀ s) : Keeps s₀ (showFigures s) := by
  unfold showFigures
  repeat' first
    | with_reducible assumption | (simp only [keeps_mk]; with_reducible apply KeepsPM.of) | dsimp only

theorem ledgerTick_keeps {s₀ s : State} (h₀ : Keeps s₀ s) (watts : Nat) : Keeps s₀ (ledgerTick s watts) := by
  unfold ledgerTick
  try dsimp only
  repeat' first
    | with_reducible assumption | with_reducible apply Keeps.ite | with_reducible apply latchMark_keeps
    | with_reducible apply spend_keeps | with_reducible apply applyDensity_keeps | with_reducible apply weigh_keeps
    | with_reducible apply advance_keeps | with_reducible apply govern_keeps | with_reducible apply showFigures_keeps
    | (simp only [keeps_mk]; with_reducible apply KeepsPM.of) | intro _ | dsimp only | split

theorem latchBudget_keeps {s₀ s : State} (h₀ : Keeps s₀ s) : Keeps s₀ (latchBudget s) := by
  unfold latchBudget
  try dsimp only
  repeat' first
    | with_reducible assumption | with_reducible apply Keeps.ite | with_reducible apply latchMark_keeps
    | with_reducible apply spend_keeps | with_reducible apply applyDensity_keeps | with_reducible apply weigh_keeps
    | (simp only [keeps_mk]; with_reducible apply KeepsPM.of) | intro _ | dsimp only | split

/-! ### Rounds -/

theorem fireMark_keeps {s₀ s : State} (h₀ : Keeps s₀ s) (n : Nat) (k : Nat) : Keeps s₀ (fireMark s n k) := by
  unfold fireMark
  try dsimp only
  repeat' first
    | with_reducible assumption | with_reducible apply modLevel_keeps | with_reducible apply deadlineMark_keeps
    | with_reducible apply signalOne_keeps | (simp only [keeps_mk]; with_reducible apply KeepsPM.of) | intro _ | dsimp only
    | split

theorem fireTo_keeps {s₀ s : State} (h₀ : Keeps s₀ s) (round : Nat) (phase : Nat) : Keeps s₀ (fireTo s round phase) := by
  unfold fireTo
  repeat' first
    | with_reducible assumption | with_reducible apply fireMark_keeps | with_reducible apply Keeps.foldl | (intro _ _ _)
    | intro _ | dsimp only

theorem decideRound_keeps {s₀ s : State} (h₀ : Keeps s₀ s) : Keeps s₀ (decideRound s) := by
  unfold decideRound
  try dsimp only
  repeat' first
    | with_reducible assumption | with_reducible apply Keeps.ite | with_reducible apply postNotes_keeps
    | with_reducible apply beginStaging_keeps | (simp only [keeps_mk]; with_reducible apply KeepsPM.of) | intro _ | dsimp only
    | split

theorem fireRelease_keeps {s₀ s : State} (h₀ : Keeps s₀ s) : Keeps s₀ (fireRelease s) := by
  unfold fireRelease
  repeat' first
    | with_reducible assumption | (simp only [keeps_mk]; with_reducible apply KeepsPM.of) | dsimp only

theorem noticeBase_keeps {s₀ s : State} (h₀ : Keeps s₀ s) (k : Scope × Nat × Nat) : Keeps s₀ (noticeBase s k) := by
  unfold noticeBase
  repeat' first
    | with_reducible assumption | with_reducible apply toBase_keeps | with_reducible apply putTally_keeps
    | (simp only [keeps_mk]; with_reducible apply KeepsPM.of) | dsimp only

theorem restoreTallies_keeps {s₀ s : State} (h₀ : Keeps s₀ s) (n : Nat) (here : Scope × Nat × Nat → Bool) :
    Keeps s₀ (restoreTallies s n here) := by
  unfold restoreTallies
  repeat' first
    | with_reducible assumption | with_reducible apply noticeBase_keeps | with_reducible apply Keeps.foldl | (intro _ _ _)
    | dsimp only

theorem dropPut_keeps {s₀ s : State} (h₀ : Keeps s₀ s) (p : Nat) (tag : Nat) (i : Nat) : Keeps s₀ (dropPut s p tag i) := by
  unfold dropPut
  try dsimp only
  repeat' first
    | with_reducible assumption | with_reducible apply modPort_keeps | (simp only [keeps_mk]; with_reducible apply KeepsPM.of)
    | intro _ | dsimp only | split

theorem abortBulk_keeps {s₀ s : State} (h₀ : Keeps s₀ s) (c : Cmd) (h : Nat) : Keeps s₀ (abortBulk s c h) := by
  unfold abortBulk
  try dsimp only
  repeat' first
    | with_reducible assumption | with_reducible apply Keeps.ite | with_reducible apply sendOwn_keeps
    | with_reducible apply dropPut_keeps | (simp only [keeps_mk]; with_reducible apply KeepsPM.of)
    | with_reducible apply Keeps.foldl | (intro _ _ _) | intro _ | dsimp only | split

theorem endVictims_keeps {s₀ s : State} (h₀ : Keeps s₀ s) (n : Nat) (here : Nat → Bool) : Keeps s₀ (endVictims s n here) := by
  unfold endVictims
  repeat' first
    | with_reducible assumption | with_reducible apply settle_keeps | with_reducible apply endCrews_keeps
    | with_reducible apply Keeps.foldl | (intro _ _ _) | intro _ | dsimp only

theorem noticeAt_keeps {s₀ s : State} (h₀ : Keeps s₀ s) (n : Nat) (commit : Bool) (flags : Nat) (b : Block) :
    Keeps s₀ (noticeAt s n commit flags b) := by
  unfold noticeAt
  try dsimp only
  repeat' first
    | with_reducible assumption | with_reducible apply Keeps.ite | with_reducible apply modStack_keeps
    | with_reducible apply endSieve_keeps | with_reducible apply endVictims_keeps | with_reducible apply traceRec_keeps
    | with_reducible apply endWork_keeps | with_reducible apply raiseEvent_keeps | with_reducible apply modLevel_keeps
    | with_reducible apply abortBulk_keeps | with_reducible apply restoreTallies_keeps | with_reducible apply modStope_keeps
    | with_reducible apply endReductions_keeps | with_reducible apply finishCmd_keeps
    | with_reducible apply reportReductions_keeps | (simp only [keeps_mk]; with_reducible apply KeepsPM.of)
    | with_reducible apply Keeps.foldl | with_reducible apply Keeps.foldl1 | (intro _ _ _) | intro _ | dsimp only | split

theorem takeNotice_keeps {s₀ s : State} (h₀ : Keeps s₀ s) (commit : Bool) (b : Block) : Keeps s₀ (takeNotice s commit b) := by
  unfold takeNotice
  try dsimp only
  repeat' first
    | with_reducible assumption | with_reducible apply Keeps.ite | with_reducible apply noticeAt_keeps
    | with_reducible apply endCycle_keeps | (simp only [keeps_mk]; with_reducible apply KeepsPM.of) | intro _ | dsimp only
    | split

theorem restoreGranule_keeps {s₀ s : State} (h₀ : Keeps s₀ s) (k : Nat) (v : Saved) : Keeps s₀ (restoreGranule s k v) := by
  unfold restoreGranule
  try dsimp only
  repeat' first
    | with_reducible assumption | with_reducible apply stageAhead_keeps | with_reducible apply putSideEntry_keeps
    | with_reducible apply writeCells_keeps | intro _ | dsimp only

theorem backfillStack_keeps {s₀ s : State} (h₀ : Keeps s₀ s) (k : Nat) : Keeps s₀ (backfillStack s k) := by
  unfold backfillStack
  try dsimp only
  repeat' first
    | with_reducible assumption | with_reducible apply modStack_keeps | with_reducible apply restoreGranule_keeps
    | (simp only [keeps_mk]; with_reducible apply KeepsPM.of) | with_reducible apply Keeps.foldl | (intro _ _ _) | intro _
    | dsimp only

theorem endBackfill_keeps {s₀ s : State} (h₀ : Keeps s₀ s) : Keeps s₀ (endBackfill s) := by
  unfold endBackfill
  repeat' first
    | with_reducible assumption | with_reducible apply beginStaging_keeps
    | (simp only [keeps_mk]; with_reducible apply KeepsPM.of) | dsimp only

theorem openRound_keeps {s₀ s : State} (h₀ : Keeps s₀ s) (r : Nat) (origin : Int) (len : Nat) :
    Keeps s₀ (openRound s r origin len) := by
  unfold openRound
  try dsimp only
  repeat' first
    | with_reducible assumption | with_reducible apply latchBudget_keeps
    | (simp only [keeps_mk]; with_reducible apply KeepsPM.of) | dsimp only

theorem closeRound_keeps {s₀ s : State} (h₀ : Keeps s₀ s) : Keeps s₀ (closeRound s) := by
  unfold closeRound
  try dsimp only
  repeat' first
    | with_reducible assumption | with_reducible apply Keeps.ite | with_reducible apply fireRelease_keeps
    | with_reducible apply decideRound_keeps | with_reducible apply fireTo_keeps | intro _ | dsimp only | split

theorem freshCount_keeps {s₀ s : State} (h₀ : Keeps s₀ s) : Keeps s₀ (freshCount s) := by
  unfold freshCount
  repeat' first
    | with_reducible assumption | with_reducible apply Keeps.ite | with_reducible apply modStack_keeps
    | (simp only [keeps_mk]; with_reducible apply KeepsPM.of) | with_reducible apply Keeps.foldl | (intro _ _ _) | intro _
    | dsimp only | split

theorem startRound_keeps {s₀ s : State} (h₀ : Keeps s₀ s) (origin : Int) : Keeps s₀ (startRound s origin) := by
  unfold startRound
  try dsimp only
  repeat' first
    | with_reducible assumption | with_reducible apply Keeps.ite | with_reducible apply freshCount_keeps
    | with_reducible apply closeRound_keeps | with_reducible apply openRound_keeps
    | (simp only [keeps_mk]; with_reducible apply KeepsPM.of) | intro _ | dsimp only | split

theorem writeRegion_keeps {s₀ s : State} (h₀ : Keeps s₀ s) (r : Nat) (size : Bool) (v : Nat) :
    Keeps s₀ (writeRegion s r size v) := by
  unfold writeRegion
  try dsimp only
  repeat' first
    | with_reducible assumption | with_reducible apply Keeps.ite | (simp only [keeps_mk]; with_reducible apply KeepsPM.of)
    | intro _ | dsimp only | split

theorem writeGob_keeps {s₀ s : State} (h₀ : Keeps s₀ s) (k : Nat) (ctl : Bool) (v : Nat) : Keeps s₀ (writeGob s k ctl v) := by
  unfold writeGob
  try dsimp only
  repeat' first
    | with_reducible assumption | with_reducible apply Keeps.ite | with_reducible apply modStack_keeps
    | (simp only [keeps_mk]; with_reducible apply KeepsPM.of) | intro _ | dsimp only | split

theorem faultWriter_keeps {s₀ s : State} (h₀ : Keeps s₀ s) (who : Writer) (tag : Nat) (code : Nat) (full : List (Nat × Nat)) :
    Keeps s₀ (faultWriter s who tag code full) := by
  unfold faultWriter
  try dsimp only
  repeat' first
    | with_reducible assumption | with_reducible apply Keeps.ite | with_reducible apply reportGob_keeps
    | with_reducible apply failCommand_keeps | with_reducible apply useFree_keeps | with_reducible apply xferEvent_keeps
    | (simp only [keeps_mk]; with_reducible apply KeepsPM.of) | intro _ | dsimp only | split

theorem hostWrite_keeps {s₀ s : State} (h₀ : Keeps s₀ s) (pa : Nat) (bs : List Byte) : Keeps s₀ (hostWrite s pa bs) := by
  unfold hostWrite
  repeat' first
    | with_reducible assumption | with_reducible apply Keeps.ite | with_reducible apply stackArrive_keeps
    | with_reducible apply absentUnder_keeps | intro _ | dsimp only | split

theorem sendPresence_keeps {s₀ s : State} (h₀ : Keeps s₀ s) (p : Nat) (wire : Nat) (free : Bool) :
    Keeps s₀ (sendPresence s p wire free) := by
  unfold sendPresence
  try dsimp only
  repeat' first
    | with_reducible assumption | with_reducible apply sendCtl_keeps | with_reducible apply useFree_keeps
    | (simp only [keeps_mk]; with_reducible apply KeepsPM.of) | intro _ | dsimp only

theorem locked_keeps {s₀ s : State} (h₀ : Keeps s₀ s) : Keeps s₀ (locked s) := by
  unfold locked
  repeat' first
    | with_reducible assumption | (simp only [keeps_mk]; with_reducible apply KeepsPM.of) | dsimp only

theorem firePassed_keeps {s₀ s : State} (h₀ : Keeps s₀ s) : Keeps s₀ (firePassed s) := by
  unfold firePassed
  try dsimp only
  repeat' first
    | with_reducible assumption | with_reducible apply Keeps.ite | with_reducible apply fireRelease_keeps
    | with_reducible apply decideRound_keeps | with_reducible apply fireTo_keeps | intro _ | dsimp only | split

theorem trimRate_keeps {s₀ s : State} (h₀ : Keeps s₀ s) (err : Int) : Keeps s₀ (trimRate s err) := by
  unfold trimRate
  repeat' first
    | with_reducible assumption | (simp only [keeps_mk]; with_reducible apply KeepsPM.of) | dsimp only

theorem correctPhase_keeps {s₀ s : State} (h₀ : Keeps s₀ s) (err : Int) : Keeps s₀ (correctPhase s err) := by
  unfold correctPhase
  try dsimp only
  repeat' first
    | with_reducible assumption | with_reducible apply Keeps.ite | with_reducible apply firePassed_keeps
    | (simp only [keeps_mk]; with_reducible apply KeepsPM.of) | intro _ | dsimp only | split

theorem skipRounds_keeps {s₀ s : State} (h₀ : Keeps s₀ s) (n : Nat) : Keeps s₀ (skipRounds s n) := by
  induction n generalizing s with
  | zero => exact h₀
  | succ n ih =>
    unfold skipRounds
    exact ih (openRound_keeps (closeRound_keeps h₀) _ _ _)

theorem alignPhase_keeps {s₀ s : State} (h₀ : Keeps s₀ s) : Keeps s₀ (alignPhase s) := by
  unfold alignPhase
  repeat' first
    | with_reducible assumption | (simp only [keeps_mk]; with_reducible apply KeepsPM.of) | dsimp only

theorem beaconBudget_keeps {s₀ s : State} (h₀ : Keeps s₀ s) (b : Beacon) : Keeps s₀ (beaconBudget s b) := by
  unfold beaconBudget
  repeat' first
    | with_reducible assumption | with_reducible apply Keeps.ite | (simp only [keeps_mk]; with_reducible apply KeepsPM.of)
    | intro _ | dsimp only | split

theorem takeBeacon_keeps {s₀ s : State} (h₀ : Keeps s₀ s) (b : Beacon) (r : Nat) (back : Bool) (target : Nat) :
    Keeps s₀ (takeBeacon s b r back target) := by
  unfold takeBeacon
  try dsimp only
  repeat' first
    | with_reducible assumption | with_reducible apply Keeps.ite | with_reducible apply skipRounds_keeps
    | with_reducible apply beaconBudget_keeps | with_reducible apply locked_keeps | with_reducible apply closeRound_keeps
    | with_reducible apply trimRate_keeps | with_reducible apply openRound_keeps | with_reducible apply correctPhase_keeps
    | with_reducible apply firePassed_keeps | with_reducible apply alignPhase_keeps
    | (simp only [keeps_mk]; with_reducible apply KeepsPM.of) | intro _ | dsimp only | split

theorem forwardBeacon_keeps {s₀ s : State} (h₀ : Keeps s₀ s) (b : Beacon) (delay : Nat) : Keeps s₀ (forwardBeacon s b delay) := by
  unfold forwardBeacon
  repeat' first
    | with_reducible assumption | with_reducible apply sendCtl_keeps | with_reducible apply useFree_keeps
    | (simp only [keeps_mk]; with_reducible apply KeepsPM.of) | with_reducible apply Keeps.foldl | (intro _ _ _) | intro _
    | dsimp only

theorem lockedEdge_keeps {s₀ s : State} (h₀ : Keeps s₀ s) : Keeps s₀ (lockedEdge s) := by
  unfold lockedEdge
  repeat' first
    | with_reducible assumption | with_reducible apply locked_keeps | (simp only [keeps_mk]; with_reducible apply KeepsPM.of)
    | dsimp only

/-! ### Resets -/

theorem sendVoid_keeps {s₀ s : State} (h₀ : Keeps s₀ s) (port : Nat) (src : Nat) (qid : Nat) (reason : Nat) :
    Keeps s₀ (sendVoid s port src qid reason) := by
  unfold sendVoid
  repeat' first
    | with_reducible assumption | with_reducible apply sendOwn_keeps | (simp only [keeps_mk]; with_reducible apply KeepsPM.of)
    | dsimp only

theorem putQslot_keeps {s₀ s : State} (h₀ : Keeps s₀ s) (i : Nat) (k : Nat) (q : QSlot) : Keeps s₀ (putQslot s i k q) := by
  unfold putQslot
  repeat' first
    | with_reducible assumption | (simp only [keeps_mk]; with_reducible apply KeepsPM.of) | dsimp only

theorem voidSlot_keeps {s₀ s : State} (h₀ : Keeps s₀ s) (i : Nat) (k : Nat) (reason : Nat) :
    Keeps s₀ (voidSlot s i k reason) := by
  unfold voidSlot
  try dsimp only
  repeat' first
    | with_reducible assumption | with_reducible apply Keeps.ite | with_reducible apply putQslot_keeps
    | with_reducible apply sendVoid_keeps | (simp only [keeps_mk]; with_reducible apply KeepsPM.of) | intro _ | dsimp only
    | split

theorem voidStope_keeps {s₀ s : State} (h₀ : Keeps s₀ s) (i : Nat) (reason : Nat) (clear : Bool) :
    Keeps s₀ (voidStope s i reason clear) := by
  unfold voidStope
  try dsimp only
  repeat' first
    | with_reducible assumption | with_reducible apply Keeps.ite | with_reducible apply voidSlot_keeps
    | with_reducible apply putQslot_keeps | (simp only [keeps_mk]; with_reducible apply KeepsPM.of)
    | with_reducible apply Keeps.foldl | (intro _ _ _) | intro _ | dsimp only | split

theorem voidReserved_keeps {s₀ s : State} (h₀ : Keeps s₀ s) (st : Nat) : Keeps s₀ (voidReserved s st) := by
  unfold voidReserved
  try dsimp only
  repeat' first
    | with_reducible assumption | with_reducible apply voidStope_keeps
    | (simp only [keeps_mk]; with_reducible apply KeepsPM.of) | dsimp only | split

theorem voidEvery_keeps {s₀ s : State} (h₀ : Keeps s₀ s) (reason : Nat) : Keeps s₀ (voidEvery s reason) := by
  unfold voidEvery
  repeat' first
    | with_reducible assumption | with_reducible apply voidStope_keeps | with_reducible apply Keeps.foldl | (intro _ _ _)
    | intro _ | dsimp only

theorem forgetStope_keeps {s₀ s : State} (h₀ : Keeps s₀ s) (st : Nat) : Keeps s₀ (forgetStope s st) := by
  unfold forgetStope
  try dsimp only
  repeat' first
    | with_reducible assumption | with_reducible apply unlist_keeps | (simp only [keeps_mk]; with_reducible apply KeepsPM.of)
    | with_reducible apply Keeps.foldl | (intro _ _ _) | intro _ | dsimp only

theorem clearRange_keeps {s₀ s : State} (h₀ : Keeps s₀ s) (a n : Nat) : Keeps s₀ (clearRange s a n) :=
  h₀.cells rfl (memWf_filter _)

theorem stopeReset_keeps {s₀ s : State} (h₀ : Keeps s₀ s) (st : Nat) : Keeps s₀ (stopeReset s st) := by
  unfold stopeReset
  try dsimp only
  repeat' first
    | with_reducible assumption | with_reducible apply Keeps.ite | with_reducible apply forgetStope_keeps
    | with_reducible apply settle_keeps | with_reducible apply markHold_keeps | with_reducible apply modStope_keeps
    | with_reducible apply clearRange_keeps | with_reducible apply voidReserved_keeps | intro _ | dsimp only | split

theorem stopeAfresh_keeps {s₀ s : State} (h₀ : Keeps s₀ s) (st : Nat) : Keeps s₀ (stopeAfresh s st) := by
  unfold stopeAfresh
  try dsimp only
  repeat' first
    | with_reducible assumption | with_reducible apply Keeps.ite | with_reducible apply forgetStope_keeps
    | with_reducible apply settle_keeps | with_reducible apply modStope_keeps | with_reducible apply clearRange_keeps
    | with_reducible apply voidReserved_keeps | (simp only [keeps_mk]; with_reducible apply KeepsPM.of) | intro _ | dsimp only
    | split

theorem levelReset_keeps {s₀ s : State} (h₀ : Keeps s₀ s) (n : Nat) : Keeps s₀ (levelReset s n) := by
  unfold levelReset
  try dsimp only
  repeat' first
    | with_reducible assumption | with_reducible apply Keeps.ite | with_reducible apply recountHoist_keeps
    | with_reducible apply modLevel_keeps | with_reducible apply stopeAfresh_keeps | with_reducible apply clearRange_keeps
    | (simp only [keeps_mk]; with_reducible apply KeepsPM.of) | with_reducible apply Keeps.foldl | (intro _ _ _) | intro _
    | dsimp only | split

theorem haltStopes_keeps {s₀ s : State} (h₀ : Keeps s₀ s) : Keeps s₀ (haltStopes s) := by
  unfold haltStopes
  try dsimp only
  repeat' first
    | with_reducible assumption | with_reducible apply settle_keeps | with_reducible apply markHold_keeps
    | with_reducible apply modStope_keeps | (simp only [keeps_mk]; with_reducible apply KeepsPM.of)
    | with_reducible apply Keeps.foldl | (intro _ _ _) | intro _ | dsimp only

theorem markStope_keeps {s₀ s : State} (h₀ : Keeps s₀ s) (st : Nat) : Keeps s₀ (markStope s st) := by
  unfold markStope
  try dsimp only
  repeat' first
    | with_reducible assumption | with_reducible apply Keeps.ite | with_reducible apply settle_keeps
    | with_reducible apply markHold_keeps | with_reducible apply modStope_keeps
    | (simp only [keeps_mk]; with_reducible apply KeepsPM.of) | with_reducible apply Keeps.foldl | (intro _ _ _) | intro _
    | dsimp only | split

theorem markMonitors_keeps {s₀ s : State} (h₀ : Keeps s₀ s) : Keeps s₀ (markMonitors s) := by
  unfold markMonitors
  repeat' first
    | with_reducible assumption | with_reducible apply recountStalls_keeps | with_reducible apply markStope_keeps
    | with_reducible apply Keeps.foldl | (intro _ _ _) | dsimp only

theorem setPower_keeps {s₀ s : State} (h₀ : Keeps s₀ s) (p : Power) : Keeps s₀ (setPower s p) := by
  unfold setPower
  repeat' first
    | with_reducible assumption | with_reducible apply Keeps.ite | with_reducible apply stateNote_keeps
    | (simp only [keeps_mk]; with_reducible apply KeepsPM.of) | intro _ | dsimp only | split

/-! ### Commands -/

theorem armDeadline_keeps {s₀ s : State} (h₀ : Keeps s₀ s) (d : Nat × Nat × Nat) : Keeps s₀ (armDeadline s d) := by
  unfold armDeadline
  try dsimp only
  repeat' first
    | with_reducible assumption | with_reducible apply Keeps.ite | with_reducible apply modLevel_keeps
    | (simp only [keeps_mk]; with_reducible apply KeepsPM.of) | intro _ | dsimp only | split

theorem preempt_keeps {s₀ s : State} (h₀ : Keeps s₀ s) (f : Cmd) : Keeps s₀ (preempt s f) := by
  unfold preempt
  try dsimp only
  repeat' first
    | with_reducible assumption | with_reducible apply putCmd_keeps | with_reducible apply raiseEvent_keeps
    | with_reducible apply modStope_keeps | (simp only [keeps_mk]; with_reducible apply KeepsPM.of)
    | with_reducible apply Keeps.foldl | (intro _ _ _) | intro _ | dsimp only

theorem preemptFor_keeps {s₀ s : State} (h₀ : Keeps s₀ s) (c : Cmd) : Keeps s₀ (preemptFor s c) := by
  unfold preemptFor
  repeat' first
    | with_reducible assumption | with_reducible apply Keeps.ite | with_reducible apply preempt_keeps
    | with_reducible apply Keeps.foldl | (intro _ _ _) | intro _ | dsimp only | split

theorem admitCmd_keeps {s₀ s : State} (h₀ : Keeps s₀ s) (c : Cmd) : Keeps s₀ (admitCmd s c) := by
  unfold admitCmd
  try dsimp only
  repeat' first
    | with_reducible assumption | with_reducible apply putCmd_keeps | with_reducible apply loadSlot_keeps
    | with_reducible apply preemptFor_keeps | with_reducible apply armDeadline_keeps
    | (simp only [keeps_mk]; with_reducible apply KeepsPM.of) | with_reducible apply Keeps.foldl | (intro _ _ _) | intro _
    | dsimp only

theorem admitOne_keeps {s₀ s : State} (h₀ : Keeps s₀ s) (c : Cmd) (ecc : Ecc) : Keeps s₀ (admitOne s c ecc) := by
  unfold admitOne
  try dsimp only
  repeat' first
    | with_reducible assumption | with_reducible apply Keeps.ite | with_reducible apply putCmd_keeps
    | with_reducible apply readEcc_keeps | with_reducible apply admitCmd_keeps | with_reducible apply setPower_keeps
    | with_reducible apply logOpen_keeps | with_reducible apply finishCmd_keeps
    | (simp only [keeps_mk]; with_reducible apply KeepsPM.of) | intro _ | dsimp only | split

theorem seedStope_keeps {s₀ s : State} (h₀ : Keeps s₀ s) (st : Nat) (round : Nat) (again : Bool) :
    Keeps s₀ (seedStope s st round again) := by
  unfold seedStope
  try dsimp only
  repeat' first
    | with_reducible assumption | with_reducible apply Keeps.ite | with_reducible apply settle_keeps
    | with_reducible apply modStope_keeps | with_reducible apply modCrew_keeps
    | (simp only [keeps_mk]; with_reducible apply KeepsPM.of) | with_reducible apply Keeps.foldl | (intro _ _ _) | intro _
    | dsimp only | split

theorem launchCrew_keeps {s₀ s : State} (h₀ : Keeps s₀ s) (c : Cmd) (st : Nat) (cr : Nat) : Keeps s₀ (launchCrew c st s cr) := by
  unfold launchCrew
  try dsimp only
  repeat' first
    | with_reducible assumption | with_reducible apply modCrew_keeps | with_reducible apply startCrew_keeps
    | (simp only [keeps_mk]; with_reducible apply KeepsPM.of) | intro _ | dsimp only | split

theorem launchOn_keeps {s₀ s : State} (h₀ : Keeps s₀ s) (c : Cmd) (st : Nat) : Keeps s₀ (launchOn c s st) := by
  unfold launchOn
  repeat' first
    | with_reducible assumption | with_reducible apply launchCrew_keeps | with_reducible apply settle_keeps
    | with_reducible apply Keeps.foldl | (intro _ _ _) | intro _ | dsimp only

theorem queueCopy_keeps {s₀ : State} {r : State × List Nat} (h₀ : Keeps s₀ r.1) (c : Cmd) (st : Nat) :
    Keeps s₀ (queueCopy c r st).1 := by
  unfold queueCopy
  dsimp only
  split
  · exact settle_keeps h₀ _
  · exact putStope_keeps (settle_keeps h₀ _) _ _

theorem queueCopies_keeps {s₀ s : State} (h₀ : Keeps s₀ s) (c : Cmd) : Keeps s₀ (queueCopies s c).1 := by
  unfold queueCopies
  try dsimp only
  repeat' first
    | with_reducible assumption | with_reducible apply Keeps.ite | with_reducible apply queueCopy_keeps
    | (simp only [keeps_mk]; with_reducible apply KeepsPM.of) | with_reducible apply Keeps.foldl
    | with_reducible apply Keeps.foldl1 | (intro _ _ _) | intro _ | dsimp only | split

theorem installStope_keeps {s₀ s : State} (h₀ : Keeps s₀ s) (c : Cmd) (st : Nat) : Keeps s₀ (installStope s c st).1 := by
  unfold installStope
  try dsimp only
  repeat' first
    | with_reducible assumption | with_reducible apply Keeps.ite | with_reducible apply settle_keeps
    | with_reducible apply launchOn_keeps | with_reducible apply doSwap_keeps
    | (simp only [keeps_mk]; with_reducible apply KeepsPM.of) | intro _ | dsimp only | split

/-! ### Sieve -/

theorem settleReads_keeps {s₀ s : State} (h₀ : Keeps s₀ s) (reads : List (Nat × Nat)) : Keeps s₀ (settleReads s reads) := by
  unfold settleReads
  try dsimp only
  repeat' first
    | with_reducible assumption | with_reducible apply settle_keeps | (simp only [keeps_mk]; with_reducible apply KeepsPM.of)
    | with_reducible apply Keeps.foldl | with_reducible apply Keeps.foldl1 | (intro _ _ _) | intro _ | dsimp only | split

theorem writeRow_keeps {s₀ s : State} (h₀ : Keeps s₀ s) (n : Nat) (tag : Nat) (rnd : Nat) (pa : Nat) (bs : List Byte) :
    Keeps s₀ (writeRow s n tag rnd pa bs) := by
  unfold writeRow
  try dsimp only
  repeat' first
    | with_reducible assumption | with_reducible apply Keeps.ite | with_reducible apply reportGob_keeps
    | with_reducible apply physWrite_keeps | with_reducible apply modLevel_keeps | with_reducible apply physAbsent_keeps
    | (simp only [keeps_mk]; with_reducible apply KeepsPM.of) | with_reducible apply Keeps.foldl
    | with_reducible apply Keeps.foldl1 | (intro _ _ _) | intro _ | dsimp only | split

theorem countDiff_keeps {s₀ s : State} (h₀ : Keeps s₀ s) (n : Nat) (r : Nat) (ds : List Nat) : Keeps s₀ (countDiff s n r ds) := by
  unfold countDiff
  try dsimp only
  repeat' first
    | with_reducible assumption | with_reducible apply modLevel_keeps
    | (simp only [keeps_mk]; with_reducible apply KeepsPM.of) | intro _ | dsimp only | split

theorem sieveFail_keeps {s₀ s : State} (h₀ : Keeps s₀ s) (n : Nat) (code : Nat) : Keeps s₀ (sieveFail s n code) := by
  unfold sieveFail
  try dsimp only
  repeat' first
    | with_reducible assumption | with_reducible apply Keeps.ite | with_reducible apply endSieve_keeps
    | with_reducible apply logOpen_keeps | with_reducible apply endCommand_keeps
    | (simp only [keeps_mk]; with_reducible apply KeepsPM.of) | intro _ | dsimp only | split

theorem openJob_keeps {s₀ s : State} (h₀ : Keeps s₀ s) (n : Nat) (ecc : Ecc) : Keeps s₀ (openJob s n ecc) := by
  unfold openJob
  try dsimp only
  repeat' first
    | with_reducible assumption | with_reducible apply Keeps.ite | with_reducible apply settleReads_keeps
    | with_reducible apply modLevel_keeps | with_reducible apply readEcc_keeps | with_reducible apply sieveFail_keeps
    | (simp only [keeps_mk]; with_reducible apply KeepsPM.of) | intro _ | dsimp only | split

theorem nextRow_keeps {s₀ s : State} (h₀ : Keeps s₀ s) (n : Nat) (j : Job) (ecc : Ecc) : Keeps s₀ (nextRow s n j ecc) := by
  unfold nextRow
  try dsimp only
  repeat' first
    | with_reducible assumption | with_reducible apply Keeps.ite | with_reducible apply endSieve_keeps
    | with_reducible apply modLevel_keeps | with_reducible apply openJob_keeps
    | (simp only [keeps_mk]; with_reducible apply KeepsPM.of) | intro _ | dsimp only | split

theorem runRow_keeps {s₀ s : State} (h₀ : Keeps s₀ s) (n : Nat) (j : Job) (rnd : Nat) (ecc : Ecc) :
    Keeps s₀ (runRow s n j rnd ecc) := by
  unfold runRow
  try dsimp only
  repeat' first
    | with_reducible assumption | with_reducible apply Keeps.ite | with_reducible apply settleReads_keeps
    | with_reducible apply nextRow_keeps | with_reducible apply modLevel_keeps | with_reducible apply readEcc_keeps
    | with_reducible apply writeRow_keeps | with_reducible apply countDiff_keeps | with_reducible apply writeCells_keeps
    | with_reducible apply sieveFail_keeps | (simp only [keeps_mk]; with_reducible apply KeepsPM.of)
    | with_reducible apply Keeps.foldl | with_reducible apply Keeps.foldl1 | (intro _ _ _) | intro _ | dsimp only | split

/-! ### Boot -/

theorem resetState_keeps {s₀ s : State} (h₀ : Keeps s₀ s) (cold vauxLost : Bool) : Keeps s₀ (resetState s cold vauxLost) :=
  h₀.cells rfl (fun _ => rfl)

theorem readyChanged_keeps {s₀ s : State} (h₀ : Keeps s₀ s) (e : Endpoint) (f : Faults) : Keeps s₀ (readyChanged s e f) := by
  unfold readyChanged
  try dsimp only
  repeat' first
    | with_reducible assumption | with_reducible apply Keeps.ite | with_reducible apply raiseCause_keeps
    | (simp only [keeps_mk]; with_reducible apply KeepsPM.of) | intro _ | dsimp only | split

theorem bootFail_keeps {s₀ s : State} (h₀ : Keeps s₀ s) (p : Nat) : Keeps s₀ (bootFail s p) := by
  unfold bootFail
  try dsimp only
  repeat' first
    | with_reducible assumption | with_reducible apply modPhys_keeps | with_reducible apply logOpen_keeps
    | (simp only [keeps_mk]; with_reducible apply KeepsPM.of) | intro _ | dsimp only

theorem assignLevel_keeps {s₀ s : State} (h₀ : Keeps s₀ s) (n : Nat) : Keeps s₀ (assignLevel s n) := by
  unfold assignLevel
  try dsimp only
  repeat' first
    | with_reducible assumption | with_reducible apply Keeps.ite | with_reducible apply modPhys_keeps
    | with_reducible apply modLevel_keeps | (simp only [keeps_mk]; with_reducible apply KeepsPM.of)
    | with_reducible apply Keeps.foldl | (intro _ _ _) | intro _ | dsimp only | split

theorem levelPowerUp_keeps {s₀ s : State} (h₀ : Keeps s₀ s) (fails : List Nat) (monFails : List Nat) (n : Nat) :
    Keeps s₀ (levelPowerUp fails monFails s n) := by
  unfold levelPowerUp
  try dsimp only
  repeat' first
    | with_reducible assumption | with_reducible apply Keeps.ite | with_reducible apply assignLevel_keeps
    | with_reducible apply levelReset_keeps | with_reducible apply modLevel_keeps | with_reducible apply logOpen_keeps
    | with_reducible apply bootFail_keeps | (simp only [keeps_mk]; with_reducible apply KeepsPM.of)
    | with_reducible apply Keeps.foldl | (intro _ _ _) | intro _ | dsimp only | split

theorem applyClear_keeps {s₀ s : State} (h₀ : Keeps s₀ s) : Keeps s₀ (applyClear s) := by
  unfold applyClear
  repeat' first
    | with_reducible assumption | with_reducible apply Keeps.ite | (simp only [keeps_mk]; with_reducible apply KeepsPM.of)
    | intro _ | dsimp only | split

theorem applyConf_keeps {s₀ s : State} (h₀ : Keeps s₀ s) (rec : Option (List Byte)) : Keeps s₀ (applyConf s rec) := by
  unfold applyConf
  try dsimp only
  repeat' first
    | with_reducible assumption | with_reducible apply modPort_keeps | with_reducible apply modStack_keeps
    | (simp only [keeps_mk]; with_reducible apply KeepsPM.of) | with_reducible apply Keeps.foldl | (intro _ _ _) | intro _
    | dsimp only | split

theorem noteHalt_keeps {s₀ s : State} (h₀ : Keeps s₀ s) : Keeps s₀ (noteHalt s) := by
  unfold noteHalt
  try dsimp only
  repeat' first
    | with_reducible assumption | with_reducible apply Keeps.ite | with_reducible apply logOpen_keeps
    | (simp only [keeps_mk]; with_reducible apply KeepsPM.of) | intro _ | dsimp only | split

theorem sendNvme_keeps {s₀ s : State} (h₀ : Keeps s₀ s) (drive : Nat) (c : Nvme) (seg : Option Nat) :
    Keeps s₀ (sendNvme s drive c seg) := by
  unfold sendNvme
  repeat' first
    | with_reducible assumption | with_reducible apply emit_keeps | (simp only [keeps_mk]; with_reducible apply KeepsPM.of)
    | dsimp only

theorem identifyDrive_keeps {s₀ s : State} (h₀ : Keeps s₀ s) (i : Nat) (used : Bool) : Keeps s₀ (identifyDrive s i used) := by
  unfold identifyDrive
  repeat' first
    | with_reducible assumption | with_reducible apply Keeps.ite | with_reducible apply emit_keeps
    | with_reducible apply Keeps.foldl | (intro _ _ _) | intro _ | dsimp only | split

theorem readManifest_keeps {s₀ s : State} (h₀ : Keeps s₀ s) (half : Nat) (i : Nat) (x : Slot) :
    Keeps s₀ (readManifest s half i x) := by
  unfold readManifest
  try dsimp only
  repeat' first
    | with_reducible assumption | with_reducible apply Keeps.ite | with_reducible apply emit_keeps | intro _ | dsimp only
    | split

theorem enumerateDrives_keeps {s₀ s : State} (h₀ : Keeps s₀ s) (e : BootEnv) : Keeps s₀ (enumerateDrives s e) := by
  unfold enumerateDrives
  try dsimp only
  repeat' first
    | with_reducible assumption | with_reducible apply Keeps.ite | with_reducible apply readManifest_keeps
    | with_reducible apply identifyDrive_keeps | (simp only [keeps_mk]; with_reducible apply KeepsPM.of)
    | with_reducible apply Keeps.foldl | with_reducible apply Keeps.foldl1 | (intro _ _ _) | intro _ | dsimp only | split

theorem failLane_keeps {s₀ s : State} (h₀ : Keeps s₀ s) (l : Nat) : Keeps s₀ (failLane s l) := by
  unfold failLane
  try dsimp only
  repeat' first
    | with_reducible assumption | with_reducible apply modPort_keeps | with_reducible apply logOpen_keeps
    | (simp only [keeps_mk]; with_reducible apply KeepsPM.of) | intro _ | dsimp only

theorem failPc_keeps {s₀ s : State} (h₀ : Keeps s₀ s) (x : Nat × Nat) : Keeps s₀ (failPc s x) := by
  unfold failPc
  try dsimp only
  repeat' first
    | with_reducible assumption | with_reducible apply Keeps.ite | with_reducible apply modStack_keeps
    | with_reducible apply logOpen_keeps | (simp only [keeps_mk]; with_reducible apply KeepsPM.of) | intro _ | dsimp only
    | split

theorem beginBoot_keeps {s₀ s : State} (h₀ : Keeps s₀ s) (bootSel : Nat) : Keeps s₀ (beginBoot s bootSel) := by
  unfold beginBoot
  repeat' first
    | with_reducible assumption | (simp only [keeps_mk]; with_reducible apply KeepsPM.of) | dsimp only

theorem startAon_keeps {s₀ s : State} (h₀ : Keeps s₀ s) : Keeps s₀ (startAon s) := by
  unfold startAon
  repeat' first
    | with_reducible assumption | (simp only [keeps_mk]; with_reducible apply KeepsPM.of) | dsimp only

theorem startFirmware_keeps {s₀ s : State} (h₀ : Keeps s₀ s) (e : BootEnv) : Keeps s₀ (startFirmware s e) := by
  unfold startFirmware
  try dsimp only
  repeat' first
    | with_reducible assumption | with_reducible apply Keeps.ite | with_reducible apply applyClear_keeps
    | with_reducible apply applyConf_keeps | with_reducible apply noteHalt_keeps
    | (simp only [keeps_mk]; with_reducible apply KeepsPM.of) | intro _ | dsimp only | split

theorem startMailbox_keeps {s₀ s : State} (h₀ : Keeps s₀ s) : Keeps s₀ (startMailbox s) := by
  unfold startMailbox
  try dsimp only
  repeat' first
    | with_reducible assumption | with_reducible apply readyChanged_keeps
    | (simp only [keeps_mk]; with_reducible apply KeepsPM.of) | dsimp only

theorem deviceReset_keeps {s₀ s : State} (h₀ : Keeps s₀ s) (e : BootEnv) : Keeps s₀ (deviceReset s e) := by
  unfold deviceReset
  repeat' first
    | with_reducible assumption | with_reducible apply resetState_keeps | with_reducible apply beginBoot_keeps | dsimp only

/-! ### Uason -/

theorem repeatCaps_keeps {s₀ s : State} (h₀ : Keeps s₀ s) (p : Nat) : Keeps s₀ (repeatCaps s p) := by
  unfold repeatCaps
  try dsimp only
  repeat' first
    | with_reducible assumption | with_reducible apply Keeps.ite | with_reducible apply sendRaw_keeps | intro _ | dsimp only
    | split

theorem dropPort_keeps {s₀ s : State} (h₀ : Keeps s₀ s) (p : Nat) : Keeps s₀ (dropPort s p) := by
  unfold dropPort
  repeat' first
    | with_reducible assumption | with_reducible apply modPort_keeps | with_reducible apply recountPorts_keeps
    | with_reducible apply repeatCaps_keeps | dsimp only

theorem linkDown_keeps {s₀ s : State} (h₀ : Keeps s₀ s) (p : Nat) : Keeps s₀ (linkDown s p) := by
  unfold linkDown
  repeat' first
    | with_reducible assumption | with_reducible apply dropPort_keeps | with_reducible apply logOpen_keeps
    | (simp only [keeps_mk]; with_reducible apply KeepsPM.of) | dsimp only

theorem startTraining_keeps {s₀ s : State} (h₀ : Keeps s₀ s) (p : Nat) : Keeps s₀ (startTraining s p) := by
  unfold startTraining
  try dsimp only
  repeat' first
    | with_reducible assumption | with_reducible apply modPort_keeps | with_reducible apply sendRaw_keeps
    | (simp only [keeps_mk]; with_reducible apply KeepsPM.of) | intro _ | dsimp only

theorem retrain_keeps {s₀ s : State} (h₀ : Keeps s₀ s) (p : Nat) : Keeps s₀ (retrain s p) := by
  unfold retrain
  try dsimp only
  repeat' first
    | with_reducible assumption | with_reducible apply modPort_keeps | with_reducible apply sendRaw_keeps
    | (simp only [keeps_mk]; with_reducible apply KeepsPM.of) | intro _ | dsimp only

theorem resumePort_keeps {s₀ s : State} (h₀ : Keeps s₀ s) (p : Nat) : Keeps s₀ (resumePort s p) := by
  unfold resumePort
  repeat' first
    | with_reducible assumption | with_reducible apply launchWaiting_keeps | with_reducible apply recountPorts_keeps
    | with_reducible apply sendOn_keeps | with_reducible apply Keeps.foldl | (intro _ _ _) | intro _ | dsimp only

theorem writeUasCfg_keeps {s₀ s : State} (h₀ : Keeps s₀ s) (p : Nat) (v : Word32) : Keeps s₀ (writeUasCfg s p v) := by
  unfold writeUasCfg
  try dsimp only
  repeat' first
    | with_reducible assumption | with_reducible apply Keeps.ite | with_reducible apply dropPort_keeps
    | with_reducible apply modPort_keeps | (simp only [keeps_mk]; with_reducible apply KeepsPM.of) | intro _ | dsimp only
    | split

theorem takeCaps_keeps {s₀ s : State} (h₀ : Keeps s₀ s) (p : Nat) (c : Caps) : Keeps s₀ (takeCaps s p c) := by
  unfold takeCaps
  try dsimp only
  repeat' first
    | with_reducible assumption | with_reducible apply Keeps.ite | with_reducible apply dropPort_keeps
    | with_reducible apply modPort_keeps | with_reducible apply repeatCaps_keeps | with_reducible apply sendRaw_keeps
    | (simp only [keeps_mk]; with_reducible apply KeepsPM.of) | intro _ | dsimp only | split

theorem countRaw_keeps {s₀ s : State} (h₀ : Keeps s₀ s) (p : Nat) : Keeps s₀ (countRaw s p) := by
  unfold countRaw
  repeat' first
    | with_reducible assumption | with_reducible apply modPort_keeps | (simp only [keeps_mk]; with_reducible apply KeepsPM.of)
    | intro _ | dsimp only

theorem resendAll_keeps {s₀ s : State} (h₀ : Keeps s₀ s) (p : Nat) : Keeps s₀ (resendAll s p) := by
  unfold resendAll
  try dsimp only
  repeat' first
    | with_reducible assumption | with_reducible apply Keeps.ite | with_reducible apply modPort_keeps
    | with_reducible apply sendRaw_keeps | (simp only [keeps_mk]; with_reducible apply KeepsPM.of) | intro _ | dsimp only
    | split

theorem checkLanes_keeps {s₀ s : State} (h₀ : Keeps s₀ s) (p : Nat) : Keeps s₀ (checkLanes s p) := by
  unfold checkLanes
  try dsimp only
  repeat' first
    | with_reducible assumption | with_reducible apply Keeps.ite | with_reducible apply sendCtl_keeps
    | with_reducible apply modPort_keeps | with_reducible apply linkDown_keeps
    | (simp only [keeps_mk]; with_reducible apply KeepsPM.of) | intro _ | dsimp only | split

theorem dropLane_keeps {s₀ s : State} (h₀ : Keeps s₀ s) (p : Nat) (l : Nat) : Keeps s₀ (dropLane s p l) := by
  unfold dropLane
  try dsimp only
  repeat' first
    | with_reducible assumption | with_reducible apply modPort_keeps | with_reducible apply logOpen_keeps
    | (simp only [keeps_mk]; with_reducible apply KeepsPM.of) | intro _ | dsimp only

theorem countCorrections_keeps {s₀ s : State} (h₀ : Keeps s₀ s) (p : Nat) (f : Flit) : Keeps s₀ (countCorrections s p f) := by
  unfold countCorrections
  try dsimp only
  repeat' first
    | with_reducible assumption | with_reducible apply modPort_keeps | (simp only [keeps_mk]; with_reducible apply KeepsPM.of)
    | with_reducible apply Keeps.foldl | with_reducible apply Keeps.foldl1 | (intro _ _ _) | intro _ | dsimp only

theorem resendFrom_keeps {s₀ s : State} (h₀ : Keeps s₀ s) (p : Nat) (ack : Nat) : Keeps s₀ (resendFrom s p ack) := by
  unfold resendFrom
  repeat' first
    | with_reducible assumption | with_reducible apply modPort_keeps | with_reducible apply resendAll_keeps
    | with_reducible apply sendOn_keeps | intro _ | dsimp only

theorem refuseFlit_keeps {s₀ s : State} (h₀ : Keeps s₀ s) (p : Nat) (bad : Bool) : Keeps s₀ (refuseFlit s p bad) := by
  unfold refuseFlit
  try dsimp only
  repeat' first
    | with_reducible assumption | with_reducible apply Keeps.ite | with_reducible apply sendCtl_keeps
    | with_reducible apply modPort_keeps | with_reducible apply retrain_keeps
    | (simp only [keeps_mk]; with_reducible apply KeepsPM.of) | intro _ | dsimp only | split

theorem startWake_keeps {s₀ s : State} (h₀ : Keeps s₀ s) : Keeps s₀ (startWake s) := by
  unfold startWake
  repeat' first
    | with_reducible assumption | with_reducible apply Keeps.ite | (simp only [keeps_mk]; with_reducible apply KeepsPM.of)
    | intro _ | dsimp only | split

theorem setBulk_keeps {s₀ s : State} (h₀ : Keeps s₀ s) (c : Cmd) (i : Nat) (st : Nat) : Keeps s₀ (setBulk s c i st) := by
  unfold setBulk
  try dsimp only
  repeat' first
    | with_reducible assumption | with_reducible apply Keeps.ite | with_reducible apply putCmd_keeps
    | (simp only [keeps_mk]; with_reducible apply KeepsPM.of) | intro _ | dsimp only | split

theorem signalDone_keeps {s₀ s : State} (h₀ : Keeps s₀ s) (c : Cmd) (b : Bulk) (p : Nat) : Keeps s₀ (signalDone s c b p) := by
  unfold signalDone
  try dsimp only
  repeat' first
    | with_reducible assumption | with_reducible apply ResKeeps.ite | (with_reducible apply ResKeeps.done)
    | with_reducible exact ResKeeps.trap _ _ | with_reducible exact ResKeeps.trapOpen _ | with_reducible exact ResKeeps.held
    | with_reducible apply ResKeeps.trapAfter | with_reducible apply ResKeeps.trapWith | with_reducible apply signalOne_keeps
    | (simp only [keeps_mk]; with_reducible apply KeepsPM.of) | dsimp only | split

theorem sendPut_keeps {s₀ s : State} (h₀ : Keeps s₀ s) (p : Nat) (c : Cmd) (i : Nat) (b : Bulk) :
    Keeps s₀ (sendPut s p c i b) := by
  unfold sendPut
  repeat' first
    | with_reducible assumption | with_reducible apply sendOwn_keeps | with_reducible apply Keeps.foldl | (intro _ _ _)
    | intro _ | dsimp only

theorem sendBulkAck_keeps {s₀ s : State} (h₀ : Keeps s₀ s) (p : Nat) (m : FabMsg) (refused : Bool) :
    Keeps s₀ (sendBulkAck s p m refused) := by
  unfold sendBulkAck
  repeat' first
    | with_reducible assumption | with_reducible apply Keeps.ite | with_reducible apply sendOwn_keeps
    | (simp only [keeps_mk]; with_reducible apply KeepsPM.of) | intro _ | dsimp only | split

theorem landPut_keeps {s₀ s : State} (h₀ : Keeps s₀ s) (pa : Nat) (data : List Byte) (entries : List Byte) :
    Keeps s₀ (landPut s pa data entries) := by
  unfold landPut
  try dsimp only
  repeat' first
    | with_reducible assumption | with_reducible apply Keeps.ite | with_reducible apply stackArrive_keeps
    | with_reducible apply physEntry_keeps | with_reducible apply physAbsent_keeps | with_reducible apply Keeps.foldl
    | with_reducible apply Keeps.foldl1 | (intro _ _ _) | intro _ | dsimp only | split

/-! ### Query -/

theorem deliverQuery_keeps {s₀ s : State} (h₀ : Keeps s₀ s) (p : Nat) (m : FabMsg) (cls : Nat) (i : Nat) (k : Nat) :
    Keeps s₀ (deliverQuery s p m cls i k) := by
  unfold deliverQuery
  try dsimp only
  repeat' first
    | with_reducible assumption | with_reducible apply settle_keeps | with_reducible apply writeBytes_keeps
    | with_reducible apply putQslot_keeps | with_reducible apply signalOne_keeps
    | (simp only [keeps_mk]; with_reducible apply KeepsPM.of) | dsimp only

theorem voidLate_keeps {s₀ s : State} (h₀ : Keeps s₀ s) (i : Nat) (k : Nat) : Keeps s₀ (voidLate s i k) := by
  unfold voidLate
  repeat' first
    | with_reducible assumption | with_reducible apply voidSlot_keeps | dsimp only

/-! ### Faults -/

theorem countHit_keeps {s₀ s : State} (h₀ : Keeps s₀ s) (p : Nat) : Keeps s₀ (countHit s p) := by
  unfold countHit
  repeat' first
    | with_reducible assumption | with_reducible apply modPhys_keeps | (simp only [keeps_mk]; with_reducible apply KeepsPM.of)
    | intro _ | dsimp only

theorem countRecord_keeps {s₀ s : State} (h₀ : Keeps s₀ s) (r : List Byte) : Keeps s₀ (countRecord s r) := by
  unfold countRecord
  try dsimp only
  repeat' first
    | with_reducible assumption | with_reducible apply Keeps.ite | with_reducible apply countHit_keeps
    | (simp only [keeps_mk]; with_reducible apply KeepsPM.of) | intro _ | dsimp only | split

theorem becomeAbsent_keeps {s₀ s : State} (h₀ : Keeps s₀ s) (st : Nat) : Keeps s₀ (becomeAbsent s st) := by
  unfold becomeAbsent
  repeat' first
    | with_reducible assumption | with_reducible apply stateNote_keeps | with_reducible apply endCommand_keeps
    | with_reducible apply Keeps.foldl | (intro _ _ _) | intro _ | dsimp only

theorem nextReserve_keeps {s₀ s : State} (h₀ : Keeps s₀ s) (st : Nat) (seq : Nat) : Keeps s₀ (nextReserve s st seq) := by
  unfold nextReserve
  try dsimp only
  repeat' first
    | with_reducible assumption | with_reducible apply Keeps.ite | with_reducible apply modPhys_keeps
    | with_reducible apply becomeAbsent_keeps | (simp only [keeps_mk]; with_reducible apply KeepsPM.of) | intro _ | dsimp only
    | split

theorem markRetired_keeps {s₀ s : State} (h₀ : Keeps s₀ s) (p : Nat) : Keeps s₀ (markRetired s p) := by
  unfold markRetired
  try dsimp only
  repeat' first
    | with_reducible assumption | with_reducible apply Keeps.ite | with_reducible apply modPhys_keeps
    | (simp only [keeps_mk]; with_reducible apply KeepsPM.of) | intro _ | dsimp only | split

theorem emptyStope_keeps {s₀ s : State} (h₀ : Keeps s₀ s) (st : Nat) : Keeps s₀ (emptyStope s st) := by
  unfold emptyStope
  try dsimp only
  repeat' first
    | with_reducible assumption | with_reducible apply modStope_keeps | with_reducible apply clearRange_keeps
    | (simp only [keeps_mk]; with_reducible apply KeepsPM.of) | intro _ | dsimp only

theorem retireStope_keeps {s₀ s : State} (h₀ : Keeps s₀ s) (p : Nat) : Keeps s₀ (retireStope s p) := by
  unfold retireStope
  try dsimp only
  repeat' first
    | with_reducible assumption | with_reducible apply Keeps.ite | with_reducible apply stateNote_keeps
    | with_reducible apply endOnStopes_keeps | with_reducible apply emptyStope_keeps | with_reducible apply logOpen_keeps
    | with_reducible apply nextReserve_keeps | with_reducible apply markRetired_keeps | with_reducible apply stopeReset_keeps
    | (simp only [keeps_mk]; with_reducible apply KeepsPM.of) | intro _ | dsimp only | split

theorem testFailed_keeps {s₀ s : State} (h₀ : Keeps s₀ s) (p : Nat) : Keeps s₀ (testFailed s p) := by
  unfold testFailed
  try dsimp only
  repeat' first
    | with_reducible assumption | with_reducible apply modPhys_keeps | with_reducible apply logOpen_keeps
    | (simp only [keeps_mk]; with_reducible apply KeepsPM.of) | intro _ | dsimp only

theorem failTest_keeps {s₀ s : State} (h₀ : Keeps s₀ s) (p : Nat) : Keeps s₀ (failTest s p) := by
  unfold failTest
  repeat' first
    | with_reducible assumption | with_reducible apply Keeps.ite | with_reducible apply retireStope_keeps
    | with_reducible apply testFailed_keeps | with_reducible apply markRetired_keeps | intro _ | dsimp only | split

theorem failTests_keeps {s₀ s : State} (h₀ : Keeps s₀ s) (ps : List Nat) : Keeps s₀ (failTests s ps) := by
  unfold failTests
  try dsimp only
  repeat' first
    | with_reducible assumption | with_reducible apply failTest_keeps | with_reducible apply Keeps.foldl | (intro _ _ _)
    | intro _ | dsimp only

theorem resetWholeLevel_keeps {s₀ s : State} (h₀ : Keeps s₀ s) (n : Nat) : Keeps s₀ (resetWholeLevel s n) := by
  unfold resetWholeLevel
  repeat' first
    | with_reducible assumption | with_reducible apply levelReset_keeps | with_reducible apply endOnLevel_keeps | dsimp only

theorem startPcRetire_keeps {s₀ s : State} (h₀ : Keeps s₀ s) (k : Nat) (pc : Nat) : Keeps s₀ (startPcRetire s k pc) := by
  unfold startPcRetire
  try dsimp only
  repeat' first
    | with_reducible assumption | with_reducible apply Keeps.ite | with_reducible apply modStack_keeps
    | with_reducible apply logOpen_keeps | (simp only [keeps_mk]; with_reducible apply KeepsPM.of) | intro _ | dsimp only
    | split

theorem testGranule_keeps {s₀ s : State} (h₀ : Keeps s₀ s) (pa : Nat) (bad : Bool) : Keeps s₀ (testGranule s pa bad) := by
  unfold testGranule
  try dsimp only
  repeat' first
    | with_reducible assumption | with_reducible apply retireStope_keeps | with_reducible apply startPcRetire_keeps
    | (simp only [keeps_mk]; with_reducible apply KeepsPM.of) | dsimp only | split

theorem beginTakeover_keeps {s₀ s : State} (h₀ : Keeps s₀ s) (h : Nat) : Keeps s₀ (beginTakeover s h) := by
  unfold beginTakeover
  try dsimp only
  repeat' first
    | with_reducible assumption | with_reducible apply Keeps.ite | with_reducible apply useFree_keeps | with_reducible apply readyChanged_keeps
    | with_reducible apply advance_keeps | (simp only [keeps_mk]; with_reducible apply KeepsPM.of) | intro _ | dsimp only
    | split

theorem endTakeover_keeps {s₀ s : State} (h₀ : Keeps s₀ s) (h : Nat) : Keeps s₀ (endTakeover s h) := by
  unfold endTakeover
  try dsimp only
  repeat' first
    | with_reducible assumption | with_reducible apply openNote_keeps | with_reducible apply readyChanged_keeps
    | with_reducible apply restartDrain_keeps | with_reducible apply logOpen_keeps | with_reducible apply handleEvent_keeps
    | (simp only [keeps_mk]; with_reducible apply KeepsPM.of) | with_reducible apply Keeps.foldl | (intro _ _ _) | dsimp only

theorem haltPort_keeps {s₀ s : State} (h₀ : Keeps s₀ s) (p : Nat) : Keeps s₀ (haltPort s p) := by
  unfold haltPort
  try dsimp only
  repeat' first
    | with_reducible assumption | with_reducible apply dropPort_keeps | with_reducible apply toVigilLane_keeps
    | (simp only [keeps_mk]; with_reducible apply KeepsPM.of) | dsimp only | split

theorem enterHalt_keeps {s₀ s : State} (h₀ : Keeps s₀ s) (h : Nat) (cause : Nat) : Keeps s₀ (enterHalt s h cause) := by
  unfold enterHalt
  try dsimp only
  repeat' first
    | with_reducible assumption | with_reducible apply Keeps.ite | with_reducible apply setAlert_keeps
    | with_reducible apply readyChanged_keeps | with_reducible apply levelReset_keeps | with_reducible apply haltStopes_keeps
    | with_reducible apply snapAbort_keeps | with_reducible apply haltPort_keeps | with_reducible apply raiseCause_keeps
    | with_reducible apply voidEvery_keeps | (simp only [keeps_mk]; with_reducible apply KeepsPM.of)
    | with_reducible apply Keeps.foldl | (intro _ _ _) | intro _ | dsimp only | split

/-! ### Power -/

theorem vigilPort_keeps {s₀ s : State} (h₀ : Keeps s₀ s) (p : Nat) : Keeps s₀ (vigilPort s p) := by
  unfold vigilPort
  try dsimp only
  repeat' first
    | with_reducible assumption | with_reducible apply dropPort_keeps | with_reducible apply toVigilLane_keeps
    | (simp only [keeps_mk]; with_reducible apply KeepsPM.of) | dsimp only | split

theorem vigilState_keeps {s₀ s : State} (h₀ : Keeps s₀ s) : Keeps s₀ (vigilState s) := by
  unfold vigilState
  dsimp only
  refine readyChanged_keeps ?_ _ _
  have h : Keeps s₀ ((List.range 12).foldl vigilPort (voidEvery (endCycle (setPower s .vigil)) 6)) :=
    Keeps.foldl (voidEvery_keeps (endCycle_keeps (setPower_keeps h₀ _)) _) (fun u x hu => vigilPort_keeps hu x)
  generalize List.foldl vigilPort _ _ = u at h ⊢
  exact ⟨(resetState_keeps h false false).1, (resetState_keeps h false false).2⟩

theorem dozeState_keeps {s₀ s : State} (h₀ : Keeps s₀ s) : Keeps s₀ (dozeState s) := by
  unfold dozeState
  try dsimp only
  repeat' first
    | with_reducible assumption | with_reducible apply readyChanged_keeps | with_reducible apply levelReset_keeps
    | with_reducible apply setPower_keeps | (simp only [keeps_mk]; with_reducible apply KeepsPM.of)
    | with_reducible apply Keeps.foldl | (intro _ _ _) | dsimp only

theorem wakeDoze_keeps {s₀ s : State} (h₀ : Keeps s₀ s) : Keeps s₀ (wakeDoze s) := by
  unfold wakeDoze
  try dsimp only
  repeat' first
    | with_reducible assumption | with_reducible apply readyChanged_keeps | with_reducible apply levelReset_keeps
    | with_reducible apply setPower_keeps | (simp only [keeps_mk]; with_reducible apply KeepsPM.of)
    | with_reducible apply Keeps.foldl | (intro _ _ _) | dsimp only

theorem wakeLane_keeps {s₀ s : State} (h₀ : Keeps s₀ s) (p : Nat) : Keeps s₀ (wakeLane s p) := by
  unfold wakeLane
  try dsimp only
  repeat' first
    | with_reducible assumption | with_reducible apply Keeps.ite | with_reducible apply modPort_keeps
    | with_reducible apply sendRaw_keeps | (simp only [keeps_mk]; with_reducible apply KeepsPM.of) | intro _ | dsimp only
    | split

theorem runStep_keeps {s₀ s : State} (h₀ : Keeps s₀ s) (e : BootEnv) (x : BootStep) : Keeps s₀ (runStep s e x) := by
  unfold runStep
  try dsimp only
  repeat' first
    | with_reducible assumption | with_reducible apply Keeps.ite | with_reducible apply readyChanged_keeps
    | with_reducible apply levelPowerUp_keeps | with_reducible apply failLane_keeps | with_reducible apply failPc_keeps
    | with_reducible apply startAon_keeps | with_reducible apply startMailbox_keeps | with_reducible apply setPower_keeps
    | with_reducible apply startFirmware_keeps | with_reducible apply wakeLane_keeps
    | with_reducible apply enumerateDrives_keeps | with_reducible apply clearRange_keeps
    | (simp only [keeps_mk]; with_reducible apply KeepsPM.of) | with_reducible apply Keeps.foldl | (intro _ _ _) | intro _
    | dsimp only | split

theorem bootOn_keeps {s₀ s : State} (h₀ : Keeps s₀ s) (e : BootEnv) (x : BootStep) (rest : List BootStep) :
    Keeps s₀ (bootOn s e x rest) := by
  unfold bootOn
  repeat' first
    | with_reducible assumption | with_reducible apply Keeps.ite | with_reducible apply runStep_keeps
    | with_reducible apply advance_keeps | (simp only [keeps_mk]; with_reducible apply KeepsPM.of) | intro _ | dsimp only
    | split

theorem countQuench_keeps {s₀ s : State} (h₀ : Keeps s₀ s) : Keeps s₀ (countQuench s) := by
  unfold countQuench
  repeat' first
    | with_reducible assumption | (simp only [keeps_mk]; with_reducible apply KeepsPM.of) | dsimp only

theorem dropForQuench_keeps {s₀ s : State} (h₀ : Keeps s₀ s) : Keeps s₀ (dropForQuench s) := by
  unfold dropForQuench
  repeat' first
    | with_reducible assumption | with_reducible apply Keeps.ite | (simp only [keeps_mk]; with_reducible apply KeepsPM.of)
    | intro _ | dsimp only | split

theorem fillRecordMemory_keeps {s₀ s : State} (h₀ : Keeps s₀ s) : Keeps s₀ (fillRecordMemory s) := by
  unfold fillRecordMemory
  repeat' first
    | with_reducible assumption | (simp only [keeps_mk]; with_reducible apply KeepsPM.of) | dsimp only

theorem noteQuench_keeps {s₀ s : State} (h₀ : Keeps s₀ s) (code : Nat) : Keeps s₀ (noteQuench s code) := by
  unfold noteQuench
  try dsimp only
  repeat' first
    | with_reducible assumption | with_reducible apply Keeps.ite | with_reducible apply setAlert_keeps
    | with_reducible apply stateNote_keeps | with_reducible apply haltStopes_keeps
    | with_reducible apply fillRecordMemory_keeps | with_reducible apply logOpen_keeps | with_reducible apply voidEvery_keeps
    | (simp only [keeps_mk]; with_reducible apply KeepsPM.of) | intro _ | dsimp only | split

theorem markQuenched_keeps {s₀ s : State} (h₀ : Keeps s₀ s) : Keeps s₀ (markQuenched s) := by
  unfold markQuenched
  repeat' first
    | with_reducible assumption | (simp only [keeps_mk]; with_reducible apply KeepsPM.of) | dsimp only

theorem quenchDevice_keeps {s₀ s : State} (h₀ : Keeps s₀ s) (code : Nat) : Keeps s₀ (quenchDevice s code) := by
  unfold quenchDevice
  try dsimp only
  repeat' first
    | with_reducible assumption | with_reducible apply readyChanged_keeps | with_reducible apply noteQuench_keeps
    | with_reducible apply snapAbort_keeps | with_reducible apply markQuenched_keeps
    | with_reducible apply dropForQuench_keeps | with_reducible apply resetWholeLevel_keeps
    | with_reducible apply countQuench_keeps | (simp only [keeps_mk]; with_reducible apply KeepsPM.of)
    | with_reducible apply Keeps.foldl | (intro _ _ _) | dsimp only

theorem quenchDark_keeps {s₀ s : State} (h₀ : Keeps s₀ s) : Keeps s₀ (quenchDark s) := by
  unfold quenchDark
  try dsimp only
  repeat' first
    | with_reducible assumption | with_reducible apply Keeps.ite | with_reducible apply setAlert_keeps
    | with_reducible apply countQuench_keeps | (simp only [keeps_mk]; with_reducible apply KeepsPM.of) | intro _ | dsimp only
    | split

theorem startQuench_keeps {s₀ s : State} (h₀ : Keeps s₀ s) (code : Nat) : Keeps s₀ (startQuench s code) := by
  unfold startQuench
  repeat' first
    | with_reducible assumption | with_reducible apply Keeps.ite | with_reducible apply setAlert_keeps
    | with_reducible apply quenchDark_keeps | with_reducible apply quenchDevice_keeps | with_reducible apply countQuench_keeps
    | intro _ | dsimp only | split

theorem backfillQuenched_keeps {s₀ s : State} (h₀ : Keeps s₀ s) : Keeps s₀ (backfillQuenched s) := by
  unfold backfillQuenched
  try dsimp only
  repeat' first
    | with_reducible assumption | with_reducible apply Keeps.ite | with_reducible apply modStack_keeps
    | with_reducible apply backfillStack_keeps | (simp only [keeps_mk]; with_reducible apply KeepsPM.of)
    | with_reducible apply Keeps.foldl | (intro _ _ _) | intro _ | dsimp only | split

theorem heldInReset_keeps {s₀ s : State} (h₀ : Keeps s₀ s) : Keeps s₀ (heldInReset s) := by
  unfold heldInReset
  repeat' first
    | with_reducible assumption | with_reducible apply startAon_keeps
    | (simp only [keeps_mk]; with_reducible apply KeepsPM.of) | dsimp only

theorem pinLow_keeps {s₀ s : State} (h₀ : Keeps s₀ s) (lowNs : Nat) (held : Bool) : Keeps s₀ (pinLow s lowNs held) := by
  unfold pinLow
  repeat' first
    | with_reducible assumption | with_reducible apply Keeps.ite | (simp only [keeps_mk]; with_reducible apply KeepsPM.of)
    | intro _ | dsimp only | split

theorem clockLost_keeps {s₀ s : State} (h₀ : Keeps s₀ s) (p : Nat) : Keeps s₀ (clockLost s p) := by
  unfold clockLost
  try dsimp only
  repeat' first
    | with_reducible assumption | with_reducible apply dropPort_keeps | with_reducible apply linkDown_keeps
    | (simp only [keeps_mk]; with_reducible apply KeepsPM.of) | dsimp only | split

/-! ### Mailbox -/

theorem writeReqTail_keeps {s₀ s : State} (h₀ : Keeps s₀ s) (m : Nat) (v : Nat) : Keeps s₀ (writeReqTail s m v) := by
  unfold writeReqTail
  try dsimp only
  repeat' first
    | with_reducible assumption | with_reducible apply Keeps.ite | with_reducible apply putMbx_keeps
    | (simp only [keeps_mk]; with_reducible apply KeepsPM.of) | intro _ | dsimp only | split

theorem writeRspHead_keeps {s₀ s : State} (h₀ : Keeps s₀ s) (m : Nat) (v : Nat) : Keeps s₀ (writeRspHead s m v) := by
  unfold writeRspHead
  try dsimp only
  repeat' first
    | with_reducible assumption | with_reducible apply Keeps.ite | with_reducible apply putMbx_keeps
    | with_reducible apply postPending_keeps | (simp only [keeps_mk]; with_reducible apply KeepsPM.of) | intro _ | dsimp only
    | split

theorem flushMbx_keeps {s₀ s : State} (h₀ : Keeps s₀ s) (m : Nat) : Keeps s₀ (flushMbx s m) := by
  unfold flushMbx
  repeat' first
    | with_reducible assumption | with_reducible apply Keeps.ite | with_reducible apply modMbx_keeps
    | (simp only [keeps_mk]; with_reducible apply KeepsPM.of) | intro _ | dsimp only | split

theorem consume_keeps {s₀ s : State} (h₀ : Keeps s₀ s) (m : Nat) : Keeps s₀ (consume s m) := by
  unfold consume
  repeat' first
    | with_reducible assumption | with_reducible apply modMbx_keeps | (simp only [keeps_mk]; with_reducible apply KeepsPM.of)
    | intro _ | dsimp only

theorem reply_keeps {s₀ s : State} (h₀ : Keeps s₀ s) (m : Nat) (typ : Nat) (version : Nat) (status : Nat) (tag : Nat) (epoch : Nat) (r : Req) (payload : List Byte) :
    Keeps s₀ (reply s m typ version status tag epoch r payload) := by
  unfold reply
  repeat' first
    | with_reducible assumption | with_reducible apply post_keeps | (simp only [keeps_mk]; with_reducible apply KeepsPM.of)
    | dsimp only

theorem request_keeps {s₀ s : State} (h₀ :
    Keeps s₀ s) (m typ minVer : Nat) (about : Nat × Nat) (r : Req) {check : State → Nat × List Byte}
    {act : State → State} (ha : ∀ u, Keeps s₀ u → Keeps s₀ (act u)) : Keeps s₀ (request s m typ minVer about r check act) := by
  unfold request
  dsimp only
  refine Keeps.ite (fun _ => h₀) (fun _ => ?_)
  split
  · exact reply_keeps (consume_keeps h₀ _) _ _ _ _ _ _ _ _
  · exact Keeps.ite (fun _ => ha _ (reply_keeps (consume_keeps h₀ _) _ _ _ _ _ _ _ _)) (fun _ => reply_keeps (consume_keeps h₀ _) _ _ _ _ _ _ _ _)

theorem openReply_keeps {s₀ s : State} (h₀ : Keeps s₀ s) (m : Nat) (msg : Msg) : Keeps s₀ (openReply s m msg) := by
  unfold openReply
  repeat' first
    | with_reducible assumption | with_reducible apply postPending_keeps | with_reducible apply post_keeps | dsimp only

theorem acceptCmd_keeps {s₀ s : State} (h₀ : Keeps s₀ s) (m : Nat) (d : Desc) (epoch : Nat) :
    Keeps s₀ (acceptCmd s m d epoch) := by
  unfold acceptCmd
  try dsimp only
  repeat' first
    | with_reducible assumption | (simp only [keeps_mk]; with_reducible apply KeepsPM.of) | dsimp only

theorem acceptAll_keeps {s₀ s : State} (h₀ : Keeps s₀ s) (m : Nat) (r : Req) : Keeps s₀ (acceptAll s m r) := by
  unfold acceptAll
  try dsimp only
  repeat' first
    | with_reducible assumption | with_reducible apply modMbx_keeps | with_reducible apply acceptCmd_keeps
    | (simp only [keeps_mk]; with_reducible apply KeepsPM.of) | with_reducible apply Keeps.foldl | (intro _ _ _) | intro _
    | dsimp only

theorem writeBudget_keeps {s₀ s : State} (h₀ : Keeps s₀ s) (v : Nat) : Keeps s₀ (writeBudget s v) := by
  unfold writeBudget
  repeat' first
    | with_reducible assumption | (simp only [keeps_mk]; with_reducible apply KeepsPM.of) | dsimp only

theorem powerRequest_keeps {s₀ s : State} (h₀ : Keeps s₀ s) (m : Nat) (r : Req) (value : Nat) {check : State → Bool}
    {act : State → State} (ha : ∀ u, Keeps s₀ u → Keeps s₀ (act u)) : Keeps s₀ (powerRequest s m r value check act) :=
  Keeps.ite (fun _ => h₀) (fun _ => request_keeps h₀ _ _ _ _ _ ha)

theorem resetRequest_keeps {s₀ s : State} (h₀ : Keeps s₀ s) (m : Nat) (r : Req) (kind : Nat) {ok : Nat → Bool}
    {act : State → Nat → State} (ha : ∀ u n, Keeps s₀ u → Keeps s₀ (act u n)) : Keeps s₀ (resetRequest s m r kind ok act) :=
  Keeps.ite (fun _ => h₀) (fun _ => request_keeps h₀ _ _ _ _ _ (fun u hu => ha u _ hu))

theorem resetLevelNow_keeps {s₀ s : State} (h₀ : Keeps s₀ s) (fails : List Nat) (n : Nat) :
    Keeps s₀ (resetLevelNow fails s n) := by
  unfold resetLevelNow
  try dsimp only
  repeat' first
    | with_reducible assumption | with_reducible apply resetWholeLevel_keeps | with_reducible apply failTests_keeps | intro _
    | dsimp only

theorem setRecovery_keeps {s₀ s : State} (h₀ : Keeps s₀ s) (on : Bool) : Keeps s₀ (setRecovery s on) := by
  unfold setRecovery
  try dsimp only
  repeat' first
    | with_reducible assumption | with_reducible apply readyChanged_keeps | with_reducible apply markMonitors_keeps
    | (simp only [keeps_mk]; with_reducible apply KeepsPM.of) | dsimp only

theorem recoveryRequest_keeps {s₀ s : State} (h₀ : Keeps s₀ s) (m : Nat) (r : Req) (value : Nat) :
    Keeps s₀ (recoveryRequest s m r value) := by
  unfold recoveryRequest
  repeat' first
    | with_reducible assumption | with_reducible apply Keeps.ite | with_reducible apply request_keeps
    | with_reducible apply setRecovery_keeps | intro _ | dsimp only | split

/-! ### Snapshot -/

theorem startSnap_keeps {s₀ s : State} (h₀ : Keeps s₀ s) (pa : Nat) (r : Nat) : Keeps s₀ (startSnap s pa r) := by
  unfold startSnap
  try dsimp only
  repeat' first
    | with_reducible assumption | with_reducible apply Keeps.ite | with_reducible apply beginStaging_keeps
    | with_reducible apply snapEnd_keeps | (simp only [keeps_mk]; with_reducible apply KeepsPM.of) | intro _ | dsimp only
    | split

theorem drainPhase_keeps {s₀ s : State} (h₀ : Keeps s₀ s) (p : Nat) : Keeps s₀ (drainPhase s p) := by
  unfold drainPhase
  repeat' first
    | with_reducible assumption | (simp only [keeps_mk]; with_reducible apply KeepsPM.of) | dsimp only

theorem readOld_keeps {s₀ s : State} (h₀ : Keeps s₀ s) : Keeps s₀ (readOld s) := by
  unfold readOld
  try dsimp only
  repeat' first
    | with_reducible assumption | with_reducible apply Keeps.ite | with_reducible apply drainPhase_keeps
    | with_reducible apply sendNvme_keeps | (simp only [keeps_mk]; with_reducible apply KeepsPM.of) | intro _ | dsimp only
    | split

theorem zeroHeader_keeps {s₀ s : State} (h₀ : Keeps s₀ s) : Keeps s₀ (zeroHeader s) := by
  unfold zeroHeader
  try dsimp only
  repeat' first
    | with_reducible assumption | with_reducible apply drainPhase_keeps | with_reducible apply sendNvme_keeps
    | (simp only [keeps_mk]; with_reducible apply KeepsPM.of) | dsimp only

theorem drainSegment_keeps {s₀ s : State} (h₀ : Keeps s₀ s) (g : Segm × DiskSeg) : Keeps s₀ (drainSegment s g) := by
  unfold drainSegment
  try dsimp only
  repeat' first
    | with_reducible assumption | with_reducible apply Keeps.ite | with_reducible apply sendNvme_keeps
    | (simp only [keeps_mk]; with_reducible apply KeepsPM.of) | intro _ | dsimp only | split

theorem flushDrives_keeps {s₀ s : State} (h₀ : Keeps s₀ s) : Keeps s₀ (flushDrives s) := by
  unfold flushDrives
  repeat' first
    | with_reducible assumption | with_reducible apply drainPhase_keeps | with_reducible apply sendNvme_keeps
    | with_reducible apply Keeps.foldl | (intro _ _ _) | intro _ | dsimp only

theorem writeBody_keeps {s₀ s : State} (h₀ : Keeps s₀ s) : Keeps s₀ (writeBody s) := by
  unfold writeBody
  try dsimp only
  repeat' first
    | with_reducible assumption | with_reducible apply drainPhase_keeps | with_reducible apply sendNvme_keeps
    | (simp only [keeps_mk]; with_reducible apply KeepsPM.of) | dsimp only

theorem writeHeader_keeps {s₀ s : State} (h₀ : Keeps s₀ s) : Keeps s₀ (writeHeader s) := by
  unfold writeHeader
  try dsimp only
  repeat' first
    | with_reducible assumption | with_reducible apply drainPhase_keeps | with_reducible apply sendNvme_keeps | dsimp only

theorem finishDrain_keeps {s₀ s : State} (h₀ : Keeps s₀ s) : Keeps s₀ (finishDrain s) := by
  unfold finishDrain
  try dsimp only
  repeat' first
    | with_reducible assumption | with_reducible apply useFree_keeps | with_reducible apply snapEnd_keeps
    | (simp only [keeps_mk]; with_reducible apply KeepsPM.of) | dsimp only

theorem nextDrain_keeps {s₀ s : State} (h₀ : Keeps s₀ s) : Keeps s₀ (nextDrain s) := by
  unfold nextDrain
  try dsimp only
  repeat' first
    | with_reducible assumption | with_reducible apply flushDrives_keeps | with_reducible apply zeroHeader_keeps
    | with_reducible apply drainPhase_keeps | with_reducible apply writeHeader_keeps | with_reducible apply writeBody_keeps
    | with_reducible apply readOld_keeps | with_reducible apply sendNvme_keeps
    | (simp only [keeps_mk]; with_reducible apply KeepsPM.of) | dsimp only | split

theorem drainStep_keeps {s₀ s : State} (h₀ : Keeps s₀ s) : Keeps s₀ (drainStep s) := by
  unfold drainStep
  try dsimp only
  repeat' first
    | with_reducible assumption | with_reducible apply Keeps.ite | with_reducible apply nextDrain_keeps
    | with_reducible apply drainSegment_keeps | (simp only [keeps_mk]; with_reducible apply KeepsPM.of) | intro _ | dsimp only
    | split

theorem dropSaves_keeps {s₀ s : State} (h₀ : Keeps s₀ s) (k : Nat) (g : Nat) : Keeps s₀ (dropSaves s k g) := by
  unfold dropSaves
  repeat' first
    | with_reducible assumption | with_reducible apply modStack_keeps
    | (simp only [keeps_mk]; with_reducible apply KeepsPM.of) | intro _ | dsimp only

theorem restoreCell_keeps {s₀ s : State} (h₀ : Keeps s₀ s) (e : Nat × List Host.Cell × Word64) : Keeps s₀ (restoreCell s e) := by
  unfold restoreCell
  try dsimp only
  repeat' first
    | with_reducible assumption | with_reducible apply stackArrive_keeps | with_reducible apply physEntry_keeps
    | with_reducible apply dropSaves_keeps | (simp only [keeps_mk]; with_reducible apply KeepsPM.of) | intro _ | dsimp only
    | split

theorem finishRestore_keeps {s₀ s : State} (h₀ : Keeps s₀ s) : Keeps s₀ (finishRestore s) := by
  unfold finishRestore
  try dsimp only
  repeat' first
    | with_reducible assumption | with_reducible apply stackArrive_keeps | with_reducible apply snapEnd_keeps
    | with_reducible apply restoreCell_keeps | with_reducible apply Keeps.foldl | with_reducible apply Keeps.foldl1
    | (intro _ _ _) | intro _ | dsimp only

theorem sendSegRead_keeps {s₀ s : State} (h₀ : Keeps s₀ s) (x : Slot) (i : Nat) : Keeps s₀ (sendSegRead x s i) := by
  unfold sendSegRead
  try dsimp only
  repeat' first
    | with_reducible assumption | with_reducible apply sendNvme_keeps
    | (simp only [keeps_mk]; with_reducible apply KeepsPM.of) | dsimp only | split

theorem judgeRestore_keeps {s₀ s : State} (h₀ : Keeps s₀ s) : Keeps s₀ (judgeRestore s) := by
  unfold judgeRestore
  try dsimp only
  repeat' first
    | with_reducible assumption | with_reducible apply Keeps.ite | with_reducible apply finishRestore_keeps
    | with_reducible apply sendSegRead_keeps | with_reducible apply snapEnd_keeps
    | (simp only [keeps_mk]; with_reducible apply KeepsPM.of) | with_reducible apply Keeps.foldl | (intro _ _ _) | intro _
    | dsimp only | split

theorem startRestore_keeps {s₀ s : State} (h₀ : Keeps s₀ s) (slot : Nat) (mask : Nat) (foreignOk : Bool) (unsignedOk : Bool) :
    Keeps s₀ (startRestore s slot mask foreignOk unsignedOk) := by
  unfold startRestore
  try dsimp only
  repeat' first
    | with_reducible assumption | with_reducible apply sendNvme_keeps
    | (simp only [keeps_mk]; with_reducible apply KeepsPM.of) | dsimp only

theorem readSegment_keeps {s₀ s : State} (h₀ : Keeps s₀ s) (i : Nat) (disturbed : Bool) :
    Keeps s₀ (readSegment s i disturbed) := by
  unfold readSegment
  try dsimp only
  repeat' first
    | with_reducible assumption | with_reducible apply Keeps.ite | with_reducible apply finishRestore_keeps
    | with_reducible apply sendSegRead_keeps | with_reducible apply snapEnd_keeps
    | (simp only [keeps_mk]; with_reducible apply KeepsPM.of) | intro _ | dsimp only | split

theorem mediaError_keeps {s₀ s : State} (h₀ : Keeps s₀ s) : Keeps s₀ (mediaError s) := by
  unfold mediaError
  repeat' first
    | with_reducible assumption | with_reducible apply snapEnd_keeps | dsimp only

theorem nvmeDone_keeps {s₀ s : State} (h₀ : Keeps s₀ s) (w : NvmeJob) (disturbed : Bool) : Keeps s₀ (nvmeDone s w disturbed) := by
  unfold nvmeDone
  try dsimp only
  repeat' first
    | with_reducible assumption | with_reducible apply Keeps.ite | with_reducible apply finishDrain_keeps
    | with_reducible apply readSegment_keeps | with_reducible apply judgeRestore_keeps
    | (simp only [keeps_mk]; with_reducible apply KeepsPM.of) | intro _ | dsimp only | split

theorem foremanWrite_keeps {s₀ s : State} (h₀ : Keeps s₀ s) (pa : Nat) (bs : List Byte) : Keeps s₀ (foremanWrite s pa bs) := by
  unfold foremanWrite
  repeat' first
    | with_reducible assumption | with_reducible apply physWrite_keeps | dsimp only

/-! ### Registers -/

theorem clearFlags_keeps {s₀ s : State} (h₀ : Keeps s₀ s) (sc : Scope) (unit : Nat) (first : Nat) (n : Nat) (v : Nat) (under : Bool) :
    Keeps s₀ (clearFlags s sc unit first n v under) := by
  unfold clearFlags
  repeat' first
    | with_reducible assumption | with_reducible apply Keeps.ite | with_reducible apply putTally_keeps
    | with_reducible apply Keeps.foldl | (intro _ _ _) | intro _ | dsimp only | split

theorem writeIntMask_keeps {s₀ s : State} (h₀ : Keeps s₀ s) (v : Nat) : Keeps s₀ (writeIntMask s v) := by
  unfold writeIntMask
  try dsimp only
  repeat' first
    | with_reducible assumption | with_reducible apply Keeps.ite | with_reducible apply sendVector_keeps
    | with_reducible apply coverSlots_keeps | (simp only [keeps_mk]; with_reducible apply KeepsPM.of)
    | with_reducible apply Keeps.foldl | (intro _ _ _) | intro _ | dsimp only | split

theorem writeMbxCtl_keeps {s₀ s : State} (h₀ : Keeps s₀ s) (m : Nat) (v : Nat) : Keeps s₀ (writeMbxCtl s m v) := by
  unfold writeMbxCtl
  try dsimp only
  repeat' first
    | with_reducible assumption | with_reducible apply Keeps.ite | with_reducible apply modMbx_keeps
    | with_reducible apply flushMbx_keeps | (simp only [keeps_mk]; with_reducible apply KeepsPM.of) | intro _ | dsimp only
    | split

theorem hostPut_keeps {s₀ s : State} (h₀ : Keeps s₀ s) (o : Nat) (v : Nat) : Keeps s₀ (hostPut s o v) := by
  unfold hostPut
  try dsimp only
  repeat' first
    | with_reducible assumption | with_reducible apply Keeps.ite | with_reducible apply modMbx_keeps
    | with_reducible apply writeReqTail_keeps | with_reducible apply writeMbxCtl_keeps
    | with_reducible apply writeRspHead_keeps | with_reducible apply writeIntMask_keeps
    | (simp only [keeps_mk]; with_reducible apply KeepsPM.of) | intro _ | dsimp only | split

theorem markPut_keeps {s₀ s : State} (h₀ : Keeps s₀ s) (n : Nat) (o : Nat) (v : Nat) : Keeps s₀ (markPut s n o v) := by
  unfold markPut
  try dsimp only
  repeat' first
    | with_reducible assumption | with_reducible apply Keeps.ite | with_reducible apply modLevel_keeps
    | (simp only [keeps_mk]; with_reducible apply KeepsPM.of) | intro _ | dsimp only | split

theorem landCtl_keeps {s₀ s : State} (h₀ : Keeps s₀ s) (w : Nat) (v : Nat) : Keeps s₀ (landCtl s w v) := by
  unfold landCtl
  try dsimp only
  repeat' first
    | with_reducible assumption | (simp only [keeps_mk]; with_reducible apply KeepsPM.of) | dsimp only | split

theorem hdfPut_keeps {s₀ s : State} (h₀ : Keeps s₀ s) (o : Nat) (v : Nat) : Keeps s₀ (hdfPut s o v) := by
  unfold hdfPut
  try dsimp only
  repeat' first
    | with_reducible assumption | with_reducible apply Keeps.ite | with_reducible apply recountPorts_keeps
    | with_reducible apply setFabId_keeps | with_reducible apply landCtl_keeps
    | (simp only [keeps_mk]; with_reducible apply KeepsPM.of) | intro _ | dsimp only | split

theorem writeRndCfg_keeps {s₀ s : State} (h₀ : Keeps s₀ s) (v : Nat) : Keeps s₀ (writeRndCfg s v) := by
  unfold writeRndCfg
  repeat' first
    | with_reducible assumption | with_reducible apply Keeps.ite | (simp only [keeps_mk]; with_reducible apply KeepsPM.of)
    | intro _ | dsimp only | split

theorem writeLength_keeps {s₀ s : State} (h₀ : Keeps s₀ s) (v : Nat) : Keeps s₀ (writeLength s v) := by
  unfold writeLength
  try dsimp only
  repeat' first
    | with_reducible assumption | with_reducible apply Keeps.ite | (simp only [keeps_mk]; with_reducible apply KeepsPM.of)
    | intro _ | dsimp only | split

theorem writeRndCtl_keeps {s₀ s : State} (h₀ : Keeps s₀ s) (v : Nat) : Keeps s₀ (writeRndCtl s v) := by
  unfold writeRndCtl
  repeat' first
    | with_reducible assumption | with_reducible apply Keeps.ite | (simp only [keeps_mk]; with_reducible apply KeepsPM.of)
    | intro _ | dsimp only | split

theorem rndPut_keeps {s₀ s : State} (h₀ : Keeps s₀ s) (o : Nat) (v : Nat) : Keeps s₀ (rndPut s o v) := by
  unfold rndPut
  try dsimp only
  repeat' first
    | with_reducible assumption | with_reducible apply Keeps.ite | with_reducible apply writeRegion_keeps
    | with_reducible apply writeGob_keeps | with_reducible apply writeRndCtl_keeps | with_reducible apply writeRndCfg_keeps
    | with_reducible apply writeLength_keeps | (simp only [keeps_mk]; with_reducible apply KeepsPM.of) | intro _ | dsimp only
    | split

theorem nrgPut_keeps {s₀ s : State} (h₀ : Keeps s₀ s) (o : Nat) (v : Nat) : Keeps s₀ (nrgPut s o v) := by
  unfold nrgPut
  try dsimp only
  repeat' first
    | with_reducible assumption | with_reducible apply writeBudget_keeps
    | (simp only [keeps_mk]; with_reducible apply KeepsPM.of) | dsimp only | split

theorem regPut_keeps {s₀ s : State} (h₀ : Keeps s₀ s) (b : Blk) (o : Nat) (v : Nat) : Keeps s₀ (regPut s b o v) := by
  unfold regPut
  try dsimp only
  repeat' first
    | with_reducible assumption | with_reducible apply Keeps.ite | with_reducible apply modHoist_keeps
    | with_reducible apply modPort_keeps | with_reducible apply writeCount_keeps | with_reducible apply clearFlags_keeps
    | with_reducible apply clearTrace_keeps | with_reducible apply markPut_keeps | with_reducible apply writeUasCfg_keeps
    | with_reducible apply nrgPut_keeps | with_reducible apply hdfPut_keeps | with_reducible apply modStope_keeps
    | with_reducible apply hostPut_keeps | with_reducible apply rndPut_keeps | with_reducible apply writeWinCfg_keeps
    | (simp only [keeps_mk]; with_reducible apply KeepsPM.of) | intro _ | dsimp only | split

theorem winError_keeps {s₀ s : State} (h₀ : Keeps s₀ s) : Keeps s₀ (winError s) := by
  unfold winError
  repeat' first
    | with_reducible assumption | (simp only [keeps_mk]; with_reducible apply KeepsPM.of) | dsimp only

theorem writeWord_keeps {s₀ s : State} (h₀ : Keeps s₀ s) (window : Bool) (b : Blk) (o : Nat) (v : Nat) :
    Keeps s₀ (writeWord s window b o v) := by
  unfold writeWord
  try dsimp only
  repeat' first
    | with_reducible assumption | with_reducible apply Keeps.ite | with_reducible apply winError_keeps
    | with_reducible apply regPut_keeps | (simp only [keeps_mk]; with_reducible apply KeepsPM.of) | intro _ | dsimp only
    | split

theorem writeDouble_keeps {s₀ s : State} (h₀ : Keeps s₀ s) (window : Bool) (b : Blk) (o : Nat) (v : Nat) :
    Keeps s₀ (writeDouble s window b o v) := by
  unfold writeDouble
  try dsimp only
  repeat' first
    | with_reducible assumption | with_reducible apply Keeps.ite | with_reducible apply winError_keeps
    | with_reducible apply regPut_keeps | with_reducible apply writeWord_keeps
    | (simp only [keeps_mk]; with_reducible apply KeepsPM.of) | intro _ | dsimp only | split

theorem blockWrite_keeps {s₀ s : State} (h₀ : Keeps s₀ s) (window : Bool) (pa width v : Nat) {t : State}
    (h : blockWrite s window pa width v = some t) : Keeps s₀ t := by
  unfold blockWrite at h
  split at h
  · cases h
  · split at h
    · cases h
    · split at h
      · cases h; exact h₀
      · split at h
        · cases h; exact writeCells_keeps h₀ _
        · cases h; exact Keeps.ite (fun _ => writeDouble_keeps h₀ _ _ _ _) (fun _ => writeWord_keeps h₀ _ _ _ _)

theorem countHole_keeps {s₀ s : State} (h₀ : Keeps s₀ s) : Keeps s₀ (countHole s) := by
  unfold countHole
  repeat' first
    | with_reducible assumption | (simp only [keeps_mk]; with_reducible apply KeepsPM.of) | dsimp only

theorem windowWrite_keeps {s₀ s : State} (h₀ : Keeps s₀ s) (o : Nat) (width : Nat) (v : Nat) :
    Keeps s₀ (windowWrite s o width v) := by
  unfold windowWrite
  try dsimp only
  repeat' first
    | with_reducible assumption | with_reducible apply Keeps.ite | with_reducible apply winError_keeps
    | with_reducible apply countHole_keeps | (refine blockWrite_keeps ?_ _ _ _ _ (by assumption))
    | (simp only [keeps_mk]; with_reducible apply KeepsPM.of) | intro _ | dsimp only | split

theorem msixWrite_keeps {s₀ s : State} (h₀ : Keeps s₀ s) (o : Nat) (v : Nat) : Keeps s₀ (msixWrite s o v) := by
  unfold msixWrite
  try dsimp only
  repeat' first
    | with_reducible assumption | with_reducible apply Keeps.ite | with_reducible apply freeVector_keeps
    | (simp only [keeps_mk]; with_reducible apply KeepsPM.of) | intro _ | dsimp only | split

theorem barWrite_keeps {s₀ s : State} (h₀ : Keeps s₀ s) (o : Nat) (width : Nat) (v : Nat) : Keeps s₀ (barWrite s o width v) := by
  unfold barWrite
  repeat' first
    | with_reducible assumption | with_reducible apply Keeps.ite | with_reducible apply msixWrite_keeps
    | with_reducible apply writeDouble_keeps | with_reducible apply windowWrite_keeps | with_reducible apply writeWord_keeps
    | intro _ | dsimp only | split

theorem bar2Write_keeps {s₀ s : State} (h₀ : Keeps s₀ s) (o : Nat) (bs : List Byte) : Keeps s₀ (bar2Write s o bs) := by
  unfold bar2Write
  try dsimp only
  repeat' first
    | with_reducible assumption | with_reducible apply Keeps.ite | with_reducible apply hostWrite_keeps
    | with_reducible apply writeCells_keeps | intro _ | dsimp only | split

theorem ownCycle_keeps {s₀ s : State} (h₀ : Keeps s₀ s) : Keeps s₀ (ownCycle s) := by
  unfold ownCycle
  repeat' first
    | with_reducible assumption | with_reducible apply advance_keeps | dsimp only

theorem cfgWrite_keeps {s₀ s : State} (h₀ : Keeps s₀ s) (o : Nat) (v : Nat) : Keeps s₀ (cfgWrite s o v) := by
  unfold cfgWrite
  try dsimp only
  repeat' first
    | with_reducible assumption | with_reducible apply Keeps.ite | with_reducible apply freeVector_keeps
    | (simp only [keeps_mk]; with_reducible apply KeepsPM.of) | with_reducible apply Keeps.foldl | (intro _ _ _) | intro _
    | dsimp only | split

theorem regClear_keeps {s₀ s : State} (h₀ : Keeps s₀ s) (b : Blk) (o : Nat) : Keeps s₀ (regClear s b o) := by
  unfold regClear
  try dsimp only
  repeat' first
    | with_reducible assumption | with_reducible apply modHoist_keeps | with_reducible apply modPort_keeps
    | with_reducible apply modStack_keeps | with_reducible apply modLevel_keeps | with_reducible apply modStope_keeps
    | (simp only [keeps_mk]; with_reducible apply KeepsPM.of) | intro _ | dsimp only | split

theorem settledFor_keeps {s₀ s : State} (h₀ : Keeps s₀ s) (b : Blk) : Keeps s₀ (settledFor s b) := by
  unfold settledFor
  try dsimp only
  repeat' first
    | with_reducible assumption | with_reducible apply settle_keeps | (simp only [keeps_mk]; with_reducible apply KeepsPM.of)
    | dsimp only | split

theorem readReg_keeps {s₀ s : State} (h₀ : Keeps s₀ s) (b : Blk) (o : Nat) (r : Reg) : Keeps s₀ (readReg s b o r).2 := by
  unfold readReg
  try dsimp only
  repeat' first
    | with_reducible assumption | with_reducible apply Keeps.ite | with_reducible apply regClear_keeps
    | (simp only [keeps_mk]; with_reducible apply KeepsPM.of) | intro _ | dsimp only | split

theorem readWord_keeps {s₀ s : State} (h₀ : Keeps s₀ s) (b : Blk) (o : Nat) : Keeps s₀ (readWord s b o).2 := by
  unfold readWord
  try dsimp only
  repeat' first
    | with_reducible assumption | with_reducible apply Keeps.ite | with_reducible apply readReg_keeps
    | (simp only [keeps_mk]; with_reducible apply KeepsPM.of) | intro _ | dsimp only | split

theorem readDouble_keeps {s₀ s : State} (h₀ : Keeps s₀ s) (b : Blk) (o : Nat) : Keeps s₀ (readDouble s b o).2 := by
  have h1 := readWord_keeps (readWord_keeps h₀ b o) b (o + 4)
  unfold readDouble
  split
  · split
    · exact readReg_keeps h₀ _ _ _
    · exact Keeps.pair h1
  · exact Keeps.pair h1

theorem blockRead_keeps {s₀ s : State} (h₀ : Keeps s₀ s) (pa : Nat) (width : Nat) : Keeps s₀ (blockRead s pa width).2 := by
  unfold blockRead
  try dsimp only
  repeat' first
    | with_reducible assumption | with_reducible apply Keeps.ite | with_reducible apply readDouble_keeps
    | with_reducible apply ownCycle_keeps | with_reducible apply settledFor_keeps | with_reducible apply readWord_keeps
    | (simp only [keeps_mk]; with_reducible apply KeepsPM.of) | intro _ | dsimp only | split

theorem barRead_keeps {s₀ s : State} (h₀ : Keeps s₀ s) (o : Nat) (width : Nat) : Keeps s₀ (barRead s o width).2 := by
  unfold barRead
  try dsimp only
  repeat' first
    | with_reducible assumption | with_reducible apply Keeps.ite | with_reducible apply winError_keeps
    | with_reducible apply blockRead_keeps | with_reducible apply countHole_keeps | intro _ | dsimp only | split

/-! ### Sideband -/

theorem setDyn_keeps {s₀ s : State} (h₀ : Keeps s₀ s) (a : Option Nat) : Keeps s₀ (setDyn s a) := by
  unfold setDyn
  repeat' first
    | with_reducible assumption | (simp only [keeps_mk]; with_reducible apply KeepsPM.of) | dsimp only

theorem assignDyn_keeps {s₀ s : State} (h₀ : Keeps s₀ s) (may : Bool) (addr : Nat) : Keeps s₀ (assignDyn s may addr) := by
  unfold assignDyn
  repeat' first
    | with_reducible assumption | with_reducible apply Keeps.ite | with_reducible apply setDyn_keeps | intro _ | dsimp only
    | split

theorem setEnec_keeps {s₀ s : State} (h₀ : Keeps s₀ s) (on : Bool) : Keeps s₀ (setEnec s on) := by
  unfold setEnec
  repeat' first
    | with_reducible assumption | with_reducible apply Keeps.ite | (simp only [keeps_mk]; with_reducible apply KeepsPM.of)
    | intro _ | dsimp only | split

theorem answerI3c_keeps {s₀ s : State} (h₀ : Keeps s₀ s) (bs : List Byte) : Keeps s₀ (answerI3c s bs) := by
  unfold answerI3c
  repeat' first
    | with_reducible assumption | with_reducible apply Keeps.ite | with_reducible apply emit_keeps | intro _ | dsimp only
    | split

theorem i3cPut_keeps {s₀ s : State} (h₀ : Keeps s₀ s) (i : Nat) (v : Nat) : Keeps s₀ (i3cPut s i v) := by
  unfold i3cPut
  try dsimp only
  repeat' first
    | with_reducible assumption | with_reducible apply Keeps.ite | (simp only [keeps_mk]; with_reducible apply KeepsPM.of)
    | intro _ | dsimp only | split

theorem setIndex_keeps {s₀ s : State} (h₀ : Keeps s₀ s) (i : Nat) : Keeps s₀ (setIndex s i) := by
  unfold setIndex
  repeat' first
    | with_reducible assumption | (simp only [keeps_mk]; with_reducible apply KeepsPM.of) | dsimp only

theorem tapTake_keeps {s₀ s : State} (h₀ : Keeps s₀ s) (i : JInstr) : Keeps s₀ (tapTake s i) := by
  unfold tapTake
  repeat' first
    | with_reducible assumption | with_reducible apply Keeps.ite | (simp only [keeps_mk]; with_reducible apply KeepsPM.of)
    | intro _ | dsimp only | split

theorem tdo_keeps {s₀ s : State} (h₀ : Keeps s₀ s) (bs : List Bool) : Keeps s₀ (tdo s bs) := by
  unfold tdo
  repeat' first
    | with_reducible assumption | with_reducible apply Keeps.ite | with_reducible apply emit_keeps | intro _ | dsimp only
    | split

theorem sendIbi_keeps {s₀ s : State} (h₀ : Keeps s₀ s) : Keeps s₀ (sendIbi s) := by
  unfold sendIbi
  repeat' first
    | with_reducible assumption | with_reducible apply Keeps.ite | with_reducible apply emit_keeps
    | (simp only [keeps_mk]; with_reducible apply KeepsPM.of) | intro _ | dsimp only | split

theorem idle_keeps {s₀ s : State} (h₀ : Keeps s₀ s) : Keeps s₀ (idle s) := by
  unfold idle
  repeat' first
    | with_reducible assumption | with_reducible apply sendIbi_keeps | with_reducible apply advance_keeps | dsimp only

end Sys2Proof.Machine
end

