-- ==== Sys2Proof/Tests/Slice0.lean ====
section
/-! SUPPORT. Tests: ill-formed terms that each check refuses, small cases with values from outside the model, and for every statement
with premises states that meet them. -/

set_option linter.unusedVariables false
set_option Elab.async false

namespace Sys2Proof.Tests

open Sys2Proof Sys2Proof.Machine Sys2Proof.Claims

/-! ### Helpers -/

/-- The word with these fields, each a place and a value. -/
def wd (fs : List (Nat × Nat)) : Word64 := BitVec.ofNat 64 (fs.foldl (fun n f => n + f.2 * 2 ^ f.1) 0)

/-- Cycle 100; stope 0 as given, with one agent. -/
def one (ag : Nat) (c : Crew) (x : Stope := {}) : Sys2Proof.Machine.State := { now := 100, stopes := [(0, { x with agents := [(ag, c)] })] }

/-- Crew 3 of stope 0 runs at word 5 with these scalar registers. -/
def crew3 (s : Tab Word64) (x : Stope := {}) : Sys2Proof.Machine.State := one 3 { state := .running, pc := 5, s := s } x

/-- The overman of stope 0 runs at word 5 with these scalar registers. -/
def ovm (s : Tab Word64) (x : Stope := {}) : Sys2Proof.Machine.State := one 16 { state := .running, pc := 5, s := s } x

/-- The overman and crew 3 of stope 0. -/
def two (o k : Crew) (x : Stope := {}) : Sys2Proof.Machine.State := { now := 100, stopes := [(0, { x with agents := [(3, k), (16, o)] })] }

/-- The state with these bytes at an address. -/
def withMem (s : Sys2Proof.Machine.State) (pa : Nat) (bs : List Byte) : Sys2Proof.Machine.State := { s with mem := cellsPut s.mem (cellsAt pa bs) }

/-- A transfer of tile register 2 of crew 3: four rows of 64 bytes at 0x10000. -/
def xfer (id : Nat) (kind : XKind) : Xfer :=
  { id := id, kind := kind, crew := 3, tile := 2, va := 0x10000, q := 5, tag := 0, epoch := 0, round := 0, rows := 4, len := 64, fmt := 2 }

/-- The state with its clocks and its service running. -/
def powered (s : Sys2Proof.Machine.State) : Sys2Proof.Machine.State := { s with boot := { s.boot with aon := true }, power := .full, flt := { s.flt with h0Active := true } }

/-! ### Well-formedness: a term that each check refuses -/

def noReq : Req := { version := 3 }

theorem test_wellFormed_accepts : wellFormed (.sadd 159 16 0) = true ∧ wellFormed (.bye 7 noReq) = true ∧
    wellFormed (.suppliesValid {}) = true ∧ wellFormed (.tallyCountWrite .level 7 255 0) = true := by decide +kernel

/-- No 161st stope, no 18th agent, no 17th crew, no ninth level, no 17th stack, no 177th physical stope, no 13th port, no ninth mailbox. -/
theorem test_wellFormed_refuses_units :
    wellFormed (.sadd 160 0 0) = false ∧ wellFormed (.sadd 0 17 0) = false ∧ wellFormed (.waiterRelease 0 16) = false ∧
    wellFormed (.levelFault 8) = false ∧ wellFormed (.backfill 16) = false ∧ wellFormed (.stopeRetire 176) = false ∧
    wellFormed (.wake 12) = false ∧ wellFormed (.bye 8 noReq) = false ∧ wellFormed (.returnToService [3, 176]) = false ∧
    wellFormed (.nvmeTimeout 8) = false ∧ wellFormed (.sliceForward 0 256 0) = false ∧ wellFormed (.run (2 ^ 32)) = false ∧
    wellFormed (.streamRowWrite 0 2) = false ∧ wellFormed (.markFire 0 64) = false ∧ wellFormed (.laneRetire 0 4 true) = false ∧
    wellFormed (.canaryLost 2) = false ∧ wellFormed (.commitRegionWrite 16 false 0) = false ∧ wellFormed (.answerCollect 16 0) = false := by
  decide +kernel

theorem test_wellFormed_refuses_operands :
    wellFormed (.tallyCountWrite .stope 0 64 0) = false ∧ wellFormed (.commitNotice (.head 2)) = false ∧
    wellFormed (.bye 0 { noReq with reqSeq := 2 ^ 16 }) = false ∧
    wellFormed (.slice 0 0 { kind := 256, home := 0, slot := 0, id := 0, idx := 0 } 0) = false ∧
    wellFormed (.messageArrival 0 { typ := 0, dst := 0, src := 0, ttl := 0 }) = false ∧
    wellFormed (.flitReceive 0 { seq := 4096, ack := 0, crc := 0 }) = false ∧
    wellFormed (.beacon 0 { wire := 0, lenUs := 999, elapsed := 0 }) = false ∧
    wellFormed (.caps 0 { gen := 4, lanes := 15, three := false, dev := 0 }) = false ∧
    wellFormed (.suppliesValid { bootSel := 4 }) = false ∧ wellFormed (.tsigEffect [(0, 17)]) = false ∧
    wellFormed (.junctionWarn (some 8) 0) = false ∧ wellFormed (.refclkLoss (.fab 2)) = false ∧
    wellFormed (.registerWrite true 0 3 0) = false ∧ wellFormed (.locationTest (2 ^ 48) 0 []) = false ∧
    wellFormed (.presence 0 []) = false ∧ wellFormed (.stackWrite .host {} 0 (List.replicate 4097 0)) = false ∧
    wellFormed (.faultRecordAppend []) = false ∧ wellFormed (.i3cPrivateWrite [0, 0, 0, 0, 0, 0]) = false ∧
    wellFormed (.i3cSetdasa 128) = false := by decide +kernel

/-! ### Small cases with values from outside the model -/

/-- The state after a command. -/
def after (i : Instr) (s : Sys2Proof.Machine.State) : Sys2Proof.Machine.State :=
  match Sys2Proof.Machine.exec i s with | .next t => t | _ => s

/-- What crew 3 of stope 0 has in flight after it issues a word with these scalar registers. -/
def sent (i : Instr) (rs : Tab Word64) : List Pend := (crewOf (after i (crew3 rs)) 0 3).pend

/-- R107: 64-bit sums wrap; ready one cycle after issue. -/
theorem test_sadd_wraps : sent (.sadd 0 3 (wd [(0, 1), (16, 1), (21, 2), (26, 4)])) [(2, 0xFFFFFFFFFFFFFFFF), (4, 2)] =
    [⟨101, writeS 1 1⟩] := by decide +kernel

/-- R107: SMUL keeps the low 64 bits and is ready at issue + 3. -/
theorem test_smul_low : sent (.smul 0 3 (wd [(0, 3), (16, 1), (21, 2), (26, 4)])) [(2, 0x8000000000000001), (4, 2)] =
    [⟨103, writeS 1 2⟩] := by decide +kernel

/-- R107: shifts take Sb[5:0]; SSRA keeps the sign. -/
theorem test_shift_amounts : sent (.sshl 0 3 (wd [(0, 7), (16, 1), (21, 2), (26, 4)])) [(2, 3), (4, 65)] = [⟨101, writeS 1 6⟩] ∧
    sent (.ssra 0 3 (wd [(0, 9), (16, 1), (21, 2), (26, 4)])) [(2, 0x8000000000000000), (4, 63)] =
      [⟨101, writeS 1 0xFFFFFFFFFFFFFFFF⟩] := by decide +kernel

/-- R107: SLI sign-extends; SLIH keeps the low half. -/
theorem test_immediates : sent (.sli 0 3 (wd [(0, 0x0A), (16, 1), (26, 0x80000000)])) [] = [⟨101, writeS 1 0xFFFFFFFF80000000⟩] ∧
    sent (.slih 0 3 (wd [(0, 0x0B), (16, 1), (26, 5)])) [(1, 0x1122334455667788)] = [⟨101, writeS 1 0x0000000555667788⟩] := by decide +kernel

/-- R107: HALT leaves the crew idle. -/
theorem test_halt_idles : (crewOf (after (.halt 0 3 (wd [(0, 0x47)])) (crew3 [])) 0 3).state = .idle := by decide +kernel

/-- The check value of CRC-32C: of "123456789" it is E3069283 (R91). -/
theorem test_crc32c_check_value : crc32c [0x31, 0x32, 0x33, 0x34, 0x35, 0x36, 0x37, 0x38, 0x39] = 0xE3069283 := by decide +kernel

/-- SHAKE256 of the empty string begins 46b9dd2b (FIPS 202; R376). -/
theorem test_shake256_empty : (shake256 [] 4) = [0x46, 0xb9, 0xdd, 0x2b] := by decide +kernel

/-- The stochastic generator's taps: bit 0 set feeds back 0xB400 (R82). -/
theorem test_srStep_taps : srStep 0x0001 = 0xB400 ∧ srStep 0x0002 = 0x0001 := by decide +kernel

/-- FP32 rounds to nearest, ties to even (R71): 1 + 2^-24 is 1, 1 + 3·2^-24 is 1 + 2^-22. -/
theorem test_add32_ties : add32 0x3F800000 0x33800000 = 0x3F800000 ∧ add32 0x3F800001 0x33800000 = 0x3F800002 := by decide +kernel

/-- FP32 products past the largest number are infinite. -/
theorem test_mul32_overflows : mul32 0x7F000000 0x40800000 = 0x7F800000 ∧ mul32 0x40000000 0xC0400000 = 0xC0C00000 := by decide +kernel

/-- 2^0.5 = 1.41421356… lies between two FP32 numbers, and log2 3 = 1.58496250… between two others: no other result is within one
unit in the last place (R110). -/
theorem test_exp2_log2_bounds :
    (let b := powBounds (2 ^ 63) false; nearCode b.1 b.2 (-96) 0 = 0x3FB504F3 ∧ nearCode b.1 b.2 (-96) (2 ^ 32) = 0x3FB504F4) ∧
    (let z := 3 * 2 ^ 255; let a := 2 ^ 80 + logBits 0 80 z 0; let b := 2 ^ 80 + logBits 1 80 z 0 + 1
     nearCode a b (-80) 0 = 0x3FCAE00D ∧ nearCode a b (-80) (2 ^ 31) = 0x3FCAE00E) := by decide +kernel

/-- CMD_READY comes 3.40 s after t0 at the earliest and 5.02 s at the latest (R424, R425). -/
theorem test_ready_time : stepTime (beginBoot {} 0) { readyNs := 0 } .ready = 3400000000 ∧ stepTime (beginBoot {} 0) { readyNs := 9000000000 } .ready = 5020000000 := by decide +kernel

/-- 1/3, the square root of 2 and 1 over the square root of 4, correctly rounded (R110). -/
theorem test_vsfu_values : rcp32 0x40400000 = 0x3EAAAAAB ∧ sqrt32 0x40000000 = 0x3FB504F3 ∧ rsq32 0x40800000 = 0x3F000000 := by decide +kernel

/-- An empty queue lets one device cycle pass, and a command in front leaves the queue (log 2). -/
theorem test_step_takes_the_front : (match step { State.reset with pending := [.i3cRstdaa, .i3cEnec] } with | .next t => t.pending | _ => []) =
    [.i3cEnec] := by decide +kernel

/-- Memory keeps its canonical form: a byte written back to 0 is unlisted again. -/
theorem test_memory_is_canonical : cellsPut [(4, 9)] [(2, 1), (4, 0)] = [(2, 1)] ∧ memWf [(4, 9), (4, 1)] = false ∧
    memWf [(2, 0)] = false := by decide +kernel

/-- No row of the opcode table gives a command bits. -/
theorem test_no_word_spells_a_command : decodeTableWord 8 0 = none ∧ (State.reset.withFetchWord 8 0) = State.reset := by decide +kernel

/-! ### The rows of writes: each row has an instruction word that issues -/

def vec : Sys2Proof.Machine.State :=
  one 3 { state := .running, pc := 5, s := [(2, 7), (4, 3)], v := [(1, 0xFF00FF), (2, 0x1234)], p := [(1, 5), (2, 0xF0F0)] }

def rowMeets (r : WriteRow) (w : Word64) : Bool :=
  mayIssue (stopeOf vec 0) 3 && !(agentOf (stopeOf vec 0) 3).ranOff && fOp w == r.op && r.legal w

theorem rowsMeet (rs : List WriteRow) (ws : List Word64) (h : rs.all (fun r => ws.any (rowMeets r)) = true) :
    ∀ r ∈ rs, ∃ (st ag : Nat) (w : Word64) (s : Sys2Proof.Machine.State),
      Issues s st ag w r.op ∧ (ag = 16 → r.both = true) ∧ r.legal w = true := by
  intro r hr
  obtain ⟨w, -, hw⟩ := List.any_eq_true.mp (List.all_eq_true.mp h r hr)
  simp only [rowMeets, Bool.and_eq_true, Bool.not_eq_true', beq_iff_eq] at hw
  exact ⟨0, 3, w, vec, ⟨hw.1.1.1, hw.1.1.2, hw.1.2⟩, fun h => absurd h (by decide), hw.2⟩

theorem test_meets_ScalarArithmeticWritesSd : ∀ r ∈ scalarRows, ∃ (st ag : Nat) (w : Word64) (s : Sys2Proof.Machine.State),
    Issues s st ag w r.op ∧ (ag = 16 → r.both = true) ∧ r.legal w = true :=
  rowsMeet _ ((List.range 16).map (fun o => wd [(0, o), (16, 1), (21, 2), (26, 4)])) (by decide +kernel)

theorem test_meets_ScalarImmediateWritesSd : ∀ r ∈ immRows, ∃ (st ag : Nat) (w : Word64) (s : Sys2Proof.Machine.State),
    Issues s st ag w r.op ∧ (ag = 16 → r.both = true) ∧ r.legal w = true :=
  rowsMeet _ [
    wd [(0, 10), (16, 1), (26, 4294967294)],
    wd [(0, 11), (16, 2), (26, 4294967294)],
    wd [(0, 12), (16, 2), (21, 4), (26, 4294967294)]] (by decide +kernel)

theorem test_meets_VectorRowsWriteDestination : ∀ r ∈ vectorRows, ∃ (st ag : Nat) (w : Word64) (s : Sys2Proof.Machine.State),
    Issues s st ag w r.op ∧ (ag = 16 → r.both = true) ∧ r.legal w = true :=
  rowsMeet _ [
    wd [(0, 16), (7, 9), (12, 3), (16, 3), (21, 1), (26, 2), (31, 1), (36, 1)],
    wd [(0, 16), (7, 9), (12, 0), (16, 3), (21, 1), (26, 2), (36, 2)],
    wd [(0, 17), (7, 9), (12, 7), (16, 3), (21, 1), (26, 2)],
    wd [(0, 19), (7, 9), (12, 0), (16, 3), (21, 1)],
    wd [(0, 20), (7, 9), (12, 0), (16, 3), (21, 1)],
    wd [(0, 21), (7, 9), (16, 3), (21, 1), (26, 2)],
    wd [(0, 22), (7, 9), (16, 3), (21, 2), (36, 2)],
    wd [(0, 23), (7, 9), (16, 3), (21, 1), (26, 2)]] (by decide +kernel)

theorem test_meets_PredicateRowsWritePredicate : ∀ r ∈ predicateRows, ∃ (st ag : Nat) (w : Word64) (s : Sys2Proof.Machine.State),
    Issues s st ag w r.op ∧ (ag = 16 → r.both = true) ∧ r.legal w = true :=
  rowsMeet _ [
    wd [(0, 18), (7, 9), (12, 2), (16, 3), (21, 1), (26, 2), (36, 1)],
    wd [(0, 26), (7, 9), (12, 2), (16, 3), (21, 1), (26, 2)]] (by decide +kernel)

/-! ### States for the premises of the statements -/

/-- Fresh as a test that evaluates. -/
theorem fresh_iff (x : Tally) (n : Nat) : Fresh x n ↔ x.count < 2 ^ 32 ∧ (match x.visit with | some v => decide (v.cycle ≠ n) | none => true) = true := by
  unfold Fresh; cases x.visit <;> simp

/-- DueOk as a test that evaluates. -/
theorem dueOk_iff (x : Stope) : DueOk x ↔ (keysAbove none x.agents = true ∧ (∀ g ∈ x.arr0.streams ++ x.arr1.streams, g.next < g.rows) ∧
    (∀ w ∈ x.wld.toList, w.next < readCycles w.pace) ∧ 0 < x.clk.div) := by
  unfold DueOk
  constructor
  · rintro ⟨h1, h2, h3, h4⟩
    refine ⟨h1, fun g hg => ?_, fun w hw => h3 w (by simpa using hw), h4⟩
    rcases List.mem_append.mp hg with h | h
    · exact h2 0 g h
    · exact h2 1 g h
  · rintro ⟨h1, h2, h3, h4⟩
    refine ⟨h1, fun a g hg => h2 g ?_, fun w hw => h3 w (by simp [hw]), h4⟩
    unfold arrOf at hg
    split at hg
    · exact List.mem_append_left _ hg
    · exact List.mem_append_right _ hg

def tiled (ag : Nat) (s : Tab Word64) (t : Tab Tile) (x : Stope := {}) : Sys2Proof.Machine.State :=
  one ag { state := .running, pc := 5, s := s, tiles := t } x

def flight : Flight := { column := false, wide := false, accum := true, row := 7, entry := 90, ready := 110, fmt := 4, plane := 0, crew := 3, x := 0, scale := 0 }

def flying : Sys2Proof.Machine.State := { now := 100, stopes := [(0, { arr1 := { flights := [flight], acc := [(7, 5)] } })] }

def scaleCheck : WCheck :=
  { due := 110, issue := 40, base := 0x4000, fmt := 8, part := 0, half := 0, isScale := true, plane0 := 0, plane1 := 1, crew := 3, tag := 9, epoch := 1, uncorr := false }

def checking (e : Word64) : Sys2Proof.Machine.State :=
  { now := 100, stopes := [(0, { wchecks := [scaleCheck], side := [(checkAddr 0 scaleCheck % 2 ^ 24 / 4096, e)] })] }

def goodEntry (crc : Word32) : Word64 := entryWord (checkAddr 0 scaleCheck) (weightShape scaleCheck) crc

def scaleCrc : Word32 := crcRun (shapeCrc (weightShape scaleCheck)) (List.replicate 4096 0) ^^^ 0xFFFFFFFF

def fencing (k : Crew) : Sys2Proof.Machine.State := one 3 k { swapPending := true, bank := 1 }

def transfers (fs : List Xfer) (x : Stope := {}) (t : Tab Tile := [(2, { rows := 4, len := 64, fmt := 4 })]) : Sys2Proof.Machine.State :=
  { now := 100, levels := [(0, { up := true })], stopes := [(0, { x with
    queue := fs, claims := [(0, { valid := true, vbase := 0x10000, pbase := storeAddr 0 0x10000, rd := true, wr := true, mode := 2, log2 := 16 })]
    agents := [(3, { state := .running, tiles := t })] })] }

def badDesc : TramDesc := readDesc (3 :: List.replicate 63 0)

def copyDesc : TramDesc := readDesc (List.replicate 8 0 ++ toBytes 8 0x10000 ++ toBytes 8 0x91000 ++ toBytes 4 64 ++ toBytes 4 2 ++ toBytes 8 64 ++ toBytes 8 64)

def row0 : XRow := { row := 0, src := [(storeAddr 0 0x10000, 64)], dst := [], data := [] }

def lastRow (retried : Bool) : Xfer :=
  { xfer 0 .tld with stage := .closing, pa0 := some (storeAddr 0 0x10000), crc := crcInit, retiredAt := 90, prog := 4, retried := retried }

def rightEntry (f : Xfer) (d : Word32) : Tab Word64 := [(16, entryWord (storeAddr 0 0x10000) (tileShape 4 64 2) (tileCrc f + d))]

def record4 : List Byte := setField (List.replicate 128 0) 1 1 4

def goodRecord : List Byte := setField record4 0x7C 4 (crc32c (record4.take 0x7C)).toNat

def withStats : Tab Tile := [(2, { rows := 4, len := 64, fmt := 4, pending := true, amax := 7, sat := 1, data := [(0, 5)] })]

def tiledDst : TramDesc := readDesc ([0, 2, 0, 0, 0, 0, 0, 0] ++ toBytes 8 0x10000 ++ toBytes 8 0x11000 ++ toBytes 4 64 ++ toBytes 4 4 ++ toBytes 8 64 ++ toBytes 8 0 ++ toBytes 4 0 ++ toBytes 4 (tileShape 4 64 2) ++ toBytes 4 0 ++ toBytes 4 4096)

def stRow (k : XKind) : Xfer := { xfer 0 k with stage := .moving, next := 1, flying := [{ row := 0, src := [], dst := [(storeAddr 0 0x10000, 64)], data := List.replicate 64 7 }] }

def fillDesc : TramDesc := readDesc ([2, 0, 0, 0, 0, 0, 0, 0] ++ toBytes 8 0 ++ toBytes 8 0x10000 ++ toBytes 4 64 ++ toBytes 4 2 ++ toBytes 8 0 ++ toBytes 8 64 ++ toBytes 4 0xDDCCBBAA)

def progDesc : TramDesc := readDesc (List.replicate 8 0 ++ toBytes 8 0x10000 ++ toBytes 8 0x20000 ++ toBytes 4 64 ++ toBytes 4 2 ++ toBytes 8 64 ++ toBytes 8 64)

def progClaims : Tab Claim := [(0, { valid := true, vbase := 0x10000, pbase := storeAddr 0 0x10000, rd := true, wr := true, mode := 2, log2 := 16 }), (1, { valid := true, vbase := 0x20000, pbase := progAddr 0 0x40000, rd := true, wr := true, mode := 2, log2 := 16 })]

def usedRecord : List Byte := setField record4 3 1 1

def checkedRecord : List Byte := setField usedRecord 0x7C 4 (crc32c (usedRecord.take 0x7C)).toNat

def inGobTest : Sys2Proof.Machine.State := { now := 100, levels := [(0, { up := true })], stackTab := [(1, { gobBase := 0x100000, gobCap := 4 })], stopes := [(0, { queue := [{ xfer 0 (.tst none) with stage := .moving }], claims := [(0, { valid := true, vbase := 0x10000, pbase := hbmAddr 1 0x100000, rd := true, wr := true, mode := 2, log2 := 16 })], agents := [(3, { state := .running, tiles := [(2, { rows := 4, len := 64, fmt := 4 })] })] })] }

def toProg (d : TramDesc) (x : Stope := {}) : Sys2Proof.Machine.State :=
  { now := 100, levels := [(0, { up := true })], stopes := [(0, { x with queue := [xfer 0 (.tram d)], claims := progClaims })] }

def imageCmd : Cmd := { desc := { opcode := 2 }, tag := 0, epoch := 0, mbx := 1, session := 0x1001, version := 3, state := .running, awaitCopy := [0] }

def heldTile (check : Bool) : Tile :=
  { rows := 4, len := 64, fmt := 2, held := some { store := false, recVa := none, check := check, prog := 2, q := 5, va := 0x10000, tag := 7, crc := 1, code := fcClaimFault, rows := 4, len := 64, fmt := 2 } }

def signal (sub : Bool) (n : Nat) : Signal := { st := 0, ag := 3, rel := 105, sc := .level, unit := 0, num := 255, sub := sub, n := n, tag := 0, epoch := 0 }

def signalled (sub : Bool) (n : Nat) (t : Tally) : Sys2Proof.Machine.State :=
  { crew3 [] with signals := [signal sub n], levels := [(0, { tallies := [(255, t)] })] }

def waitOn (ph : WaitPhase) (n : Nat) : Wait := { sc := .device, unit := 0, num := 1023, n := n, take := true, issued := 90, phase := ph }

def waiting (ph : WaitPhase) (n : Nat) (stopping : Bool) (t : Tally) : Sys2Proof.Machine.State :=
  { one 3 { state := .waiting, pc := 5, wait := some (waitOn ph n), stopping := stopping, stopAt := 104 } with devTallies := [(1023, t)] }

def wtr (cr n : Nat) (take : Bool) : Waiter := { st := 0, cr := cr, n := n, take := take, arrived := 90 }

def entry : Entry := { slot := 5, id := 77, group := 2, elems := 512, locals := 1, pairs := 1, ringN := 2, next := [4], prev := [5], sources := 1, contrib := 1, home := 0 }

def treeEntry : Entry := { topo := 1, slot := 5, id := 77, group := 2, elems := 512, locals := 1, sources := 1, contrib := 1, parent := 4, timed := true, dlPhase := 500000 }

def slot (e : Entry) (segs : List Segment) : HSlot := { loaded := true, entry := e, tag := 9, segs := segs }

def hoisting (h : Hoist) (x : Stope := {}) : Sys2Proof.Machine.State :=
  { now := 100, levels := [(0, { up := true, hoist := h })], stopes := [(0, x)], ports := [(4, { state := .up, gen := 3, live := 0x347, lanes := 4, partner := 0x13 })], fabId := 0x12 }

def hop (slot : Nat) : HoistOp := { crew := 3, slot := slot, q := 5, offset := 0, rel := 105, arrays := [0, 1], row := 7, rows := 1, tag := 9, seq := 0 }

def seg (n : Nat) : Segment := { st := 0, arr := 0, seq := n, home := 0, slot := 5, tag := 9, id := 77, round := 0, elem := 0, rows := [1, 2] }

def partialMsg : SliceMsg := { kind := 0, home := 0, slot := 5, id := 77, idx := 0, count := 1, roster := 2, data := [1, 2], dst := 0x12, crc := sliceCrc { kind := 0, home := 0, slot := 5, id := 77, idx := 0, data := [1, 2] } }

def rootEntry : Entry := { treeEntry with parent := 15 }

def nodeEntry : Entry := { treeEntry with topo := 2, ringN := 1, pairs := 1, next := [4], prev := [5] }

def onPort (x : Port) (h : Hoist) : Sys2Proof.Machine.State := { hoisting h with ports := [(4, x)] }

def vigilLane : Port := { state := .vigil, gen := 1, live := 0x347, lanes := 1 }

def rounds (r : Round) : Sys2Proof.Machine.State := powered { now := 1000, rnd := r, levels := [(0, { up := true })] }

def cadence (r : Round) : Sys2Proof.Machine.State :=
  { rounds r with ports := [(2, { state := .up, gen := 3, lanes := 4, live := 0x0C }), (7, { state := .vigil, gen := 3, lanes := 4, live := 0x17 })], fabId := 9 }

def saved (o : Nat) : Saved := { slot := 0, offset := o, round := 6 }

def gobbed (cap : Nat) (vs : List Saved) : Sys2Proof.Machine.State :=
  { rounds { round := 7, liveBase := [(0, BitVec.ofNat 64 (2 ^ 63 + hbmAddr 1 0x10000))], liveSize := [(0, 0x10000)] } with
    stackTab := [(1, { gobBase := 0x100000, gobCap := cap, gobBaseNew := 0x100000, gobCapNew := cap, saved := vs })] }

def note (k : Bool) (rs : List Block) : Notice := { round := 7, commit := k, flags := if k then 1 else 2, reached := rs }

def marked (m : Mark) (h : Hoist := {}) : Sys2Proof.Machine.State := { rounds { round := 7 } with levels := [(7, { up := true, marks := [(63, m)], hoist := h })] }

def mk (a t : Nat) : Mark := { round := 7, phase := 500, action := a, tally := t, armed := true }

def timedSlot : HSlot := { loaded := true, round := 7, entry := { topo := 1, slot := 5, id := 77, group := 2, elems := 512, locals := 1, sources := 1, contrib := 1, home := 0, timed := true, dlPhase := 500 } }

def ran7 : Cmd := { desc := { target := 1, crews := 0xFFFF }, tag := 9, epoch := 4, mbx := 0, session := 1, version := 2, state := .running, round := 7, order := 3, everStarted := true }

def ready (cs : List Cmd) : Sys2Proof.Machine.State :=
  { now := 1000, rnd := { round := 7, released := true }, ep := { ready := true, cmdReady := true }, power := .full, boot := { aon := true }
    flt := { h0Active := true }, phys := [(0, { logical := 0, state := 1 }), (1, { logical := 1, state := 1 })]
    levels := [(0, { up := true })], cmds := cs, nextOrder := 9
    mbx := [(1, { enable := true, isOpen := true, version := 3, qid := 0x1001, reqTail := 1 })] }

def cmdAs (st : CmdState) (d : Desc) : Cmd :=
  { desc := d, tag := 5, epoch := 2, mbx := 1, session := 0x1001, version := 3, state := st, order := 3, round := 7 }

def fillCmd (st : CmdState) : Cmd := { cmdAs st { opcode := 1, target := 3, crews := 1, fill := true } with tag := 4, order := 2 }

def runDesc : Desc := { opcode := 1, target := 3, crews := 5, entry := 7, arg := 99, tallies := [{ sc := 2, num := 9 }] }

def attached : Sys2Proof.Machine.State :=
  withMem (withMem (ready [cmdAs .queued { runDesc with table := 0x1000 }]) 0x1000 ([0, 0x20, 0, 0, 0, 0, 0, 0, 1] ++ List.replicate 23 0)) 0x2000
    (([0x01, 0, 0, 2] ++ List.replicate 4 0 ++ [1, 0, 0, 0, 1, 0, 1, 0, 1, 0, 0, 0, 0, 0, 0, 0, 0, 0x40, 0, 0, 0, 0, 0, 0, 0, 0x30] ++ List.replicate 14 0 ++ [1] ++ List.replicate 9 0 ++ [15] : List Byte) ++ List.replicate 69 0)

def loadDesc (op : Nat) (swap : Bool) : Desc := { opcode := op, target := 1, crews := if op = 4 then 5 else 0, arg := 8 + 16 * 2 ^ 19 + (if swap then 2 ^ 63 else 0), table := 0x1000 }

def jobBytes4 (flags : Nat) : List Byte :=
  toBytes 2 (4 + flags) ++ toBytes 2 16 ++ toBytes 4 2 ++ toBytes 8 0x2000 ++ toBytes 8 0 ++ toBytes 8 0 ++ toBytes 8 0x3000 ++ toBytes 8 0 ++ toBytes 4 1 ++ toBytes 4 0 ++ toBytes 4 64 ++ toBytes 4 0

def sieveCmd (b : Bool) : Cmd := { cmdAs .running { opcode := 3, arg := 0, table := 0x1000 + 2 ^ 48 } with launched := b }

def sieving (flags : Nat) : Sys2Proof.Machine.State :=
  { withMem (ready [sieveCmd true]) 0x2000 (toBytes 4 0x3F800000) with levels := [(0, { up := true, sieve := { busy := true, tag := 5, list := 0x1000, jobs := 1, jobRec := jobBytes4 flags } })] }

def doneCmd : Cmd := { cmdAs .running runDesc with launched := true, everStarted := true, start := 900 }

def boxes (x : Mbx) : Sys2Proof.Machine.State := { ready [] with mbx := [(1, x)] }

def box (v : Nat) : Mbx := { enable := true, isOpen := true, version := v, qid := 0x1001, reqTail := 1 }

def rq (p : List Byte) (n : Nat := p.length) : Req := { version := 2, seq := 7, len := n, payload := p }

def rq3 (typ : Nat) (p : List Byte) : Req :=
  let r : Req := { version := 3, seq := 7, len := p.length, payload := p }
  { r with check := (crc32c (reqHeader typ r ++ payloadOf r)).toNat }

def rqE (typ e : Nat) (p : List Byte) : Req :=
  let r : Req := { version := 3, seq := 7, epoch := e, len := p.length, payload := p }
  { r with check := (crc32c (reqHeader typ r ++ payloadOf r)).toNat }

def descBytes (tag : Nat) : List Byte := ([3, 1, 0x1E, 0] ++ toBytes 4 tag ++ toBytes 4 7 ++ toBytes 2 5 ++ toBytes 2 1 ++ [3]) ++ List.replicate 47 0

def bootable (s : Sys2Proof.Machine.State) : Sys2Proof.Machine.State := { s with trust := { s.trust with fwA := { valid := true, confirmed := true, verifies := true, svn := 2, version := 3 } }, pins := { s.pins with vinOk := true, vauxOk := true, served := true } }

def snapper (n : Snap) : Sys2Proof.Machine.State :=
  withMem { boxes (box 2) with conf := { stage := 1 }, snap := { n with rate := 6, drives := 1, half := 100000 } } 0x1000
    (toBytes 2 1 ++ List.replicate 62 0 ++ toBytes 8 0x4000 ++ toBytes 8 0x1000)

def emptySeg : Segm := { region := 0, drive := 0, len := 0, offset := 0, lba := 1024, digest := segDigest [] [] 0x4000 0 }

def manifestOf (rs : List (Nat × Nat)) (gs : List Segm) : Slot :=
  let body := bodyBytes rs [] gs
  { header := toBytes 4 0x53768160 ++ toBytes 2 1 ++ [1, 1] ++ toBytes 8 4 ++ toBytes 6 5 ++ toBytes 2 rs.length ++ List.replicate 20 0 ++
      toBytes 4 gs.length ++ toBytes 4 body.length ++ List.replicate 12 0 ++ digest body ++ toBytes 20 77
    body := body }

def slotOne : Slot := manifestOf [(0x4000, 0x1000)] [emptySeg, { emptySeg with lba := 1041 }]

def manifestJob : NvmeJob := { drive := 0, cmd := .read 0 2, since := 900 }

def segmentJob (i : Nat) : NvmeJob := { drive := 0, cmd := .read 1024 16416, since := 900, seg := some i }

def restoring (ws : List NvmeJob) : Snap :=
  { op := 4, isRestore := true, okA := true, slotA := slotOne, waits := ws, mask := 1, unsignedOk := true, serials := [77], regions := [(0x4000, 0x1000)], segTodo := [0, 1] }

def planReq : Req := rq (toBytes 8 0x1000 ++ toBytes 4 7)

def draining (phase : Nat) : Snap := { op := 3, phase := phase, skipSame := false, regions := [(0x4000, 64)], staged := [(0x4000, [(0x4005, 9)], 5)] }

def sameDrain : Snap := { draining 3 with
  skipSame := true, old := manifestOf [(0x4000, 64)] [(buildSegment (snapper (draining 3)) 0 (0, 0, 64)).1] }

def flushJob : NvmeJob := { drive := 0, cmd := .flush, since := 900 }

def upPort : Port := { state := .up, gen := 3, lanes := 15, cfg := 0x3E7, live := 0x3E7, partner := 5 }

def linked (x : Port) : Sys2Proof.Machine.State :=
  { ready [] with ports := [(2, x), (7, { upPort with state := .up })], fabId := 9, routes := [(5, 0x12), (6, 0x17)], lands := [(1, { base := 0x10000, ctl := 0x04090C01 })] }

def fabTo (typ dst : Nat) (spec payload : List Byte) : FabMsg := { typ := typ, dst := dst, src := 5, ttl := 4, spec := spec, payload := payload }

def putData (w off len part : Nat) (bs : List Byte) : FabMsg := fabTo 1 9 (toBytes 6 77 ++ toBytes 1 w ++ toBytes 8 off ++ toBytes 4 len ++ toBytes 1 part) bs

def flit (f : Flit) : Flit := { f with crc := flitCrc f }

def badFlit (f : Flit) : Flit := { f with crc := flitCrc f + 1 }

def keptFlit (n : Nat) : Kept := { seq := n, vc := 0, som := true, eom := true, out := .msix 0, part := 0 }

def bulkCmd (put : Bool) (st : Nat) : Cmd :=
  { doneCmd with bulk := [{ put := put, dst := 5, target := 1, sub := false, src := 0x1000, offset := 0, length := 128, n := 3, done := some 8, state := st }] }

def theBulk (put : Bool) (st : Nat) : Bulk := { put := put, dst := 5, target := 1, sub := false, src := 0x1000, offset := 0, length := 128, n := 3, done := some 8, state := st }

def asking (q : QSlot) : Sys2Proof.Machine.State :=
  { linked upPort with conf := { q := 1 }, qclass := [(2, 0x10001)], phys := [(3, { logical := 19, state := 1 })], qslots := [(1, q)] }

def query (n : Nat) : FabMsg := fabTo 0x30 9 ([2, 0, 0, 0] ++ toBytes 4 4660 ++ List.replicate 12 0) (List.replicate n 7)

def heldQ : QSlot := { busy := true, qid := 4660, cls := 2, port := 2, src := 5, arrival := 900, voidAt := 5000 }

def awake (s : Sys2Proof.Machine.State) : Sys2Proof.Machine.State := { s with pins := { s.pins with vauxOk := true, vinOk := true, served := true } }

def sideDown (s : Sys2Proof.Machine.State) : Sys2Proof.Machine.State := { s with pins := { s.pins with vauxOk := false } }

def sup (s : Sys2Proof.Machine.State) : Sys2Proof.Machine.State := awake { s with ports := [(2, upPort), (7, upPort)], fabId := 9 }

def downPowered : Sys2Proof.Machine.State := { flt := { history := [5], canary0 := 0x30013, recLog := [6] }, pins := { vauxOk := true } }

def physed (ps : List (Nat × Phys)) (remap : Bool) : Sys2Proof.Machine.State :=
  { sup (ready []) with phys := ps, conf := { remap := remap }, stopes := [(0, { agents := [(3, { state := .running })], double := true })], stackTab := [(2, { poison := [9] })] }

def record : List Byte := toBytes 2 0x0201 ++ List.replicate 62 1

def lowPin : Sys2Proof.Machine.State := let s := sup (bootable (ready [])); { s with pins := { s.pins with resetLow := true, lowActed := true, lowNs := 20000 } }

def booting (x : BootStep) : Sys2Proof.Machine.State :=
  { bootable downPowered with boot := { steps := [x, .ready], aon := true, reset := true }, flt := { h0Active := true, clearAtReset := true, retStopes := [3] } }

def leaving (x : BootStep) : Sys2Proof.Machine.State := { booting x with power := .vigil, ports := [(2, { upPort with state := .vigil })] }

def drive1 : Drive := { serial := 77, lbas := 200000 }

def failing (f : Faults) : Sys2Proof.Machine.State := { sup (ready []) with flt := f }

theorem flit_sound (f : Flit) : flitSound (flit f) = true := decide_eq_true rfl

theorem flit_bad (f : Flit) : flitSound (badFlit f) = false :=
  decide_eq_false (show ¬ flitCrc f + 1 = flitCrc f by generalize flitCrc f = x; bv_omega)

theorem home_cells (s : Sys2Proof.Machine.State) (l : List (Nat × List Host.Cell × Word64))
    (h : ∀ e ∈ l, e.1 < dataEnd s 0 ∧ e.1 % 4096 = 0) :
    ∀ e ∈ l, ∃ k o, e.1 = hbmAddr k o ∧ k < 16 ∧ o < dataEnd s k ∧ o % 4096 = 0 :=
  fun e he => ⟨0, e.1, by simp [hbmAddr], by decide, h e he⟩

theorem no_mem {α : Type} {l : List α} {p : α → Prop} (h : l = []) : ∀ x ∈ l, p x := by
  intro x hx; rw [h] at hx; exact absurd hx List.not_mem_nil

/-- The certificates are no longer than the identity block, so that they fit from 0x8000 on. -/
theorem certificates_fit : addrOk (snapper {}) (pay (rq (toBytes 8 0x8000)) 0 8) (max Config.certificates.length 1) = true := by
  have e : pay (rq (toBytes 8 0x8000)) 0 8 = 0x8000 := by decide +kernel
  have hn : Config.certificates.length < 2 ^ 16 := by simp [Config.certificates]
  rw [e]
  generalize Config.certificates.length = n at hn
  have hd : dataEnd (snapper {}) 0 = 36297506816 := by decide +kernel
  have hl : ∀ m, m < 2 ^ 17 → locate (snapper {}) m = .hbm 0 m := by
    intro m hm
    have h1 : m / 2 ^ 36 = 0 := by omega
    have h2 : m % 2 ^ 36 = m := by omega
    unfold locate
    rw [if_pos (by omega), h1, h2]
    dsimp only
    rw [hd, if_pos (by omega)]
  unfold addrOk inHbm
  rw [hl 0x8000 (by omega), hl (0x8000 + max n 1 - 1) (by omega)]
  simp
  omega

theorem below_gob (s : Sys2Proof.Machine.State) (k g : Nat) (h : g + 4096 ≤ (stackOf s k).gobBase) :
    ∀ j, j < 4096 → inGob s k (g + j) = false := by
  intro j hj; simp only [inGob, decide_eq_false_iff_not]; omega

/-- The comparison against an entry written for CRC v. -/
theorem checkEntry_word (pa shape : Nat) (v w : Word32) :
    checkEntry (entryWord pa shape v) pa shape w = if v = w then .ok else .badCrc := by
  have hv := v.isLt
  have hw := w.isLt
  have e : ∀ z : Word32, (entryWord pa shape z).toNat =
      z.toNat + (crc32c (toBytes 8 shape)).toNat % 2 ^ 16 * 2 ^ 32 + pa % 4096 / 64 * 2 ^ 48 + 2 ^ 55 := by
    intro z
    have hz := z.isLt
    simp only [entryWord, BitVec.toNat_ofNat]
    omega
  simp only [checkEntry, e, bits, bit, Nat.shiftRight_eq_div_pow, Nat.testBit_eq_decide_div_mod_eq]
  generalize (crc32c (toBytes 8 shape)).toNat = q
  have h1 : v.toNat = w.toNat ↔ v = w := BitVec.toNat_inj
  rw [if_pos]
  · have : (v.toNat + q % 2 ^ 16 * 2 ^ 32 + pa % 4096 / 64 * 2 ^ 48 + 2 ^ 55) / 2 ^ 0 % 2 ^ 32 = v.toNat := by omega
    rw [this]; simp [h1]
  · refine ⟨?_, ?_, ?_⟩ <;> first | (simp only [decide_eq_true_eq]; omega) | omega

/-- The bytes a check of `checking` compares: those of a load of no rows. -/
def checkedCrc : Word32 :=
  crcRun (shapeCrc (weightShape scaleCheck)) (loadedBytes { issue := 40, pace := .slow, rows := [] } scaleCheck) ^^^ 0xFFFFFFFF

def checkLanded (s : Sys2Proof.Machine.State) : TileCheck :=
  let u := reachCycle s 0 scaleCheck.due
  let x := stopeOf u 0
  compareTile (putStope u 0 { x with wchecks := x.wchecks.erase scaleCheck }) 0 scaleCheck
    (loadedBytes (loadOf { x with wchecks := x.wchecks.erase scaleCheck } scaleCheck) scaleCheck)



theorem checking_reach (e : Word64) : reachCycle (checking e) 0 110 =
    modStope (advance (checking e) 110) 0 (fun y => { y with arr0 := { mark := 110 }, arr1 := { mark := 110 } }) := by
  have e1 : reachCycle (checking e) 0 110 = settle (advance (checking e) 110) 0 := by
    unfold reachCycle
    have h0 : (stopeOf (checking e) 0).clk = {} := rfl
    have h1 : dueAt {} 110 = 110 := by decide
    simp [h0, h1]
  have e2 : settle (advance (checking e) 110) 0 = settleAt (advance (checking e) 110) 0 110 := by
    unfold settle
    have h0 : (stopeOf (advance (checking e) 110) 0).clk = {} := rfl
    have h1 : (advance (checking e) 110).now = 110 := by simp [advance, passTo, checking]
    rw [h0, h1]; rfl
  rw [e1, e2]
  unfold settleAt
  dsimp only
  have h : dueCount (stopeOf (advance (checking e) 110) 0) = 0 := rfl
  rw [h]
  rfl

theorem checking_side (e : Word64) :
    let u := reachCycle (checking e) 0 scaleCheck.due
    let x := stopeOf u 0
    sideEntry (putStope u 0 { x with wchecks := x.wchecks.erase scaleCheck }) (checkAddr 0 scaleCheck)
     = e := by
  have e0 : reachCycle (checking e) 0 scaleCheck.due = _ := checking_reach e
  rw [e0]; rfl

theorem checking_load (e : Word64) :
    let u := reachCycle (checking e) 0 scaleCheck.due
    let x := stopeOf u 0
    loadOf { x with wchecks := x.wchecks.erase scaleCheck } scaleCheck = { issue := 40, pace := .slow, rows := [] } := by
  have e0 : reachCycle (checking e) 0 scaleCheck.due = _ := checking_reach e
  rw [e0]; rfl

theorem checking_reads (e : Word64) : checkLanded (checking e) = checkEntry e (checkAddr 0 scaleCheck) (weightShape scaleCheck) checkedCrc := by
  unfold checkLanded compareTile
  dsimp only
  rw [checking_load, checking_side]
  rfl

theorem checkEntry_zero (pa shape : Nat) (w : Word32) : checkEntry 0 pa shape w = .mismatch := by
  unfold checkEntry
  rw [if_neg]
  rintro ⟨h, -⟩
  revert h
  decide


theorem checking_runs (e : Word64) : (stopeOf (reachCycle (checking e) 0 scaleCheck.due) 0).clk.stopped = false := by
  have e0 : reachCycle (checking e) 0 scaleCheck.due = _ := checking_reach e
  rw [e0]; rfl

theorem flying_sums : (forwardSums (planeOf (arrOf (stopeOf flying 0) 1) flight.plane) flight 0 256).isSome = true := by decide +kernel

theorem checking_good (v : Word32) : checkLanded (checking (goodEntry v)) = if v = checkedCrc then .ok else .badCrc :=
  (checking_reads _).trans (checkEntry_word (checkAddr 0 scaleCheck) (weightShape scaleCheck) v checkedCrc)

theorem checking_ok : checkLanded (checking (goodEntry checkedCrc)) = .ok := (checking_good _).trans (if_pos rfl)

theorem checking_bad : checkLanded (checking (goodEntry (checkedCrc + 1))) = .badCrc :=
  (checking_good _).trans (if_neg (by generalize checkedCrc = v; bv_omega))


theorem locate_low (s : Sys2Proof.Machine.State) (z : Nat) (hd : 2 ^ 30 < dataEnd s 0) (hz : z ≤ 2 ^ 30) : locate s z = .hbm 0 z := by
  have h1 : z / 2 ^ 36 = 0 := by omega
  have h2 : z % 2 ^ 36 = z := by omega
  unfold locate
  rw [if_pos (by omega), h1, h2]
  dsimp only
  rw [if_pos (by omega)]

/-- Low addresses of stack 0, with no gob and no commit region, take a result. -/
theorem lands_low (s : Sys2Proof.Machine.State) (h : Hoist) (x : HSlot) (hd : 2 ^ 30 < dataEnd s 0) (hg : (stackOf s 0).gobCap = 0)
    (hr : ∀ o, commitGranule s 0 o = false) (ho : s.snap.op ≠ 2)
    (h1 : x.entry.recPa + (resultRecord s h x).length ≤ 2 ^ 30)
    (h2 : x.entry.dst + 4 * sliceElems h * sliceCount h x.entry + 16384 ≤ 2 ^ 30) : ResultLands s h x := by
  intro a n han
  have hb : a + n ≤ 2 ^ 30 := by omega
  have hz : ∀ z, inGob s 0 z = false := by
    intro z
    simp only [inGob, hg, gobSpan, decide_eq_false_iff_not]
    omega
  have hgob : gobIn s a n = false := by
    simp only [gobIn, List.any_eq_false, List.mem_range, gobAt]
    intro i hi
    rw [locate_low s _ hd (by omega), locate_low s _ hd (by omega)]
    show ¬ (inGob s 0 _ || inGob s 0 _) = true
    rw [hz, hz]
    decide
  refine ⟨?_, ho, hgob, ?_⟩
  · simp only [refusedWrite, hgob, Bool.and_false, Bool.or_false, Bool.not_eq_false', wholly, List.all_eq_true, List.mem_range]
    intro i hi
    simp only [takesBytes, mayWrite]
    rw [locate_low s _ hd (by omega)]
    rfl
  · intro g hm
    simp only [granulesOf, List.mem_filterMap, List.mem_range] at hm
    obtain ⟨i, hi, e⟩ := hm
    rw [locate_low s _ hd (by omega)] at e
    simp only [Option.some.injEq] at e
    subst e
    exact hr _

theorem no_regions (s : Sys2Proof.Machine.State) (h : (List.range 16).all (fun r => (regionIn s.rnd.liveBase s.rnd.liveSize r).isNone) = true) (o : Nat) :
    commitGranule s 0 o = false := by
  simp only [commitGranule, List.any_eq_false]
  intro r hr
  have := List.all_eq_true.1 h r hr
  rw [Option.isNone_iff_eq_none] at this
  simp [this]
/-! ### Every premise can be met -/

/-- States that meet the premises of StoreAccessesMoveBytes. -/
theorem test_meets_StoreAccessesMoveBytes :
  (∃ st : Nat, ∃ ag : Nat, ∃ w : Word64, ∃ s : State, ∃ e : Ecc, (Issues s st ag w 0x0D) ∧
    (scalarMemOk ag w = true) ∧
    (let c := atCycle s st ag (storeNeed s st ag w 8) 0 always
    let u := atIssue s st ag c
    let m := scalarMem st ag w
    let o := storeOff (crewOf u st ag) w
    (o < m.2) ∧
    (o % 8 = 0) ∧
    (e ≠ .bad))) ∧
  (∃ st : Nat, ∃ ag : Nat, ∃ w : Word64, ∃ s : State, (Issues s st ag w 0x0D) ∧
    (scalarMemOk ag w = true) ∧
    ((scalarMem st ag w).2 = 2 ^ 24) ∧
    (let c := atCycle s st ag (storeNeed s st ag w 8) 0 always
    let u := atIssue s st ag c
    let o := storeOff (crewOf u st ag) w
    (o < 2 ^ 24) ∧
    (o % 8 = 0))) ∧
  (∃ st : Nat, ∃ ag : Nat, ∃ w : Word64, ∃ s : State, (Issues s st ag w 0x0E) ∧
    (scalarMemOk ag w = true) ∧
    (let c := atCycle s st ag (storeNeed s st ag w 8) 0 always
    let u := atIssue s st ag c
    let m := scalarMem st ag w
    let o := storeOff (crewOf u st ag) w
    (o < m.2) ∧
    (o % 8 = 0))) ∧
  (∃ st : Nat, ∃ ag : Nat, ∃ w : Word64, ∃ s : State, ∃ e : Ecc, (Issues s st ag w 0x18) ∧
    (ag ≠ 16) ∧
    (onlyFields w [pPred, pD, pA, pImm] = true) ∧
    (predOk w = true) ∧
    (let c := atCycle s st ag (storeNeed s st ag w 512) 0 always
    let u := atIssue s st ag c
    let k := crewOf u st ag
    let o := storeOff k w
    (o + 512 ≤ 2 ^ 24) ∧
    (o % 64 = 0) ∧
    (e ≠ .bad))) ∧
  (∃ st : Nat, ∃ ag : Nat, ∃ w : Word64, ∃ s : State, (Issues s st ag w 0x18) ∧
    (ag ≠ 16) ∧
    (onlyFields w [pPred, pD, pA, pImm] = true) ∧
    (predOk w = true) ∧
    (let c := atCycle s st ag (storeNeed s st ag w 512) 0 always
    let u := atIssue s st ag c
    let o := storeOff (crewOf u st ag) w
    (o + 512 ≤ 2 ^ 24) ∧
    (o % 64 = 0))) ∧
  (∃ st : Nat, ∃ ag : Nat, ∃ w : Word64, ∃ s : State, (Issues s st ag w 0x19) ∧
    (ag ≠ 16) ∧
    (onlyFields w [pPred, pD, pA, pImm] = true) ∧
    (predOk w = true) ∧
    (let c := atCycle s st ag (storeNeed s st ag w 512) 0 always
    let u := atIssue s st ag c
    let k := crewOf u st ag
    let o := storeOff k w
    (o + 512 ≤ 2 ^ 24) ∧
    (o % 64 = 0))) := by
  refine ⟨?_, ?_, ?_, ?_, ?_, ?_⟩
  · refine ⟨0, 3, wd [(0, 0x0D), (16, 1), (21, 2), (26, 8)], withMem (crew3 [(2, 64)]) (storeAddr 0 72) [1, 2, 3], .cured, ?_⟩; dsimp only <;> (unfold Issues; decide +kernel)
  · refine ⟨0, 3, wd [(0, 0x0D), (16, 1), (21, 2), (26, 8)], withMem (crew3 [(2, 64)]) (storeAddr 0 72) [1, 2, 3], ?_⟩; dsimp only <;> (unfold Issues; decide +kernel)
  · refine ⟨0, 3, wd [(0, 0x0E), (16, 2), (21, 2), (26, 8)], crew3 [(2, 0xFFFFF0)], ?_⟩; dsimp only <;> (unfold Issues; decide +kernel)
  · refine ⟨0, 3, wd [(0, 0x18), (16, 1), (21, 2), (26, 0xFFFFFFC0)], withMem (crew3 [(2, 128)]) (storeAddr 0 64) [1, 2, 3], .clean, ?_⟩; dsimp only <;> (unfold Issues; decide +kernel)
  · refine ⟨0, 3, wd [(0, 0x18), (16, 1), (21, 2), (26, 0xFFFFFFC0)], withMem (crew3 [(2, 128)]) (storeAddr 0 64) [1, 2, 3], ?_⟩; dsimp only <;> (unfold Issues; decide +kernel)
  · refine ⟨0, 3, wd [(0, 0x19), (7, 9), (16, 1), (21, 2)], one 3 { state := .running, s := [(2, 128)], p := [(1, 0xFF)], v := [(1, 0x1234567)] }, ?_⟩; dsimp only <;> (unfold Issues; decide +kernel)

/-- States that meet the premises of StoreAccessesTrapOnBadOffset. -/
theorem test_meets_StoreAccessesTrapOnBadOffset :
  (∃ st : Nat, ∃ ag : Nat, ∃ w : Word64, ∃ s : State, (ag < 16) ∧
    (onlyFields w [pD, pA, pImm] = true) ∧
    (let c := atCycle s st ag (storeNeed s st ag w 8) 0 always
    let u := atIssue s st ag c
    let o := storeOff (crewOf u st ag) w
    (2 ^ 24 ≤ o) ∧
    (Issues s st ag w 0x0D))) ∧
  (∃ st : Nat, ∃ ag : Nat, ∃ w : Word64, ∃ s : State, (ag < 16) ∧
    (onlyFields w [pD, pA, pImm] = true) ∧
    (let c := atCycle s st ag (storeNeed s st ag w 8) 0 always
    let u := atIssue s st ag c
    let o := storeOff (crewOf u st ag) w
    (2 ^ 24 ≤ o) ∧
    (Issues s st ag w 0x0E))) ∧
  (∃ st : Nat, ∃ ag : Nat, ∃ w : Word64, ∃ s : State, (ag < 16) ∧
    (onlyFields w [pD, pA, pImm] = true) ∧
    (let c := atCycle s st ag (storeNeed s st ag w 8) 0 always
    let u := atIssue s st ag c
    let o := storeOff (crewOf u st ag) w
    (o < 2 ^ 24) ∧
    (o % 8 ≠ 0) ∧
    (Issues s st ag w 0x0D))) ∧
  (∃ st : Nat, ∃ ag : Nat, ∃ w : Word64, ∃ s : State, (ag < 16) ∧
    (onlyFields w [pD, pA, pImm] = true) ∧
    (let c := atCycle s st ag (storeNeed s st ag w 8) 0 always
    let u := atIssue s st ag c
    let o := storeOff (crewOf u st ag) w
    (o < 2 ^ 24) ∧
    (o % 8 ≠ 0) ∧
    (Issues s st ag w 0x0E))) ∧
  (∃ st : Nat, ∃ ag : Nat, ∃ w : Word64, ∃ s : State, (ag < 16) ∧
    (onlyFields w [pPred, pD, pA, pImm] = true) ∧
    (predOk w = true) ∧
    (let c := atCycle s st ag (storeNeed s st ag w 512) 0 always
    let u := atIssue s st ag c
    let o := storeOff (crewOf u st ag) w
    (2 ^ 24 ≤ o ∨ (o % 64 = 0 ∧ 2 ^ 24 < o + 512)) ∧
    (Issues s st ag w 0x18))) ∧
  (∃ st : Nat, ∃ ag : Nat, ∃ w : Word64, ∃ s : State, (ag < 16) ∧
    (onlyFields w [pPred, pD, pA, pImm] = true) ∧
    (predOk w = true) ∧
    (let c := atCycle s st ag (storeNeed s st ag w 512) 0 always
    let u := atIssue s st ag c
    let o := storeOff (crewOf u st ag) w
    (2 ^ 24 ≤ o ∨ (o % 64 = 0 ∧ 2 ^ 24 < o + 512)) ∧
    (Issues s st ag w 0x19))) ∧
  (∃ st : Nat, ∃ ag : Nat, ∃ w : Word64, ∃ s : State, (ag < 16) ∧
    (onlyFields w [pPred, pD, pA, pImm] = true) ∧
    (predOk w = true) ∧
    (let c := atCycle s st ag (storeNeed s st ag w 512) 0 always
    let u := atIssue s st ag c
    let o := storeOff (crewOf u st ag) w
    (o < 2 ^ 24) ∧
    (o % 64 ≠ 0) ∧
    (Issues s st ag w 0x18))) ∧
  (∃ st : Nat, ∃ ag : Nat, ∃ w : Word64, ∃ s : State, (ag < 16) ∧
    (onlyFields w [pPred, pD, pA, pImm] = true) ∧
    (predOk w = true) ∧
    (let c := atCycle s st ag (storeNeed s st ag w 512) 0 always
    let u := atIssue s st ag c
    let o := storeOff (crewOf u st ag) w
    (o < 2 ^ 24) ∧
    (o % 64 ≠ 0) ∧
    (Issues s st ag w 0x19))) := by
  refine ⟨?_, ?_, ?_, ?_, ?_, ?_, ?_, ?_⟩
  · refine ⟨0, 3, wd [(0, 0x0D), (16, 1), (21, 2)], crew3 [(2, 0x1000000)], ?_⟩; dsimp only <;> (unfold Issues; decide +kernel)
  · refine ⟨0, 3, wd [(0, 0x0E), (16, 1), (21, 2)], crew3 [(2, 0x1000000)], ?_⟩; dsimp only <;> (unfold Issues; decide +kernel)
  · refine ⟨0, 3, wd [(0, 0x0D), (16, 1), (21, 2)], crew3 [(2, 4)], ?_⟩; dsimp only <;> (unfold Issues; decide +kernel)
  · refine ⟨0, 3, wd [(0, 0x0E), (16, 1), (21, 2)], crew3 [(2, 0xFFFFFF)], ?_⟩; dsimp only <;> (unfold Issues; decide +kernel)
  · refine ⟨0, 3, wd [(0, 0x18), (16, 1), (21, 2)], crew3 [(2, 0xFFFFC0)], ?_⟩; dsimp only <;> (unfold Issues; decide +kernel)
  · refine ⟨0, 3, wd [(0, 0x19), (16, 1), (21, 2)], crew3 [(2, 0x1000000)], ?_⟩; dsimp only <;> (unfold Issues; decide +kernel)
  · refine ⟨0, 3, wd [(0, 0x18), (16, 1), (21, 2)], crew3 [(2, 32)], ?_⟩; dsimp only <;> (unfold Issues; decide +kernel)
  · refine ⟨0, 3, wd [(0, 0x19), (16, 1), (21, 2)], crew3 [(2, 0xFFFFE0)], ?_⟩; dsimp only <;> (unfold Issues; decide +kernel)

/-- States that meet the premises of BranchesGo. -/
theorem test_meets_BranchesGo :
  (∃ st : Nat, ∃ ag : Nat, ∃ w : Word64, ∃ s : State, (Issues s st ag w 0x40) ∧
    (onlyFields w [pA, pB, pCond, pTgt] = true) ∧
    (bCond w ≠ 7)) ∧
  (∃ st : Nat, ∃ ag : Nat, ∃ w : Word64, ∃ s : State, (Issues s st ag w 0x41) ∧
    (onlyFields w [pA, pTgt] = true)) ∧
  (∃ st : Nat, ∃ ag : Nat, ∃ w : Word64, ∃ s : State, (Issues s st ag w 0x42) ∧
    (onlyFields w [pA] = true)) := by
  refine ⟨?_, ?_, ?_⟩
  · refine ⟨0, 3, wd [(0, 0x40), (21, 1), (26, 2), (31, 1), (34, 32767)], crew3 [(1, 4), (2, 4)], ?_⟩; unfold Issues; decide +kernel
  · refine ⟨0, 3, wd [(0, 0x41), (21, 1), (34, 9)], crew3 [], ?_⟩; unfold Issues; decide +kernel
  · refine ⟨0, 3, wd [(0, 0x42), (21, 1)], crew3 [(1, 0x8007)], ?_⟩; unfold Issues; decide +kernel

/-- States that meet the premises of LoopsOpenAndCount. -/
theorem test_meets_LoopsOpenAndCount :
  (∃ st : Nat, ∃ ag : Nat, ∃ w : Word64, ∃ s : State, (ag ≠ 16) ∧
    (let u := plainState s st ag
    let k := crewOf u st ag
    let n := (lcReg k (bLvl w)).toNat
    (Issues s st ag w 0x43) ∧
    (onlyFields w [pLvl, pTgt] = true) ∧
    (bLvl w = k.loops.length) ∧
    (k.loops.length < 4) ∧
    (k.pc < bTgt w) ∧
    (n = 0))) ∧
  (∃ st : Nat, ∃ ag : Nat, ∃ w : Word64, ∃ s : State, (ag ≠ 16) ∧
    (let u := plainState s st ag
    let k := crewOf u st ag
    let n := (lcReg k (bLvl w)).toNat
    (Issues s st ag w 0x43) ∧
    (onlyFields w [pLvl, pTgt] = true) ∧
    (bLvl w = k.loops.length) ∧
    (k.loops.length < 4) ∧
    (k.pc < bTgt w) ∧
    (n ≠ 0))) ∧
  (∃ st : Nat, ∃ ag : Nat, ∃ w : Word64, ∃ s : State, (ag ≠ 16) ∧
    (Issues s st ag w 0x44) ∧
    (onlyFields w [pLvl, pA] = true)) ∧
  (∃ st : Nat, ∃ ag : Nat, ∃ w : Word64, ∃ s : State, (ag ≠ 16) ∧
    (Issues s st ag w 0x45) ∧
    (onlyFields w [pLvl, pA] = true)) := by
  refine ⟨?_, ?_, ?_, ?_⟩
  · refine ⟨0, 3, wd [(0, 0x43), (16, 0), (34, 9)], one 3 { state := .running, pc := 5 }, ?_⟩; dsimp only <;> (unfold Issues; decide +kernel)
  · refine ⟨0, 3, wd [(0, 0x43), (16, 3), (34, 9)], one 3 { state := .running, pc := 5, lc := [(3, 2)], loops := [⟨1, 9, 1, 0⟩, ⟨1, 9, 1, 0⟩, ⟨1, 9, 1, 0⟩] }, ?_⟩; dsimp only <;> (unfold Issues; decide +kernel)
  · refine ⟨0, 3, wd [(0, 0x44), (16, 3), (21, 1)], crew3 [(1, 0x100000002)], ?_⟩; unfold Issues; decide +kernel
  · refine ⟨0, 3, wd [(0, 0x45), (16, 0), (21, 1)], one 3 { state := .running, pc := 5, loops := [⟨1, 9, 1, 7⟩] }, ?_⟩; unfold Issues; decide +kernel

/-- States that meet the premises of WaitFenceHalt. -/
theorem test_meets_WaitFenceHalt :
  (∃ st : Nat, ∃ ag : Nat, ∃ w : Word64, ∃ s : State, (Issues s st ag w 0x00) ∧
    (onlyFields w [pImm] = true)) ∧
  (∃ st : Nat, ∃ ag : Nat, ∃ w : Word64, ∃ s : State, let u := plainState s st ag
    (Issues s st ag w 0x46) ∧
    (ag ≠ 16) ∧
    (onlyFields w [pTgt] = true) ∧
    ((stopeOf u st).swapPending = false)) ∧
  (∃ st : Nat, ∃ ag : Nat, ∃ w : Word64, ∃ s : State, let u := plainState s st ag
    (Issues s st ag w 0x46) ∧
    (ag ≠ 16) ∧
    (onlyFields w [pTgt] = true) ∧
    ((stopeOf u st).swapPending = true)) ∧
  (∃ st : Nat, ∃ ag : Nat, ∃ w : Word64, ∃ s : State, (Issues s st ag w 0x47) ∧
    (onlyFields w [] = true)) := by
  refine ⟨?_, ?_, ?_, ?_⟩
  · refine ⟨0, 3, wd [(26, 0)], crew3 [], ?_⟩; unfold Issues; decide +kernel
  · refine ⟨0, 3, wd [(0, 0x46), (34, 9)], crew3 [], ?_⟩; dsimp only <;> (unfold Issues; decide +kernel)
  · refine ⟨0, 3, wd [(0, 0x46), (34, 9)], crew3 [] { swapPending := true }, ?_⟩; dsimp only <;> (unfold Issues; decide +kernel)
  · refine ⟨0, 16, wd [(0, 0x47)], ovm [], ?_⟩; unfold Issues; decide +kernel

/-- States that meet the premises of TallyInstructionsIssue. -/
theorem test_meets_TallyInstructionsIssue :
  (∃ st : Nat, ∃ ag : Nat, ∃ w : Word64, ∃ s : State, (tallyOk w = true) ∧
    (Issues s st ag w 0x50) ∧
    (onlyFields w (pSub :: countFields w) = true) ∧
    (fSub w ≤ 1)) ∧
  (∃ st : Nat, ∃ ag : Nat, ∃ w : Word64, ∃ s : State, (tallyOk w = true) ∧
    (Issues s st ag w 0x51) ∧
    (ag ≠ 16) ∧
    (onlyFields w (countFields w) = true)) ∧
  (∃ st : Nat, ∃ ag : Nat, ∃ w : Word64, ∃ s : State, (tallyOk w = true) ∧
    (Issues s st ag w 0x52) ∧
    (ag ≠ 16) ∧
    (onlyFields w (countFields w) = true)) ∧
  (∃ st : Nat, ∃ ag : Nat, ∃ w : Word64, ∃ s : State, (tallyOk w = true) ∧
    (Issues s st ag w 0x53) ∧
    (onlyFields w [pSc, pNum, pYA] = true)) := by
  refine ⟨?_, ?_, ?_, ?_⟩
  · refine ⟨0, 3, wd [(0, 0x50), (18, 63), (33, 5)], crew3 [], ?_⟩; unfold Issues; decide +kernel
  · refine ⟨0, 3, wd [(0, 0x51), (16, 1), (18, 255), (28, 1), (49, 1)], crew3 [(1, 8)], ?_⟩; unfold Issues; decide +kernel
  · refine ⟨0, 3, wd [(0, 0x52), (16, 2), (18, 1023), (33, 5)], crew3 [], ?_⟩; unfold Issues; decide +kernel
  · refine ⟨0, 3, wd [(0, 0x53), (16, 2), (18, 1023), (28, 1)], crew3 [], ?_⟩; unfold Issues; decide +kernel

/-- States that meet the premises of OvermanReadsAndWritesSystemRegisters. -/
theorem test_meets_OvermanReadsAndWritesSystemRegisters :
  (∃ st : Nat, ∃ w : Word64, ∃ s : State, (Issues s st 16 w 0x60) ∧
    (onlyFields w [pD, pSys] = true)) ∧
  (∃ st : Nat, ∃ w : Word64, ∃ s : State, (Issues s st 16 w 0x61) ∧
    (onlyFields w [pA, pSys] = true)) := by
  refine ⟨?_, ?_⟩
  · refine ⟨0, wd [(0, 0x60), (16, 1), (31, 1)], ovm [] { epc := 7 }, ?_⟩; unfold Issues; decide +kernel
  · refine ⟨0, wd [(0, 0x61), (21, 1), (31, 0x31)], ovm [(1, 7)], ?_⟩; unfold Issues; decide +kernel

/-- States that meet the premises of OvermanStartsAndStopsCrews. -/
theorem test_meets_OvermanStartsAndStopsCrews :
  (∃ st : Nat, ∃ w : Word64, ∃ s : State, let c := plainCycle s st 16
    let u := plainState s st 16
    let o := crewOf u st 16
    let cr := crewArg o w
    let k := crewOf u st cr
    (Issues s st 16 w 0x62) ∧
    (onlyFields w [pD, pA, pB] = true) ∧
    ((shownState k c = .idle ∨ shownState k c = .stopped))) ∧
  (∃ st : Nat, ∃ w : Word64, ∃ s : State, let c := plainCycle s st 16
    let u := plainState s st 16
    let o := crewOf u st 16
    let cr := crewArg o w
    let k := crewOf u st cr
    (Issues s st 16 w 0x62) ∧
    (onlyFields w [pD, pA, pB] = true) ∧
    (shownState k c ≠ .idle) ∧
    (shownState k c ≠ .stopped)) ∧
  (∃ st : Nat, ∃ w : Word64, ∃ s : State, (Issues s st 16 w 0x63) ∧
    (onlyFields w [pA] = true)) ∧
  (∃ st : Nat, ∃ w : Word64, ∃ s : State, let c := plainCycle s st 16
    let u := plainState s st 16
    let o := crewOf u st 16
    let cr := crewArg o w
    let k := crewOf u st cr
    (Issues s st 16 w 0x64) ∧
    (onlyFields w [pA] = true) ∧
    (shownState k c = .stopped)) ∧
  (∃ st : Nat, ∃ w : Word64, ∃ s : State, let c := plainCycle s st 16
    let u := plainState s st 16
    let o := crewOf u st 16
    let cr := crewArg o w
    let k := crewOf u st cr
    (Issues s st 16 w 0x64) ∧
    (onlyFields w [pA] = true) ∧
    (shownState k c = .faulted)) ∧
  (∃ st : Nat, ∃ w : Word64, ∃ s : State, let c := plainCycle s st 16
    let u := plainState s st 16
    let o := crewOf u st 16
    let cr := crewArg o w
    let k := crewOf u st cr
    (Issues s st 16 w 0x64) ∧
    (onlyFields w [pA] = true) ∧
    (shownState k c ≠ .stopped) ∧
    (shownState k c ≠ .faulted)) := by
  refine ⟨?_, ?_, ?_, ?_, ?_, ?_⟩
  · refine ⟨0, wd [(0, 0x62), (16, 1), (21, 2), (26, 3)], ovm [(2, 15), (3, 7)], ?_⟩; dsimp only <;> (unfold Issues; decide +kernel)
  · refine ⟨0, wd [(0, 0x62), (16, 1), (21, 2), (26, 3)], two { state := .running, s := [(2, 3), (3, 7)] } { state := .running }, ?_⟩; dsimp only <;> (unfold Issues; decide +kernel)
  · refine ⟨0, wd [(0, 0x63), (21, 2)], two { state := .running, s := [(2, 3)] } { state := .running }, ?_⟩; unfold Issues; decide +kernel
  · refine ⟨0, wd [(0, 0x64), (21, 2)], two { state := .running, s := [(2, 3)] } { state := .stopped, stopAt := 1 }, ?_⟩; dsimp only <;> (unfold Issues; decide +kernel)
  · refine ⟨0, wd [(0, 0x64), (21, 2)], two { state := .running, s := [(2, 3)] } { state := .faulted }, ?_⟩; dsimp only <;> (unfold Issues; decide +kernel)
  · refine ⟨0, wd [(0, 0x64), (21, 2)], two { state := .running, s := [(2, 3)] } { state := .running }, ?_⟩; dsimp only <;> (unfold Issues; decide +kernel)

/-- States that meet the premises of OvermanReadsAndWritesCrewElements. -/
theorem test_meets_OvermanReadsAndWritesCrewElements :
  (∃ st : Nat, ∃ w : Word64, ∃ s : State, ∃ e : Elem, (elemOf (fSys w) = some e) ∧
    (Issues s st 16 w 0x65) ∧
    (onlyFields w [pD, pA, pSys] = true)) ∧
  (∃ st : Nat, ∃ w : Word64, ∃ s : State, ∃ e : Elem, (elemOf (fSys w) = some e) ∧
    (let c := plainCycle s st 16
    let u := plainState s st 16
    let o := crewOf u st 16
    let cr := crewArg o w
    (Issues s st 16 w 0x66) ∧
    (onlyFields w [pA, pB, pSys] = true) ∧
    (atRest (crewOf u st cr) c = true))) ∧
  (∃ st : Nat, ∃ w : Word64, ∃ s : State, ∃ e : Elem, (elemOf (fSys w) = some e) ∧
    (let c := plainCycle s st 16
    let u := plainState s st 16
    let o := crewOf u st 16
    let cr := crewArg o w
    (Issues s st 16 w 0x66) ∧
    (onlyFields w [pA, pB, pSys] = true) ∧
    (atRest (crewOf u st cr) c = false))) := by
  refine ⟨?_, ?_, ?_⟩
  · refine ⟨0, wd [(0, 0x65), (16, 1), (21, 2), (31, 0x1000)], two { state := .running, s := [(2, 3)] } { state := .running, v := [(0, 77)] }, .v 0 0, ?_⟩; unfold Issues; decide +kernel
  · refine ⟨0, wd [(0, 0x66), (21, 2), (26, 1), (31, 0x4000)], two { state := .running, s := [(2, 3), (1, 9)] } { state := .idle }, .pc, ?_⟩; dsimp only <;> (unfold Issues; decide +kernel)
  · refine ⟨0, wd [(0, 0x66), (21, 2), (26, 1), (31, 5)], two { state := .running, s := [(2, 3), (1, 9)] } { state := .running }, .s 5, ?_⟩; dsimp only <;> (unfold Issues; decide +kernel)

/-- States that meet the premises of OvermanLoadsClaims. -/
theorem test_meets_OvermanLoadsClaims :
  (∃ st : Nat, ∃ w : Word64, ∃ s : State, let u := plainState s st 16
    let o := crewOf u st 16
    let off := (sReg o (fB w)).toNat
    let img := readBytes u (ovmAddr st off) 32
    (Issues s st 16 w 0x67) ∧
    (onlyFields w [pA, pB] = true) ∧
    (off + 32 ≤ 2 ^ 18) ∧
    ((imageClaim img).valid = false)) ∧
  (∃ st : Nat, ∃ w : Word64, ∃ s : State, let u := plainState s st 16
    let o := crewOf u st 16
    let off := (sReg o (fB w)).toNat
    let img := readBytes u (ovmAddr st off) 32
    (Issues s st 16 w 0x67) ∧
    (onlyFields w [pA, pB] = true) ∧
    (off + 32 ≤ 2 ^ 18) ∧
    ((imageClaim img).valid = true) ∧
    (claimBad u img = false)) ∧
  (∃ st : Nat, ∃ w : Word64, ∃ s : State, let u := plainState s st 16
    let o := crewOf u st 16
    let off := (sReg o (fB w)).toNat
    let img := readBytes u (ovmAddr st off) 32
    (Issues s st 16 w 0x67) ∧
    (onlyFields w [pA, pB] = true) ∧
    (off + 32 ≤ 2 ^ 18) ∧
    ((imageClaim img).valid = true) ∧
    (claimBad u img = true)) ∧
  (∃ st : Nat, ∃ w : Word64, ∃ s : State, (Issues s st 16 w 0x68) ∧
    (onlyFields w [pA] = true)) := by
  refine ⟨?_, ?_, ?_, ?_⟩
  · refine ⟨0, wd [(0, 0x67), (21, 1), (26, 2)], ovm [(1, 511), (2, 0x3FFE0)], ?_⟩; dsimp only <;> (unfold Issues; decide +kernel)
  · refine ⟨0, wd [(0, 0x67), (21, 1), (26, 2)], withMem (ovm [(1, 511)]) (ovmAddr 0 0) (toBytes 8 0x10000 ++ toBytes 8 (hbmAddr 0 0) ++ [0x07, 16]), ?_⟩; dsimp only <;> (unfold Issues; decide +kernel)
  · refine ⟨0, wd [(0, 0x67), (21, 1), (26, 2)], withMem (ovm [(1, 511)]) (ovmAddr 0 0) (toBytes 8 0x10001 ++ toBytes 8 (hbmAddr 0 0) ++ [0x07, 16]), ?_⟩; dsimp only <;> (unfold Issues; decide +kernel)
  · refine ⟨0, wd [(0, 0x68), (21, 1)], ovm [(1, 511)], ?_⟩; unfold Issues; decide +kernel

/-- States that meet the premises of OvermanSwapsWaitsReturnsRecords. -/
theorem test_meets_OvermanSwapsWaitsReturnsRecords :
  (∃ st : Nat, ∃ w : Word64, ∃ s : State, (Issues s st 16 w 0x69) ∧
    (onlyFields w [] = true)) ∧
  (∃ st : Nat, ∃ w : Word64, ∃ s : State, let u := plainState s st 16
    let x := stopeOf u st
    (Issues s st 16 w 0x6A) ∧
    (onlyFields w [] = true) ∧
    (eventPending x = true)) ∧
  (∃ st : Nat, ∃ w : Word64, ∃ s : State, let u := plainState s st 16
    let x := stopeOf u st
    (Issues s st 16 w 0x6A) ∧
    (onlyFields w [] = true) ∧
    (eventPending x = false)) ∧
  (∃ st : Nat, ∃ w : Word64, ∃ s : State, (Issues s st 16 w 0x6B) ∧
    (onlyFields w [] = true)) ∧
  (∃ st : Nat, ∃ w : Word64, ∃ s : State, let u := plainState s st 16
    let off := (sReg (crewOf u st 16) (fA w)).toNat
    (Issues s st 16 w 0x6C) ∧
    (onlyFields w [pA] = true) ∧
    (off + 64 ≤ 2 ^ 18)) := by
  refine ⟨?_, ?_, ?_, ?_, ?_⟩
  · refine ⟨0, wd [(0, 0x69)], ovm [], ?_⟩; unfold Issues; decide +kernel
  · refine ⟨0, wd [(0, 0x6A)], ovm [] { events := [{ cls := 8 }] }, ?_⟩; dsimp only <;> (unfold Issues; decide +kernel)
  · refine ⟨0, wd [(0, 0x6A)], ovm [], ?_⟩; dsimp only <;> (unfold Issues; decide +kernel)
  · refine ⟨0, wd [(0, 0x6B)], ovm [] { epc := 32767, inHandler := true }, ?_⟩; unfold Issues; decide +kernel
  · refine ⟨0, wd [(0, 0x6C), (21, 1)], ovm [(1, 0x3FFC0)], ?_⟩; dsimp only <;> (unfold Issues; decide +kernel)

/-- States that meet the premises of PrivilegedWordsTrapOnCrews. -/
theorem test_meets_PrivilegedWordsTrapOnCrews :
  (∃ st : Nat, ∃ ag : Nat, ∃ w : Word64, ∃ s : State, ∃ i : Instr, ∃ op : Nat, ((i, op) ∈ [(Instr.sysrd st ag w, 0x60), (.syswr st ag w, 0x61), (.crstart st ag w, 0x62), (.crstop st ag w, 0x63),
    (.crres st ag w, 0x64), (.crrd st ag w, 0x65), (.crwr st ag w, 0x66), (.clmld st ag w, 0x67), (.clminv st ag w, 0x68),
    (.pswap st ag w, 0x69), (.evwait st ag w, 0x6A), (.eret st ag w, 0x6B), (.fltrec st ag w, 0x6C)]) ∧
    (ag < 16) ∧
    (Issues s st ag w op)) := by
  refine ⟨0, 3, wd [(0, 0x60)], crew3 [], .sysrd 0 3 (wd [(0, 0x60)]), 0x60, ?_⟩; unfold Issues; decide +kernel

/-- States that meet the premises of TileShapesChange. -/
theorem test_meets_TileShapesChange :
  (∃ st : Nat, ∃ ag : Nat, ∃ w : Word64, ∃ s : State, (ag ≠ 16) ∧
    (let u := plainState s st ag
    let k := crewOf u st ag
    let a := (sReg k (tA w)).toNat
    (Issues s st ag w 0x20) ∧
    (onlyFields w [pT, pTA] = true) ∧
    (a = bits a 0 7 + bits a 8 5 * 2 ^ 8 + bits a 16 5 * 2 ^ 16 + bits a 24 5 * 2 ^ 24) ∧
    (shapeBad (bits a 0 7) (bits a 8 5) (bits a 16 5) = false))) ∧
  (∃ st : Nat, ∃ ag : Nat, ∃ w : Word64, ∃ s : State, (ag ≠ 16) ∧
    (Issues s st ag w 0x21) ∧
    (onlyFields w [pT] = true)) := by
  refine ⟨?_, ?_⟩
  · refine ⟨0, 3, wd [(0, 0x20), (16, 7), (19, 1)], tiled 3 [(1, 0x021040)] [(7, { rows := 4, held := none, data := [(0, 1)] })], ?_⟩; dsimp only <;> (unfold Issues; decide +kernel)
  · refine ⟨0, 3, wd [(0, 0x21), (16, 2)], tiled 3 [] [(2, { rows := 4, len := 64, fmt := 1, data := [(0, 1)] })], ?_⟩; unfold Issues; decide +kernel

/-- States that meet the premises of BadShapesTrap. -/
theorem test_meets_BadShapesTrap :
  (∃ st : Nat, ∃ ag : Nat, ∃ w : Word64, ∃ s : State, (ag < 16) ∧
    (Issues s st ag w 0x20) ∧
    (onlyFields w [pT, pTA] = true) ∧
    (let a := (sReg (crewOf (plainState s st ag) st ag) (tA w)).toNat
    ((shapeBad (bits a 0 7) (bits a 8 5) (bits a 16 5) = true ∨ bit a 7 = true ∨ bits a 13 3 ≠ 0 ∨ bits a 21 3 ≠ 0 ∨ bits a 29 35 ≠ 0)))) := by
  refine ⟨0, 3, wd [(0, 0x20), (19, 1)], tiled 3 [(1, 0x80)] [], ?_⟩; dsimp only <;> (unfold Issues; decide +kernel)

/-- States that meet the premises of TileRowsMove. -/
theorem test_meets_TileRowsMove :
  (∃ st : Nat, ∃ ag : Nat, ∃ w : Word64, ∃ s : State, (ag ≠ 16) ∧
    (let u := plainState s st ag
    let k := crewOf u st ag
    let y := tileOf k (tT w)
    (Issues s st ag w 0x26) ∧
    (onlyFields w (rowFields w) = true) ∧
    (tileRow k w < y.rows))) ∧
  (∃ st : Nat, ∃ ag : Nat, ∃ w : Word64, ∃ s : State, (ag ≠ 16) ∧
    (let u := plainState s st ag
    let k := crewOf u st ag
    let y := tileOf k (tT w)
    (Issues s st ag w 0x27) ∧
    (onlyFields w (pPred :: rowFields w) = true) ∧
    (predOk w = true) ∧
    (tileRow k w < y.rows))) ∧
  (∃ st : Nat, ∃ ag : Nat, ∃ w : Word64, ∃ s : State, (ag ≠ 16) ∧
    (Issues s st ag w 0x28) ∧
    (onlyFields w [pA] = true)) := by
  refine ⟨?_, ?_, ?_⟩
  · refine ⟨0, 3, wd [(0, 0x26), (16, 2), (19, 4), (40, 3)], tiled 3 [] [(2, { rows := 4, len := 64, fmt := 1, data := [(3, 1)] })], ?_⟩; dsimp only <;> (unfold Issues; decide +kernel)
  · refine ⟨0, 3, wd [(0, 0x27), (16, 2), (19, 4), (40, 3)], tiled 3 [] [(2, { rows := 4, len := 64, fmt := 1, data := [(3, 1)] })], ?_⟩; dsimp only <;> (unfold Issues; decide +kernel)
  · refine ⟨0, 3, wd [(0, 0x28), (21, 4)], tiled 3 [(4, 0x100000005)] [], ?_⟩; unfold Issues; decide +kernel

/-- States that meet the premises of WideningConversions. -/
theorem test_meets_WideningConversions :
  (∃ st : Nat, ∃ ag : Nat, ∃ w : Word64, ∃ s : State, ∃ f, (ag ≠ 16) ∧
    (Issues s st ag w 0x1B) ∧
    (onlyFields w [pPred, pSub, pD, pA, pFmt, pRm] = true) ∧
    (predOk w = true) ∧
    (fRm w = 0) ∧
    (fFmt w = 1) ∧
    ((fSub w = 2 ∧ f = fBf16) ∨ (fSub w = 3 ∧ f = fFp16))) ∧
  (∃ st : Nat, ∃ ag : Nat, ∃ w : Word64, ∃ s : State, (ag ≠ 16) ∧
    (let c := atCycle s st ag (fun _ => { cvt := true }) 0 always
    let u := atIssue s st ag c
    let k := crewOf u st ag
    let y := tileOf k (tT w)
    (Issues s st ag w 0x25) ∧
    (onlyFields w (pTB :: rowFields w) = true) ∧
    (tileRow k w < y.rows) ∧
    (1 ≤ y.fmt) ∧
    (y.fmt ≤ 8))) := by
  refine ⟨?_, ?_⟩
  · refine ⟨0, 3, wd [(0, 0x1B), (12, 2), (16, 1), (21, 2), (36, 1)], one 3 { state := .running, v := [(2, 0x3F80)] }, fBf16, ?_⟩; unfold Issues; decide +kernel
  · refine ⟨0, 3, wd [(0, 0x25), (16, 2), (19, 4), (24, 1), (40, 3)], tiled 3 [] [(2, { rows := 4, len := 64, fmt := 2, data := [(3, 1)] })], ?_⟩; dsimp only <;> (unfold Issues; decide +kernel)

/-- States that meet the premises of NarrowingConversions. -/
theorem test_meets_NarrowingConversions :
  (∃ st : Nat, ∃ ag : Nat, ∃ w : Word64, ∃ s : State, ∃ f, (ag ≠ 16) ∧
    ((fFmt w = 2 ∧ f = fBf16) ∨ (fFmt w = 3 ∧ f = fFp16)) ∧
    (Issues s st ag w 0x1B) ∧
    (onlyFields w [pPred, pSub, pD, pA, pFmt, pRm] = true) ∧
    (predOk w = true) ∧
    (fRm w ≤ 1) ∧
    (fSub w = 1)) ∧
  (∃ st : Nat, ∃ ag : Nat, ∃ w : Word64, ∃ s : State, (ag ≠ 16) ∧
    (let c := atCycle s st ag (fun _ => { cvt := true }) 0 always
    let u := atIssue s st ag c
    let k := crewOf u st ag
    let y := tileOf k (tT w)
    let row := tileRow k w
    (Issues s st ag w 0x24) ∧
    (onlyFields w ([pPred, pTB, pTRm] ++ rowFields w) = true) ∧
    (predOk w = true) ∧
    (tRm w ≤ 1) ∧
    (row < y.rows) ∧
    (1 ≤ y.fmt) ∧
    (y.fmt ≤ 8))) := by
  refine ⟨?_, ?_⟩
  · refine ⟨0, 3, wd [(0, 0x1B), (12, 1), (16, 1), (21, 2), (36, 2), (41, 1)], one 3 { state := .running, v := [(2, 0x3F800001)] }, fBf16, ?_⟩; unfold Issues; decide +kernel
  · refine ⟨0, 3, wd [(0, 0x24), (16, 2), (19, 4), (40, 3), (46, 1)], tiled 3 [] [(2, { rows := 4, len := 64, fmt := 2, data := [(3, 1)] })], ?_⟩; dsimp only <;> (unfold Issues; decide +kernel)

/-- States that meet the premises of TransfersQueue. -/
theorem test_meets_TransfersQueue :
  (∃ ag : Nat, (ag ≠ 16)) ∧
  (∃ st : Nat, ∃ ag : Nat, ∃ w : Word64, ∃ s : State, ∃ e : Ecc, (ag ≠ 16) ∧
    (let c := atCycle s st ag (tramNeed s st ag w) 0 always
    let u := atIssue s st ag c
    let x := stopeOf u st
    let k := crewOf u st ag
    let o := (sReg k (tA w)).toNat
    (Issues s st ag w 0x29) ∧
    (onlyFields w [pTA, pQ] = true) ∧
    (o < 2 ^ 24) ∧
    (o % 64 = 0) ∧
    (x.queue.length < 64) ∧
    (tramShare x < 16) ∧
    (e ≠ .bad))) ∧
  (∃ st : Nat, ∃ ag : Nat, ∃ w : Word64, ∃ s : State, (ag ≠ 16) ∧
    (let c := atCycle s st ag (tramNeed s st ag w) 0 always
    let u := atIssue s st ag c
    let x := stopeOf u st
    let k := crewOf u st ag
    let o := (sReg k (tA w)).toNat
    (Issues s st ag w 0x29) ∧
    (onlyFields w [pTA, pQ] = true) ∧
    (o < 2 ^ 24) ∧
    (o % 64 = 0) ∧
    (x.queue.length < 64) ∧
    (tramShare x < 16))) ∧
  (∃ st : Nat, ∃ ag : Nat, ∃ w : Word64, ∃ s : State, (ag ≠ 16) ∧
    (let c := atCycle s st ag (tramNeed s st ag w) 0 always
    let u := atIssue s st ag c
    let x := stopeOf u st
    let k := crewOf u st ag
    let o := (sReg k (tA w)).toNat
    (Issues s st ag w 0x29) ∧
    (onlyFields w [pTA, pQ] = true) ∧
    (o < 2 ^ 24) ∧
    (o % 64 = 0) ∧
    (64 ≤ x.queue.length ∨ 16 ≤ tramShare x))) := by
  refine ⟨?_, ?_, ?_, ?_⟩
  · refine ⟨3, ?_⟩; decide +kernel
  · refine ⟨0, 3, wd [(0, 0x29), (19, 4), (34, 5)], tiled 3 [(4, 0x10000)] [], .clean, ?_⟩; dsimp only <;> (unfold Issues; decide +kernel)
  · refine ⟨0, 3, wd [(0, 0x29), (19, 4), (34, 5)], tiled 3 [(4, 0x10000)] [], ?_⟩; dsimp only <;> (unfold Issues; decide +kernel)
  · refine ⟨0, 3, wd [(0, 0x29), (19, 4), (34, 5)], tiled 3 [(4, 0x10000)] [] { queue := List.replicate 64 (xfer 0 .tld), nextId := 1 }, ?_⟩; dsimp only <;> (unfold Issues; decide +kernel)

/-- States that meet the premises of WeightLoadFillsShadowPlanes. -/
theorem test_meets_WeightLoadFillsShadowPlanes :
  (∃ st : Nat, ∃ ag : Nat, ∃ w : Word64, ∃ s : State, (ag ≠ 16) ∧
    (let c := atCycle s st ag plain (stopeOf s st).wldFree always
    let u := atIssue s st ag c
    let base := (sReg (crewOf u st ag) (mSa w)).toNat
    let f := mFmt w
    (Issues s st ag w 0x30) ∧
    (onlyFields w [pTgt2, pSa, pMFmt] = true) ∧
    (mTgt w = 3) ∧
    (2 ≤ f) ∧
    (f ≤ 8) ∧
    (base % 16384 = 0) ∧
    (base + blockBytes f ≤ 2 ^ 24))) := by
  refine ⟨0, 3, wd [(0, 0x30), (16, 3), (36, 4), (41, 2)], crew3 [(4, 0x4000)], ?_⟩; dsimp only <;> (unfold Issues; decide +kernel)

/-- States that meet the premises of SwapAndShapeFromNextCycle. -/
theorem test_meets_SwapAndShapeFromNextCycle :
  (∃ st : Nat, ∃ ag : Nat, ∃ w : Word64, ∃ s : State, (ag ≠ 16) ∧
    (mTgt w ≠ 0) ∧
    (Issues s st ag w 0x31) ∧
    (onlyFields w [pTgt2] = true)) ∧
  (∃ st : Nat, ∃ ag : Nat, ∃ w : Word64, ∃ s : State, (ag ≠ 16) ∧
    (mTgt w ≠ 0) ∧
    (Issues s st ag w 0x32) ∧
    (onlyFields w [pTgt2, pShp] = true)) := by
  refine ⟨?_, ?_⟩
  · refine ⟨0, 3, wd [(0, 0x31), (16, 1)], crew3 [], ?_⟩; unfold Issues; decide +kernel
  · refine ⟨0, 3, wd [(0, 0x32), (16, 3), (46, 1)], crew3 [], ?_⟩; unfold Issues; decide +kernel

/-- States that meet the premises of StreamsStart. -/
theorem test_meets_StreamsStart :
  (∃ st : Nat, ∃ ag : Nat, ∃ w : Word64, ∃ s : State, ∃ column : Bool, ∃ code, (ag ≠ 16) ∧
    (streamWord w = true) ∧
    (let x0 := stopeOf s st
    let c := atCycle s st ag plain (feedFloor x0 w) (feedAdmits x0 w column)
    let u := atIssue s st ag c
    let x := stopeOf u st
    let k := crewOf u st ag
    (Issues s st ag w (if column then 0x34 else 0x33)) ∧
    ((targets w).findSome? (streamFault x k w column c) = some code))) ∧
  (∃ st : Nat, ∃ ag : Nat, ∃ w : Word64, ∃ s : State, ∃ column : Bool, (ag ≠ 16) ∧
    (streamWord w = true) ∧
    (let x0 := stopeOf s st
    let c := atCycle s st ag plain (feedFloor x0 w) (feedAdmits x0 w column)
    let u := atIssue s st ag c
    let x := stopeOf u st
    let k := crewOf u st ag
    (Issues s st ag w (if column then 0x34 else 0x33)) ∧
    ((targets w).findSome? (streamFault x k w column c) = none))) := by
  refine ⟨?_, ?_⟩
  · refine ⟨0, 3, wd [(0, 0x33), (16, 1), (18, 2)], tiled 3 [] [], false, fcShapeFault, ?_⟩; dsimp only <;> (unfold Issues; decide +kernel)
  · refine ⟨0, 3, wd [(0, 0x33), (16, 1), (18, 2), (24, 2044)], tiled 3 [] [(2, { rows := 4, len := 256, fmt := 4 })] { arr0 := { plane0 := { valid := true, fmt := 4 } } }, false, ?_⟩; dsimp only <;> (unfold Issues; decide +kernel)

/-- States that meet the premises of AccumulatorRowsMove. -/
theorem test_meets_AccumulatorRowsMove :
  (∃ st : Nat, ∃ ag : Nat, ∃ w : Word64, ∃ s : State, (ag ≠ 16) ∧
    (let c := atCycle s st ag plain (portFloor (stopeOf s st) w) always
    let u := atIssue s st ag c
    let k := crewOf u st ag
    let row := accRowOf k w
    (Issues s st ag w 0x35) ∧
    (rowWordOk w = true) ∧
    (row < 2048))) ∧
  (∃ st : Nat, ∃ ag : Nat, ∃ w : Word64, ∃ s : State, (ag ≠ 16) ∧
    (let c := atCycle s st ag plain (portFloor (stopeOf s st) w) always
    let u := atIssue s st ag c
    let k := crewOf u st ag
    let row := accRowOf k w
    (Issues s st ag w 0x36) ∧
    (rowWordOk w = true) ∧
    (row < 2048))) ∧
  (∃ st : Nat, ∃ ag : Nat, ∃ w : Word64, ∃ s : State, (ag ≠ 16) ∧
    (let c := atCycle s st ag plain (portFloor (stopeOf s st) w) always
    let u := atIssue s st ag c
    let k := crewOf u st ag
    let row := accRowOf k w
    (Issues s st ag w 0x37) ∧
    (onlyFields w [pTgt2, pAcc, pMRs, pSa, pN] = true) ∧
    (saOk w = true) ∧
    (mTgt w ≠ 0) ∧
    (row + mN w < 2048))) := by
  refine ⟨?_, ?_, ?_⟩
  · refine ⟨0, 3, wd [(0, 0x35), (16, 1), (24, 2047), (47, 31)], crew3 [] { arr0 := { acc := [(2047, 5)] } }, ?_⟩; dsimp only <;> (unfold Issues; decide +kernel)
  · refine ⟨0, 3, wd [(0, 0x36), (16, 2), (24, 7), (47, 31)], crew3 [], ?_⟩; dsimp only <;> (unfold Issues; decide +kernel)
  · refine ⟨0, 3, wd [(0, 0x37), (16, 3), (24, 2040), (53, 7)], crew3 [], ?_⟩; dsimp only <;> (unfold Issues; decide +kernel)

/-- States that meet the premises of HoistHandsOver. -/
theorem test_meets_HoistHandsOver :
  (∃ st : Nat, ∃ ag : Nat, ∃ w : Word64, ∃ s : State, (ag ≠ 16) ∧
    (let c := atCycle s st ag (fun _ => { xfer := true }) 0 always
    let u := atIssue s st ag c
    let x := stopeOf u st
    let k := crewOf u st ag
    (Issues s st ag w 0x38) ∧
    (onlyFields w [pTgt2, pAcc, pMRs, pSa, pVr, pN] = true) ∧
    (saOk w = true) ∧
    (mTgt w ≠ 0) ∧
    (accRowOf k w + mN w < 2048) ∧
    (x.hoists.length < 16))) ∧
  (∃ st : Nat, ∃ ag : Nat, ∃ w : Word64, ∃ s : State, (ag ≠ 16) ∧
    (let c := atCycle s st ag (fun _ => { xfer := true }) 0 always
    let u := atIssue s st ag c
    let x := stopeOf u st
    let k := crewOf u st ag
    (Issues s st ag w 0x38) ∧
    (onlyFields w [pTgt2, pAcc, pMRs, pSa, pVr, pN] = true) ∧
    (saOk w = true) ∧
    (mTgt w ≠ 0) ∧
    (accRowOf k w + mN w < 2048) ∧
    (16 ≤ x.hoists.length))) := by
  refine ⟨?_, ?_⟩
  · refine ⟨0, 3, wd [(0, 0x38), (16, 3), (24, 2040), (47, 2), (53, 7)], crew3 [(2, 0x10203)], ?_⟩; dsimp only <;> (unfold Issues; decide +kernel)
  · refine ⟨0, 3, wd [(0, 0x38), (16, 1), (47, 2)], crew3 [] { hoists := List.replicate 16 ⟨3, 0, 0, 0, 200, [0], 0, 1, 0, 0⟩ }, ?_⟩; dsimp only <;> (unfold Issues; decide +kernel)

/-- States that meet the premises of ResultReadyLandsTheWrite. -/
theorem test_meets_ResultReadyLandsTheWrite :
  (∃ st : Nat, ∃ ag : Nat, ∃ c : Nat, ∃ s : State, (DueOk (stopeOf s st)) ∧
    (leastOf ((crewOf s st ag).pend.map (·.ready)) = some c) ∧
    (let k := (stopeOf s st).clk
    ((ag = 16 ∨ k.stopped = false ∨ c ≤ k.base)))) := by
  refine ⟨0, 3, 108, one 3 { state := .running, pend := [⟨108, writeS 4 9⟩, ⟨112, writeS 5 9⟩] }, ?_⟩; dsimp only <;> (simp only [dueOk_iff]; decide +kernel)

/-- States that meet the premises of StreamRowWritesItsSums. -/
theorem test_meets_StreamRowWritesItsSums :
  (∃ st : Nat, ∃ a : Nat, ∃ f : Flight, ∃ s : State, (a < 2) ∧
    (let k := (stopeOf s st).clk
    let u := advance s (dueAt k f.ready)
    let x := stopeOf u st
    (dueList x u.now = [(3 * f.ready + 1, .flight a f)]) ∧
    (dueList (stopeOf s st) s.now = dueList x u.now) ∧
    (k.stopped = false) ∧
    (0 < k.div))) ∧
  (∃ st : Nat, ∃ a : Nat, ∃ c : Nat, ∃ s : State, (a < 2) ∧
    (DueOk (stopeOf s st)) ∧
    (leastOf (rowReadies (stopeOf s st) a) = some c) ∧
    (((stopeOf s st).clk.stopped = false ∨ c ≤ (stopeOf s st).clk.base))) := by
  refine ⟨?_, ?_⟩
  · refine ⟨0, 1, flight, flying, ?_⟩; dsimp only <;> decide +kernel
  · refine ⟨0, 1, 110, flying, ?_⟩; simp only [dueOk_iff]; decide +kernel

/-- States that meet the premises of UnpairedRowsAreFree. -/
theorem test_meets_UnpairedRowsAreFree :
  (∃ a : Nat, (a < 2)) ∧
  (∃ a : Nat, ∃ row : Nat, ∃ r, (a < 2) ∧
    (r ≠ row)) ∧
  (∃ st : Nat, ∃ a : Nat, ∃ st', (a < 2) ∧
    (st' ≠ st)) := by
  refine ⟨?_, ?_, ?_⟩
  · refine ⟨1, ?_⟩; decide +kernel
  · refine ⟨1, 2047, 5, ?_⟩; decide +kernel
  · refine ⟨0, 1, 1, ?_⟩; decide +kernel

/-- States that meet the premises of WeightTilesAreChecked. -/
theorem test_meets_WeightTilesAreChecked :
  (∃ st : Nat, ∃ c : WCheck, ∃ s : State, (firstCheck (stopeOf s st).wchecks = some c) ∧
    (((stopeOf s st).clk.stopped = false ∨ c.due ≤ (stopeOf s st).clk.base)) ∧
    (c.uncorr = true)) ∧
  (∃ st : Nat, ∃ glitch : Bool, ∃ c : WCheck, ∃ s : State, let u := reachCycle s st c.due
    let x := stopeOf u st
    let v := putStope u st { x with wchecks := x.wchecks.erase c }
    let r := compareTile v st c (loadedBytes (loadOf x c) c)
    (firstCheck (stopeOf s st).wchecks = some c) ∧
    (((stopeOf s st).clk.stopped = false ∨ c.due ≤ (stopeOf s st).clk.base)) ∧
    (c.uncorr = false) ∧
    (r = .ok) ∧
    (glitch = false)) ∧
  (∃ st : Nat, ∃ c : WCheck, ∃ s : State, let u := reachCycle s st c.due
    let x := stopeOf u st
    let v := putStope u st { x with wchecks := x.wchecks.erase c }
    let r := compareTile v st c (loadedBytes (loadOf x c) c)
    (firstCheck (stopeOf s st).wchecks = some c) ∧
    (((stopeOf s st).clk.stopped = false ∨ c.due ≤ (stopeOf s st).clk.base)) ∧
    (c.uncorr = false) ∧
    (r = .mismatch)) ∧
  (∃ st : Nat, ∃ glitch : Bool, ∃ c : WCheck, ∃ s : State, let u := reachCycle s st c.due
    let x := stopeOf u st
    let v := putStope u st { x with wchecks := x.wchecks.erase c }
    let r := compareTile v st c (loadedBytes (loadOf x c) c)
    (firstCheck (stopeOf s st).wchecks = some c) ∧
    (((stopeOf s st).clk.stopped = false ∨ c.due ≤ (stopeOf s st).clk.base)) ∧
    (c.uncorr = false) ∧
    ((r = .badCrc ∨ (r = .ok ∧ glitch = true)))) := by
  refine ⟨?_, ?_, ?_, ?_⟩
  · refine ⟨0, { scaleCheck with uncorr := true }, { checking 0 with stopes := [(0, { wchecks := [{ scaleCheck with uncorr := true }] })] }, ?_⟩; decide +kernel
  · refine ⟨0, false, scaleCheck, checking (goodEntry checkedCrc), rfl, .inl rfl, rfl, ?_, rfl⟩; exact checking_ok
  · refine ⟨0, scaleCheck, checking 0, rfl, .inl rfl, rfl, ?_⟩; exact (checking_reads _).trans (checkEntry_zero _ _ _)
  · refine ⟨0, false, scaleCheck, checking (goodEntry (checkedCrc + 1)), rfl, .inl rfl, rfl, Or.inl ?_⟩; exact checking_bad

/-- States that meet the premises of CheckHoldEnds. -/
theorem test_meets_CheckHoldEnds :
  (∃ st : Nat, ∃ s : State, let u := advance s ((stopeOf s st).holdAt + 72)
    let x := stopeOf u st
    (x.hold ≠ []) ∧
    (x.clk.stopped = true) ∧
    ((stopeOf s st).hold = x.hold)) ∧
  (∃ st : Nat, ∃ c : WCheck, ∃ s : State, let u := advance s ((stopeOf s st).holdAt + 72)
    let x := stopeOf u st
    ((stopeOf s st).hold = [c]) ∧
    (x.hold = [c])) := by
  refine ⟨?_, ?_⟩
  · refine ⟨0, { now := 100, stopes := [(0, { hold := [scaleCheck], holdAt := 60, clk := { base := 55, start := 60, stopped := true } })] }, ?_⟩; dsimp only <;> decide +kernel
  · refine ⟨0, scaleCheck, { now := 100, stopes := [(0, { hold := [scaleCheck], holdAt := 60, clk := { base := 55, start := 60, stopped := true } })] }, ?_⟩; dsimp only <;> decide +kernel

/-- States that meet the premises of BanksSwapAtFences. -/
theorem test_meets_BanksSwapAtFences :
  (∃ st : Nat, ∃ s : State, let u := settle s st
    let x := stopeOf u st
    (x.swapPending = true) ∧
    (swapReady x u.now = true) ∧
    (inactiveWrite u st = false)) ∧
  (∃ st : Nat, ∃ s : State, let u := settle s st
    let x := stopeOf u st
    (x.swapPending = true)) := by
  refine ⟨?_, ?_⟩
  · refine ⟨0, fencing { state := .fenced, pc := 5, fenceTgt := 32767 }, ?_⟩; dsimp only <;> decide +kernel
  · refine ⟨0, fencing { state := .fenced, pc := 5, fenceTgt := 32767 }, ?_⟩; dsimp only <;> decide +kernel

/-- States that meet the premises of OvermanEntersItsHandler. -/
theorem test_meets_OvermanEntersItsHandler :
  (∃ st : Nat, ∃ e : Event, ∃ s : State, let o := crewOf s st 16
    ((stopeOf s st).evOn = true) ∧
    (o.state = .running) ∧
    (nextEvent (stopeOf s st) = some e)) := by
  refine ⟨0, { cls := 3, crew := 2 }, ovm [] { evOn := true, events := [{ cls := 8 }, { cls := 3, crew := 2 }] }, ?_⟩; dsimp only <;> decide +kernel

/-- States that meet the premises of TransfersStart. -/
theorem test_meets_TransfersStart :
  (∃ st : Nat, ∃ f : Xfer, ∃ s : State, let u := settle s st
    let x := stopeOf u st
    (x.queue.find? (fun g => !isActive g) = some f) ∧
    (x.quiesce = false) ∧
    (activeCount x < 16) ∧
    (tramsOff s = false) ∧
    (f.kind = .tld)) ∧
  (∃ st : Nat, ∃ f : Xfer, ∃ s : State, ∃ recVa, ∃ pa, let u := settle s st
    let x := stopeOf u st
    (x.queue.find? (fun g => !isActive g) = some f) ∧
    (x.quiesce = false) ∧
    (activeCount x < 16) ∧
    (tramsOff s = false) ∧
    (f.kind = .tst recVa) ∧
    (f.rows ≤ f.next) ∧
    (entryPa u st f f.va = some pa)) ∧
  (∃ st : Nat, ∃ f : Xfer, ∃ s : State, ∃ pas : List Nat, let u := settle s st
    let x := stopeOf u st
    let passes := fun (d : TramDesc) => descBad d = false ∨ f.phys = true
    (x.queue.find? (fun g => !isActive g) = some f) ∧
    (x.quiesce = false) ∧
    (activeCount x < 16) ∧
    (tramsOff s = false) ∧
    (((∃ recVa, f.kind = .tst recVa ∧ f.next < f.rows) ∨
      (∃ d, f.kind = .tram d ∧ passes d ∧ (dstBanks u st f d).findSome? id = none ∧ f.srcOk = false ∧ d.dstTiled = true))) ∧
    (f.fault = none) ∧
    ((entryVas f f.next).map (entryPa u st f) = pas.map some) ∧
    ((∀ pa ∈ pas, gobAt u pa = false))) ∧
  (∃ st : Nat, ∃ f : Xfer, ∃ s : State, ∃ d, let u := settle s st
    let x := stopeOf u st
    (x.queue.find? (fun g => !isActive g) = some f) ∧
    (x.quiesce = false) ∧
    (activeCount x < 16) ∧
    (tramsOff s = false) ∧
    (f.kind = .tram d) ∧
    (descBad d = true) ∧
    (f.phys = false)) ∧
  (∃ st : Nat, ∃ f : Xfer, ∃ s : State, ∃ d, let u := settle s st
    let x := stopeOf u st
    let passes := fun (d : TramDesc) => descBad d = false ∨ f.phys = true
    (x.queue.find? (fun g => !isActive g) = some f) ∧
    (x.quiesce = false) ∧
    (activeCount x < 16) ∧
    (tramsOff s = false) ∧
    (f.kind = .tram d) ∧
    (passes d) ∧
    (f.srcOk = false) ∧
    (d.dstTiled = false) ∧
    ((dstBanks u st f d).findSome? id = none)) ∧
  (∃ st : Nat, ∃ f : Xfer, ∃ s : State, ∃ d, let u := settle s st
    let x := stopeOf u st
    let passes := fun (d : TramDesc) => descBad d = false ∨ f.phys = true
    (x.queue.find? (fun g => !isActive g) = some f) ∧
    (x.quiesce = false) ∧
    (activeCount x < 16) ∧
    (tramsOff s = false) ∧
    (f.kind = .tram d) ∧
    (passes d) ∧
    (f.srcOk = true) ∧
    ((dstBanks u st f d).findSome? id = none)) ∧
  (∃ st : Nat, ∃ f : Xfer, ∃ s : State, ∃ d, ∃ p, let u := settle s st
    let x := stopeOf u st
    let passes := fun (d : TramDesc) => descBad d = false ∨ f.phys = true
    (x.queue.find? (fun g => !isActive g) = some f) ∧
    (x.quiesce = false) ∧
    (activeCount x < 16) ∧
    (tramsOff s = false) ∧
    (f.kind = .tram d) ∧
    (passes d) ∧
    ((dstBanks u st f d).findSome? id = some p) ∧
    ((d.kind ≠ 0 ∨ ∃ b ∈ dstBanks u st f d, b ≠ some p))) ∧
  (∃ st : Nat, ∃ f : Xfer, ∃ s : State, ∃ d, ∃ p, let u := settle s st
    let x := stopeOf u st
    let passes := fun (d : TramDesc) => descBad d = false ∨ f.phys = true
    (x.queue.find? (fun g => !isActive g) = some f) ∧
    (x.quiesce = false) ∧
    (activeCount x < 16) ∧
    (tramsOff s = false) ∧
    (f.kind = .tram d) ∧
    (passes d) ∧
    ((dstBanks u st f d).findSome? id = some p) ∧
    (d.kind = 0) ∧
    ((∀ b ∈ dstBanks u st f d, b = some p)) ∧
    (((stopeOf u p.1).bank = p.2 ∨ (stopeOf u p.1).swapPending = true))) ∧
  (∃ st : Nat, ∃ f : Xfer, ∃ s : State, ∃ d, ∃ p, let u := settle s st
    let x := stopeOf u st
    let passes := fun (d : TramDesc) => descBad d = false ∨ f.phys = true
    (x.queue.find? (fun g => !isActive g) = some f) ∧
    (x.quiesce = false) ∧
    (activeCount x < 16) ∧
    (tramsOff s = false) ∧
    (f.kind = .tram d) ∧
    (passes d) ∧
    ((dstBanks u st f d).findSome? id = some p) ∧
    (d.kind = 0) ∧
    ((∀ b ∈ dstBanks u st f d, b = some p)) ∧
    ((stopeOf u p.1).bank ≠ p.2) ∧
    ((stopeOf u p.1).swapPending = false) ∧
    (f.srcOk = false) ∧
    (d.dstTiled = false)) := by
  refine ⟨?_, ?_, ?_, ?_, ?_, ?_, ?_, ?_, ?_⟩
  · refine ⟨0, xfer 0 .tld, transfers [xfer 0 .tld], ?_⟩; dsimp only <;> decide +kernel
  · refine ⟨0, { xfer 0 (.tst none) with next := 4 }, transfers [{ xfer 0 (.tst none) with next := 4 }], none, storeAddr 0 0x10000, ?_⟩; dsimp only <;> decide +kernel
  · refine ⟨0, xfer 0 (.tst none), transfers [xfer 0 (.tst none)], [storeAddr 0 0x10000], ?_⟩; dsimp only; exact ⟨by decide +kernel, by decide +kernel, by decide +kernel, by decide +kernel, .inl ⟨none, rfl, by decide⟩, by decide +kernel, by decide +kernel, by decide +kernel⟩
  · refine ⟨0, xfer 0 (.tram badDesc), transfers [xfer 0 (.tram badDesc)], badDesc, ?_⟩; dsimp only <;> decide +kernel
  · refine ⟨0, xfer 0 (.tram copyDesc), transfers [xfer 0 (.tram copyDesc)], copyDesc, ?_⟩; dsimp only <;> decide +kernel
  · refine ⟨0, { xfer 0 (.tram copyDesc) with srcOk := true }, transfers [{ xfer 0 (.tram copyDesc) with srcOk := true }], copyDesc, ?_⟩; dsimp only <;> decide +kernel
  · refine ⟨0, xfer 0 (.tram { progDesc with kind := 2 }), toProg { progDesc with kind := 2 }, { progDesc with kind := 2 }, (0, 1), ?_⟩; dsimp only <;> decide +kernel
  · refine ⟨0, xfer 0 (.tram progDesc), toProg progDesc { swapPending := true }, progDesc, (0, 1), ?_⟩; dsimp only <;> decide +kernel
  · refine ⟨0, xfer 0 (.tram progDesc), toProg progDesc, progDesc, (0, 1), ?_⟩; dsimp only <;> decide +kernel

/-- States that meet the premises of RowsTranslate. -/
theorem test_meets_RowsTranslate :
  (∃ st : Nat, ∃ id : Nat, ∃ f : Xfer, ∃ s : State, ∃ va, let u := settle s st
    let x := stopeOf u st
    let r := f.next
    (xferOf x id = some f) ∧
    (rowTurn x = some id) ∧
    (tramsOff s = false) ∧
    (translateAll x f.phys true false (srcParts f r) = .error va)) ∧
  (∃ st : Nat, ∃ id : Nat, ∃ f : Xfer, ∃ s : State, ∃ src, ∃ va, let u := settle s st
    let x := stopeOf u st
    let r := f.next
    (xferOf x id = some f) ∧
    (rowTurn x = some id) ∧
    (tramsOff s = false) ∧
    (translateAll x f.phys true false (srcParts f r) = .ok src) ∧
    (translateAll x f.phys false true (dstParts f r) = .error va)) ∧
  (∃ st : Nat, ∃ id : Nat, ∃ f : Xfer, ∃ s : State, ∃ src, ∃ dst, let u := settle s st
    let x := stopeOf u st
    let r := f.next
    (xferOf x id = some f) ∧
    (rowTurn x = some id) ∧
    (tramsOff s = false) ∧
    (translateAll x f.phys true false (srcParts f r) = .ok src) ∧
    (translateAll x f.phys false true (dstParts f r) = .ok dst) ∧
    ((f.kind = .tld → r ≠ 0 → f.pa0.isSome = true)) ∧
    ((∃ p ∈ dst, dstAllowed u f p.1 = false))) ∧
  (∃ st : Nat, ∃ id : Nat, ∃ f : Xfer, ∃ s : State, ∃ src, ∃ dst, let u := settle s st
    let x := stopeOf u st
    let r := f.next
    (xferOf x id = some f) ∧
    (rowTurn x = some id) ∧
    (tramsOff s = false) ∧
    (translateAll x f.phys true false (srcParts f r) = .ok src) ∧
    (translateAll x f.phys false true (dstParts f r) = .ok dst) ∧
    ((f.kind = .tld → r ≠ 0 → f.pa0.isSome = true)) ∧
    ((∀ p ∈ dst, dstAllowed u f p.1 = true)) ∧
    ((∃ p ∈ dst, gobIn u p.1 p.2 = true)) ∧
    (passesGob u (.tram st) = true)) ∧
  (∃ st : Nat, ∃ id : Nat, ∃ f : Xfer, ∃ s : State, ∃ src, ∃ dst, let u := settle s st
    let x := stopeOf u st
    let r := f.next
    (xferOf x id = some f) ∧
    (rowTurn x = some id) ∧
    (tramsOff s = false) ∧
    (translateAll x f.phys true false (srcParts f r) = .ok src) ∧
    (translateAll x f.phys false true (dstParts f r) = .ok dst) ∧
    ((f.kind = .tld → r ≠ 0 → f.pa0.isSome = true)) ∧
    ((∀ p ∈ dst, dstAllowed u f p.1 = true)) ∧
    ((∀ p ∈ dst, gobIn u p.1 p.2 = false))) := by
  refine ⟨?_, ?_, ?_, ?_, ?_⟩
  · refine ⟨0, 0, { xfer 0 .tld with stage := .moving, va := 0x90000 }, transfers [{ xfer 0 .tld with stage := .moving, va := 0x90000 }], 0x90000, ?_⟩; exact ⟨by decide +kernel, by decide +kernel, by decide +kernel, by rfl⟩
  · refine ⟨0, 0, { xfer 0 (.tst none) with stage := .moving, va := 0x90000 }, transfers [{ xfer 0 (.tst none) with stage := .moving, va := 0x90000 }], [], 0x90000, ?_⟩; exact ⟨by decide +kernel, by decide +kernel, by decide +kernel, by rfl, by rfl⟩
  · refine ⟨0, 0, { xfer 0 (.tram progDesc) with stage := .moving }, { toProg progDesc with stopes := [(0, { queue := [{ xfer 0 (.tram progDesc) with stage := .moving }], claims := progClaims })] }, [(storeAddr 0 0x10000, 64)], [(progAddr 0 0x40000, 64)], ?_⟩; exact ⟨by decide +kernel, by decide +kernel, by decide +kernel, by rfl, by rfl, by decide +kernel, by decide +kernel⟩
  · refine ⟨0, 0, { xfer 0 (.tst none) with stage := .moving }, inGobTest, [], [(hbmAddr 1 0x100000, 64)], ?_⟩; exact ⟨by decide +kernel, by decide +kernel, by decide +kernel, by rfl, by rfl, by decide +kernel, by decide +kernel, by decide +kernel, by decide +kernel⟩
  · refine ⟨0, 0, { xfer 0 (.tst none) with stage := .moving }, transfers [{ xfer 0 (.tst none) with stage := .moving }], [], [(storeAddr 0 0x10000, 64)], ?_⟩; exact ⟨by decide +kernel, by decide +kernel, by decide +kernel, by rfl, by rfl, by decide +kernel, by decide +kernel, by decide +kernel⟩

/-- States that meet the premises of LoadRowsRetire. -/
theorem test_meets_LoadRowsRetire :
  (∃ st : Nat, ∃ id : Nat, ∃ e : Ecc, ∃ f : Xfer, ∃ h : XRow, ∃ rest : List XRow, ∃ s : State, let u := atArrival s st h
    let x := stopeOf (settleBefore s st) st
    (xferOf x id = some f) ∧
    (f.kind = .tld) ∧
    (f.flying = h :: rest) ∧
    (h.src ≠ []) ∧
    (rowBehind (settleBefore s st) x h = false) ∧
    ((∀ p ∈ h.src, readFault u p.1 p.2 e = none))) := by
  refine ⟨0, 0, .clean, { xfer 0 .tld with stage := .moving, next := 1, flying := [row0] }, row0, [], withMem (transfers [{ xfer 0 .tld with stage := .moving, next := 1, flying := [row0] }]) (storeAddr 0 0x10000) [1, 2], ?_⟩; dsimp only <;> decide +kernel

/-- States that meet the premises of StoreRowsRetire. -/
theorem test_meets_StoreRowsRetire :
  (∃ st : Nat, ∃ id : Nat, ∃ a : Nat, ∃ o : Nat, ∃ recVa : Option Nat, ∃ f : Xfer, ∃ h : XRow, ∃ rest : List XRow, ∃ p : Nat × Nat, ∃ s : State, let u := settleBefore s st
    (xferOf (stopeOf u st) id = some f) ∧
    (f.kind = .tst recVa) ∧
    (f.flying = h :: rest) ∧
    (h.src = []) ∧
    (h.dst = [p]) ∧
    (h.data.length = p.2) ∧
    (rowBehind u (stopeOf u st) h = false) ∧
    (locate u p.1 = .store a o) ∧
    (o + p.2 ≤ 2 ^ 24) ∧
    (h.row + 1 < f.rows)) := by
  refine ⟨0, 0, 0, 0x10000, none, stRow (.tst none), { row := 0, src := [], dst := [(storeAddr 0 0x10000, 64)], data := List.replicate 64 7 }, [], (storeAddr 0 0x10000, 64), withMem (transfers [stRow (.tst none)]) (storeAddr 0 0x10000) [1, 2], ?_⟩; dsimp only <;> decide +kernel

/-- States that meet the premises of UncorrectableRowsStop. -/
theorem test_meets_UncorrectableRowsStop :
  (∃ st : Nat, ∃ id : Nat, ∃ code : Nat, ∃ e : Ecc, ∃ f : Xfer, ∃ h : XRow, ∃ rest : List XRow, ∃ s : State, let u := atArrival s st h
    let x := stopeOf (settleBefore s st) st
    (xferOf x id = some f) ∧
    (f.flying = h :: rest) ∧
    (rowBehind (settleBefore s st) x h = false) ∧
    (h.src.findSome? (fun p => readFault u p.1 p.2 e) = some code)) := by
  refine ⟨0, 0, fcStoreUncorr, .bad, { xfer 0 .tld with stage := .moving, next := 1, flying := [row0] }, row0, [], transfers [{ xfer 0 .tld with stage := .moving, next := 1, flying := [row0] }], ?_⟩; dsimp only <;> decide +kernel

/-- States that meet the premises of LoadedTilesAreChecked. -/
theorem test_meets_LoadedTilesAreChecked :
  (∃ st : Nat, ∃ id : Nat, ∃ f : Xfer, ∃ s : State, let u := settle (advance s (f.retiredAt + 2)) st
    (xferOf (stopeOf s st) id = some f) ∧
    (f.stage = .closing) ∧
    (isStore f = false) ∧
    (f.srcOk = false) ∧
    (f.ending = false) ∧
    (uncheckedTile u f = true) ∧
    (f.kind = .tld)) ∧
  (∃ st : Nat, ∃ id : Nat, ∃ glitch : Bool, ∃ f : Xfer, ∃ s : State, let u := settle (advance s (f.retiredAt + 2)) st
    let c := checkedTile f
    let r := checkEntry (sideEntry u c.1) c.1 c.2.1 c.2.2.1
    (xferOf (stopeOf s st) id = some f) ∧
    (f.stage = .closing) ∧
    (isStore f = false) ∧
    (f.srcOk = false) ∧
    (f.ending = false) ∧
    (uncheckedTile u f = false) ∧
    (f.kind = .tld) ∧
    (r = .ok) ∧
    (glitch = false)) ∧
  (∃ st : Nat, ∃ id : Nat, ∃ glitch : Bool, ∃ f : Xfer, ∃ s : State, let u := settle (advance s (f.retiredAt + 2)) st
    let c := checkedTile f
    let r := checkEntry (sideEntry u c.1) c.1 c.2.1 c.2.2.1
    let fails := r = .badCrc ∨ (r = .ok ∧ glitch = true)
    (xferOf (stopeOf s st) id = some f) ∧
    (f.stage = .closing) ∧
    (isStore f = false) ∧
    (f.srcOk = false) ∧
    (f.ending = false) ∧
    (uncheckedTile u f = false) ∧
    (f.kind = .tld) ∧
    (fails) ∧
    (f.retried = false)) ∧
  (∃ st : Nat, ∃ id : Nat, ∃ glitch : Bool, ∃ f : Xfer, ∃ s : State, let u := settle (advance s (f.retiredAt + 2)) st
    let c := checkedTile f
    let r := checkEntry (sideEntry u c.1) c.1 c.2.1 c.2.2.1
    let fails := r = .badCrc ∨ (r = .ok ∧ glitch = true)
    (xferOf (stopeOf s st) id = some f) ∧
    (f.stage = .closing) ∧
    (isStore f = false) ∧
    (f.srcOk = false) ∧
    (f.ending = false) ∧
    (uncheckedTile u f = false) ∧
    ((r = .mismatch ∨ (fails ∧ f.retried = true)))) := by
  refine ⟨?_, ?_, ?_, ?_⟩
  · refine ⟨0, 0, { lastRow false with pa0 := some (accAddr 0 0 0) }, transfers [{ lastRow false with pa0 := some (accAddr 0 0 0) }], ?_⟩; dsimp only <;> decide +kernel
  · refine ⟨0, 0, false, lastRow true, transfers [lastRow true] { side := rightEntry (lastRow true) 0 }, ?_⟩; dsimp only <;> decide +kernel
  · refine ⟨0, 0, true, lastRow false, transfers [lastRow false] { side := rightEntry (lastRow false) 0 }, ?_⟩; dsimp only <;> decide +kernel
  · refine ⟨0, 0, false, lastRow true, transfers [lastRow true] { side := rightEntry (lastRow false) 1 }, ?_⟩; dsimp only <;> decide +kernel

/-- States that meet the premises of EntriesAreAcknowledged. -/
theorem test_meets_EntriesAreAcknowledged :
  (∃ st : Nat, ∃ id : Nat, ∃ f : Xfer, ∃ s : State, let u := settle s st
    let x := stopeOf u st
    (xferOf x id = some f) ∧
    (entryBehind u x f = false) ∧
    (f.stage = .entry) ∧
    (f.fault = none) ∧
    (f.turnTiles.length = (entryVas f f.next).length) ∧
    ((∀ pa ∈ f.turnTiles, Unhindered u pa 1))) ∧
  (∃ st : Nat, ∃ id : Nat, ∃ f : Xfer, ∃ s : State, ∃ recVa, ∃ pa, let u := settle s st
    let x := stopeOf u st
    (xferOf x id = some f) ∧
    (entryBehind u x f = false) ∧
    (f.ending = false) ∧
    (f.stage = .closing) ∧
    (f.kind = .tst recVa) ∧
    (f.pa0 = some pa) ∧
    (tileHome u pa = true) ∧
    (Unhindered u pa 1)) := by
  refine ⟨?_, ?_⟩
  · refine ⟨0, 0, { xfer 0 (.tst none) with stage := .entry, turnTiles := [storeAddr 0 0x10000] }, transfers [{ xfer 0 (.tst none) with stage := .entry, turnTiles := [storeAddr 0 0x10000] }], ?_⟩; dsimp only <;> (unfold Unhindered; decide +kernel)
  · refine ⟨0, 0, { lastRow false with kind := .tst (some 0x10080) }, transfers [{ lastRow false with kind := .tst (some 0x10080) }], some 0x10080, storeAddr 0 0x10000, ?_⟩; dsimp only <;> (unfold Unhindered; decide +kernel)

/-- States that meet the premises of AssayRecordsUpdate. -/
theorem test_meets_AssayRecordsUpdate :
  (∃ st : Nat, ∃ id : Nat, ∃ va : Nat, ∃ f : Xfer, ∃ s : State, let u := settle s st
    let x := stopeOf u st
    (xferOf x id = some f) ∧
    (f.stage = .record) ∧
    (f.kind = .tst (some va)) ∧
    (f.ending = false) ∧
    (entryBehind u x f = false) ∧
    (AllLanded u st) ∧
    (¬(4 ≤ f.fmt ∧ f.fmt ≤ 8))) ∧
  (∃ st : Nat, ∃ id : Nat, ∃ va : Nat, ∃ f : Xfer, ∃ s : State, let u := settle s st
    let x := stopeOf u st
    let y := tileOf (agentOf x f.crew) f.tile
    (xferOf x id = some f) ∧
    (f.stage = .record) ∧
    (f.kind = .tst (some va)) ∧
    (f.ending = false) ∧
    (entryBehind u x f = false) ∧
    (AllLanded u st) ∧
    (4 ≤ f.fmt) ∧
    (f.fmt ≤ 8) ∧
    (y.pending = false)) ∧
  (∃ st : Nat, ∃ id : Nat, ∃ va : Nat, ∃ f : Xfer, ∃ s : State, ∃ pa, ∃ e : Ecc, ∃ code, let u := settle s st
    let x := stopeOf u st
    let y := tileOf (agentOf x f.crew) f.tile
    (xferOf x id = some f) ∧
    (f.stage = .record) ∧
    (f.kind = .tst (some va)) ∧
    (f.ending = false) ∧
    (entryBehind u x f = false) ∧
    (AllLanded u st) ∧
    (4 ≤ f.fmt) ∧
    (f.fmt ≤ 8) ∧
    (y.pending = true) ∧
    (va < 2 ^ 57) ∧
    (translate x va 128 true true = some pa) ∧
    (mayWrite u pa = true) ∧
    (gobAt u pa = false) ∧
    (readFault u pa 128 e = some code)) ∧
  (∃ st : Nat, ∃ id : Nat, ∃ va : Nat, ∃ f : Xfer, ∃ s : State, ∃ pa, ∃ e : Ecc, ∃ g : Glitch, let u := settle s st
    let x := stopeOf u st
    let y := tileOf (agentOf x f.crew) f.tile
    (xferOf x id = some f) ∧
    (f.stage = .record) ∧
    (f.kind = .tst (some va)) ∧
    (f.ending = false) ∧
    (entryBehind u x f = false) ∧
    (AllLanded u st) ∧
    (4 ≤ f.fmt) ∧
    (f.fmt ≤ 8) ∧
    (y.pending = true) ∧
    (va < 2 ^ 57) ∧
    (translate x va 128 true true = some pa) ∧
    (mayWrite u pa = true) ∧
    (gobAt u pa = false) ∧
    (let bs := readBytes u pa 128
    (readFault u pa 128 e = none) ∧
    ((g = .twice ∨ recordOk bs = false)))) ∧
  (∃ st : Nat, ∃ id : Nat, ∃ va : Nat, ∃ f : Xfer, ∃ s : State, ∃ pa, ∃ e : Ecc, ∃ g : Glitch, let u := settle s st
    let x := stopeOf u st
    let y := tileOf (agentOf x f.crew) f.tile
    (xferOf x id = some f) ∧
    (f.stage = .record) ∧
    (f.kind = .tst (some va)) ∧
    (f.ending = false) ∧
    (entryBehind u x f = false) ∧
    (AllLanded u st) ∧
    (4 ≤ f.fmt) ∧
    (f.fmt ≤ 8) ∧
    (y.pending = true) ∧
    (va < 2 ^ 57) ∧
    (translate x va 128 true true = some pa) ∧
    (mayWrite u pa = true) ∧
    (gobAt u pa = false) ∧
    (let bs := readBytes u pa 128
    (readFault u pa 128 e = none) ∧
    (g ≠ .twice) ∧
    (recordOk bs = true) ∧
    (updateRecord bs f.fmt f.round y = none))) ∧
  (∃ st : Nat, ∃ id : Nat, ∃ va : Nat, ∃ f : Xfer, ∃ s : State, ∃ pa, ∃ e : Ecc, ∃ g : Glitch, ∃ r, ∃ a, ∃ o, let u := settle s st
    let x := stopeOf u st
    let y := tileOf (agentOf x f.crew) f.tile
    (xferOf x id = some f) ∧
    (f.stage = .record) ∧
    (f.kind = .tst (some va)) ∧
    (f.ending = false) ∧
    (entryBehind u x f = false) ∧
    (AllLanded u st) ∧
    (4 ≤ f.fmt) ∧
    (f.fmt ≤ 8) ∧
    (y.pending = true) ∧
    (va < 2 ^ 57) ∧
    (translate x va 128 true true = some pa) ∧
    (mayWrite u pa = true) ∧
    (gobAt u pa = false) ∧
    (let bs := readBytes u pa 128
    (readFault u pa 128 e = none) ∧
    (g ≠ .twice) ∧
    (recordOk bs = true) ∧
    (updateRecord bs f.fmt f.round y = some r) ∧
    (locate u pa = .store a o) ∧
    (o + 128 ≤ 2 ^ 24))) := by
  refine ⟨?_, ?_, ?_, ?_, ?_, ?_⟩
  · refine ⟨0, 0, 0x10080, { xfer 0 (.tst (some 0x10080)) with stage := .record }, transfers [{ xfer 0 (.tst (some 0x10080)) with stage := .record }], ?_⟩; dsimp only <;> (unfold AllLanded; decide +kernel)
  · refine ⟨0, 0, 0x10080, { xfer 0 (.tst (some 0x10080)) with stage := .record, fmt := 4 }, transfers [{ xfer 0 (.tst (some 0x10080)) with stage := .record, fmt := 4 }], ?_⟩; dsimp only <;> (unfold AllLanded; decide +kernel)
  · refine ⟨0, 0, 0x10080, { xfer 0 (.tst (some 0x10080)) with stage := .record, fmt := 4 }, withMem (transfers [{ xfer 0 (.tst (some 0x10080)) with stage := .record, fmt := 4 }] {} withStats) (storeAddr 0 0x10080) [1], storeAddr 0 0x10080, .bad, fcStoreUncorr, ?_⟩; dsimp only <;> (unfold AllLanded; decide +kernel)
  · refine ⟨0, 0, 0x10080, { xfer 0 (.tst (some 0x10080)) with stage := .record, fmt := 4 }, withMem (transfers [{ xfer 0 (.tst (some 0x10080)) with stage := .record, fmt := 4 }] {} withStats) (storeAddr 0 0x10080) [1], storeAddr 0 0x10080, .clean, .none, ?_⟩; dsimp only <;> (unfold AllLanded; decide +kernel)
  · refine ⟨0, 0, 0x10080, { xfer 0 (.tst (some 0x10080)) with stage := .record, fmt := 5 }, withMem (transfers [{ xfer 0 (.tst (some 0x10080)) with stage := .record, fmt := 5 }] {} withStats) (storeAddr 0 0x10080) checkedRecord, storeAddr 0 0x10080, .clean, .none, ?_⟩; dsimp only <;> (unfold AllLanded; decide +kernel)
  · refine ⟨0, 0, 0x10080, { xfer 0 (.tst (some 0x10080)) with stage := .record, fmt := 4 }, withMem (transfers [{ xfer 0 (.tst (some 0x10080)) with stage := .record, fmt := 4 }] {} withStats) (storeAddr 0 0x10080) goodRecord, storeAddr 0 0x10080, .clean, .none, (updateRecord goodRecord 4 0 { rows := 4, len := 64, fmt := 4, pending := true, amax := 7, sat := 1, data := [(0, 5)] }).getD [], 0, 0x10080, ?_⟩; dsimp only <;> (unfold AllLanded; decide +kernel)

/-- States that meet the premises of TransfersComplete. -/
theorem test_meets_TransfersComplete :
  (∃ st : Nat, ∃ id : Nat, ∃ f : Xfer, ∃ s : State, let u := settle s st
    let x := stopeOf u st
    (xferOf x id = some f) ∧
    (f.stage = .done) ∧
    (f.ending = false) ∧
    (f.phys = true)) ∧
  (∃ st : Nat, ∃ id : Nat, ∃ f : Xfer, ∃ s : State, let u := settle s st
    let x := stopeOf u st
    (xferOf x id = some f) ∧
    (f.stage = .done) ∧
    (f.ending = false) ∧
    (f.phys = false)) := by
  refine ⟨?_, ?_⟩
  · refine ⟨0, 0, { xfer 0 (.tram copyDesc) with stage := .done, phys := true, swapAfter := true }, { transfers [{ xfer 0 (.tram copyDesc) with stage := .done, phys := true, swapAfter := true }] with cmds := [imageCmd] }, ?_⟩; dsimp only <;> decide +kernel
  · refine ⟨0, 0, { xfer 0 .tld with stage := .done }, transfers [{ xfer 0 .tld with stage := .done }], ?_⟩; dsimp only <;> decide +kernel

/-- States that meet the premises of FaultedTransfersAreHeld. -/
theorem test_meets_FaultedTransfersAreHeld :
  (∃ st : Nat, ∃ id : Nat, ∃ f : Xfer, ∃ s : State, let u := settle s st
    let x := stopeOf u st
    (xferOf x id = some f) ∧
    (f.flying = []) ∧
    (f.stage ≠ .entry) ∧
    (f.ending = true)) ∧
  (∃ st : Nat, ∃ id : Nat, ∃ f : Xfer, ∃ s : State, ∃ code, ∃ va, let u := settle s st
    let x := stopeOf u st
    (xferOf x id = some f) ∧
    (f.flying = []) ∧
    (f.stage ≠ .entry) ∧
    (f.ending = false) ∧
    (canHold x f = true) ∧
    (f.fault = some (code, va)) ∧
    (code ≠ 0)) ∧
  (∃ st : Nat, ∃ id : Nat, ∃ f : Xfer, ∃ s : State, let u := settle s st
    let x := stopeOf u st
    (xferOf x id = some f) ∧
    (f.flying = []) ∧
    (f.stage ≠ .entry) ∧
    (f.ending = false) ∧
    (canHold x f = true) ∧
    (f.fault = none) ∧
    (f.stop = true) ∧
    (f.prog < rowsOf f) ∧
    (f.stage ≠ .closing)) := by
  refine ⟨?_, ?_, ?_⟩
  · refine ⟨0, 0, { xfer 0 .tld with stage := .moving, ending := true }, transfers [{ xfer 0 .tld with stage := .moving, ending := true }], ?_⟩; dsimp only <;> decide +kernel
  · refine ⟨0, 0, { xfer 0 .tld with stage := .moving, fault := some (fcClaimFault, 0x10000) }, transfers [{ xfer 0 .tld with stage := .moving, fault := some (fcClaimFault, 0x10000) }], fcClaimFault, 0x10000, ?_⟩; dsimp only <;> decide +kernel
  · refine ⟨0, 0, { xfer 0 .tld with stage := .moving, stop := true, prog := 2, next := 2 }, transfers [{ xfer 0 .tld with stage := .moving, stop := true, prog := 2, next := 2 }] { quiesce := true }, ?_⟩; dsimp only <;> decide +kernel

/-- States that meet the premises of HeldTransfersResumeOrEnd. -/
theorem test_meets_HeldTransfersResumeOrEnd :
  (∃ st : Nat, ∃ v : Word64, ∃ s : State, let u := settle s st
    let x := { stopeOf u st with ctxErr := false, trmErr := false }
    let cr := bits v.toNat 0 4
    let r := bits v.toNat 4 3
    let i := bits v.toNat 8 4
    let slot := tget x.heldSlots none i
    let held := (tileOf (agentOf x cr) r).held
    let named := if bit v.toNat 7 then slot.isSome else held.isSome
    let room := x.queue.length < 64 ∧ (bit v.toNat 7 = true → tramShare x < 16)
    (bits v.toNat 12 2 = 1) ∧
    (named = true) ∧
    (room)) ∧
  (∃ st : Nat, ∃ v : Word64, ∃ s : State, let u := settle s st
    let x := { stopeOf u st with ctxErr := false, trmErr := false }
    let cr := bits v.toNat 0 4
    let r := bits v.toNat 4 3
    let i := bits v.toNat 8 4
    let slot := tget x.heldSlots none i
    let held := (tileOf (agentOf x cr) r).held
    let named := if bit v.toNat 7 then slot.isSome else held.isSome
    (bits v.toNat 12 2 = 2) ∧
    (named = true)) ∧
  (∃ st : Nat, ∃ v : Word64, ∃ s : State, let u := settle s st
    let x := { stopeOf u st with ctxErr := false, trmErr := false }
    let cr := bits v.toNat 0 4
    let r := bits v.toNat 4 3
    let i := bits v.toNat 8 4
    let slot := tget x.heldSlots none i
    let held := (tileOf (agentOf x cr) r).held
    let named := if bit v.toNat 7 then slot.isSome else held.isSome
    let room := x.queue.length < 64 ∧ (bit v.toNat 7 = true → tramShare x < 16)
    (bits v.toNat 12 2 = 1) ∧
    (named = true) ∧
    (¬ room)) ∧
  (∃ st : Nat, ∃ v : Word64, ∃ s : State, let u := settle s st
    let x := { stopeOf u st with ctxErr := false, trmErr := false }
    let cr := bits v.toNat 0 4
    let r := bits v.toNat 4 3
    let i := bits v.toNat 8 4
    let slot := tget x.heldSlots none i
    let held := (tileOf (agentOf x cr) r).held
    let named := if bit v.toNat 7 then slot.isSome else held.isSome
    (named = false) ∧
    (bits v.toNat 12 2 = 1)) ∧
  (∃ st : Nat, ∃ v : Word64, ∃ s : State, let u := settle s st
    let x := { stopeOf u st with ctxErr := false, trmErr := false }
    let cr := bits v.toNat 0 4
    let r := bits v.toNat 4 3
    let i := bits v.toNat 8 4
    let slot := tget x.heldSlots none i
    let held := (tileOf (agentOf x cr) r).held
    let named := if bit v.toNat 7 then slot.isSome else held.isSome
    (named = false) ∧
    (bits v.toNat 12 2 = 2)) := by
  refine ⟨?_, ?_, ?_, ?_, ?_⟩
  · refine ⟨0, wd [(0, 3), (4, 2), (12, 1)], transfers [] {} [(2, heldTile false)], ?_⟩; dsimp only <;> decide +kernel
  · refine ⟨0, wd [(0, 3), (4, 2), (12, 2)], transfers [] {} [(2, heldTile false)], ?_⟩; dsimp only <;> decide +kernel
  · refine ⟨0, wd [(0, 3), (4, 2), (12, 1)], transfers (List.replicate 64 (xfer 0 .tld)) {} [(2, heldTile false)], ?_⟩; dsimp only <;> decide +kernel
  · refine ⟨0, wd [(0, 3), (4, 1), (12, 1)], transfers [] {} [(2, heldTile false)], ?_⟩; dsimp only <;> decide +kernel
  · refine ⟨0, wd [(0, 3), (4, 1), (12, 2)], transfers [] {} [(2, heldTile false)], ?_⟩; dsimp only <;> decide +kernel

/-- States that meet the premises of QuiesceStopsTheTram. -/
theorem test_meets_QuiesceStopsTheTram :
  (∃ st : Nat, ∃ s : State, let u := settle s st
    let x := stopeOf u st
    ((x.queue.map (·.id)).Nodup)) := by
  refine ⟨0, transfers [xfer 0 .tld, { xfer 1 (.tst none) with stage := .moving }], ?_⟩; dsimp only <;> decide +kernel

/-- States that meet the premises of ContextOperationsStart. -/
theorem test_meets_ContextOperationsStart :
  (∃ st : Nat, ∃ v : Word64, ∃ s : State, let u := settle s st
    let x := stopeOf u st
    let cr := bits v.toNat 0 4
    let c := agentOf x cr
    let pa := bits x.ctxAddr.toNat 0 48
    let mask := if bit v.toNat 4 then (byteAt u (pa + 7)).toNat else (savedTiles c).foldl (fun m t => m + 2 ^ t) 0
    let may := !x.ctxBusy && ctxHome u st pa (imageLength mask) && atRest c u.now && crewQuiet x cr u.now && noXfers x cr
    (may = true)) ∧
  (∃ st : Nat, ∃ v : Word64, ∃ s : State, let u := settle s st
    let x := stopeOf u st
    let cr := bits v.toNat 0 4
    let c := agentOf x cr
    let pa := bits x.ctxAddr.toNat 0 48
    let mask := if bit v.toNat 4 then (byteAt u (pa + 7)).toNat else (savedTiles c).foldl (fun m t => m + 2 ^ t) 0
    let may := !x.ctxBusy && ctxHome u st pa (imageLength mask) && atRest c u.now && crewQuiet x cr u.now && noXfers x cr
    (may = false)) := by
  refine ⟨?_, ?_⟩
  · refine ⟨0, wd [(0, 3)], one 3 { state := .stopped } { ctxAddr := BitVec.ofNat 64 (storeAddr 0 0x10000) }, ?_⟩; dsimp only <;> decide +kernel
  · refine ⟨0, wd [(0, 3)], one 3 { state := .running } { ctxAddr := BitVec.ofNat 64 (storeAddr 0 0x10000) }, ?_⟩; dsimp only <;> decide +kernel

/-- States that meet the premises of ContextOperationsFinish. -/
theorem test_meets_ContextOperationsFinish :
  (∃ st : Nat, ∃ cr : Nat, ∃ pa : Nat, ∃ s : State, let u := settle s st
    let x := stopeOf u st
    let c := agentOf x cr
    let img := contextImage c cr u.now
    (AllLanded u st) ∧
    (x.ctxOp = some (cr, false, pa)) ∧
    (ctxHome u st pa img.length = true) ∧
    (Unhindered u pa img.length)) ∧
  (∃ st : Nat, ∃ cr : Nat, ∃ pa : Nat, ∃ e : Ecc, ∃ s : State, ∃ code, let u := settle s st
    let x := stopeOf u st
    let bs := readBytes u pa 156928
    let fails := readFault u pa (field bs 12 4) e
    (AllLanded u st) ∧
    (x.ctxOp = some (cr, true, pa)) ∧
    (fails = some code)) ∧
  (∃ st : Nat, ∃ cr : Nat, ∃ pa : Nat, ∃ e : Ecc, ∃ s : State, let u := settle s st
    let x := stopeOf u st
    let bs := readBytes u pa 156928
    let fails := readFault u pa (field bs 12 4) e
    (AllLanded u st) ∧
    (x.ctxOp = some (cr, true, pa)) ∧
    (fails = none) ∧
    (imageBad bs cr = true)) ∧
  (∃ st : Nat, ∃ cr : Nat, ∃ pa : Nat, ∃ e : Ecc, ∃ s : State, let u := settle s st
    let x := stopeOf u st
    let bs := readBytes u pa 156928
    let fails := readFault u pa (field bs 12 4) e
    (AllLanded u st) ∧
    (x.ctxOp = some (cr, true, pa)) ∧
    (fails = none) ∧
    (imageBad bs cr = false)) := by
  refine ⟨?_, ?_, ?_, ?_⟩
  · refine ⟨0, 3, storeAddr 0 0x10000, one 3 { state := .stopped, pc := 77, s := [(1, 5)] } { ctxBusy := true, ctxOp := some (3, false, storeAddr 0 0x10000) }, ?_⟩; dsimp only <;> (unfold Unhindered AllLanded; decide +kernel)
  · refine ⟨0, 3, storeAddr 0 0x10000, .bad, one 3 { state := .stopped } { ctxBusy := true, ctxOp := some (3, true, storeAddr 0 0x10000) }, fcStoreUncorr, ?_⟩; dsimp only <;> (unfold AllLanded; decide +kernel)
  · refine ⟨0, 3, storeAddr 0 0x10000, .clean, one 3 { state := .stopped } { ctxBusy := true, ctxOp := some (3, true, storeAddr 0 0x10000) }, ?_⟩; dsimp only <;> (unfold AllLanded; decide +kernel)
  · refine ⟨0, 3, storeAddr 0 0x10000, .clean, withMem (one 3 { state := .stopped } { ctxBusy := true, ctxOp := some (3, true, storeAddr 0 0x10000) }) (storeAddr 0 0x10000) [1, 0, 3], ?_⟩; dsimp only <;> (unfold AllLanded; decide +kernel)

/-- States that meet the premises of SoftwareTraceRecords. -/
theorem test_meets_SoftwareTraceRecords :
  (∃ st : Nat, ∃ v : Word64, ∃ s : State, let x := stopeOf s st
    let now := if x.trace.queuedAt = s.now then x.trace.cycleAgents else []
    let stands := x.trace.queued - 2 * (s.now - x.trace.queuedAt)
    let on := !monitorOff s (stopeLevel st) && bit x.trace.ctl.toNat 0 && !bit x.trace.ctl.toNat 24
    (0x8000 ≤ v.toNat) ∧
    (v.toNat < 2 ^ 16) ∧
    (on = true) ∧
    ((bit x.trace.ctl.toNat 1 = true ∨ x.trace.sinceClear < 8192)) ∧
    (stands < 18) ∧
    (now.length < 8192)) ∧
  (∃ st : Nat, ∃ v : Word64, ∃ s : State, let x := stopeOf s st
    let now := if x.trace.queuedAt = s.now then x.trace.cycleAgents else []
    let stands := x.trace.queued - 2 * (s.now - x.trace.queuedAt)
    let on := !monitorOff s (stopeLevel st) && bit x.trace.ctl.toNat 0 && !bit x.trace.ctl.toNat 24
    (0x8000 ≤ v.toNat) ∧
    (v.toNat < 2 ^ 16) ∧
    (on = true) ∧
    (((bit x.trace.ctl.toNat 1 = false ∧ 8192 ≤ x.trace.sinceClear) ∨ 18 ≤ stands))) ∧
  (∃ st : Nat, ∃ v : Word64, ∃ s : State, let x := stopeOf s st
    let on := !monitorOff s (stopeLevel st) && bit x.trace.ctl.toNat 0 && !bit x.trace.ctl.toNat 24
    ((v.toNat < 0x8000 ∨ 2 ^ 16 ≤ v.toNat ∨ on = false))) := by
  refine ⟨?_, ?_, ?_⟩
  · refine ⟨0, 0x8000, ovm [], ?_⟩; dsimp only <;> decide +kernel
  · refine ⟨0, 0x8000, ovm [] { trace := { ctl := 1, sinceClear := 8192 } }, ?_⟩; dsimp only <;> decide +kernel
  · refine ⟨159, 0x7FFF, ovm [], ?_⟩; dsimp only <;> decide +kernel

/-- States that meet the premises of TraceRingsClear. -/
theorem test_meets_TraceRingsClear :
  (∃ st : Nat, ∃ s : State, (levelHeld s (stopeLevel st) = false)) := by
  refine ⟨0, { ovm [] { trace := { head := 7, count := 9, sinceClear := 9 } } with levels := [(0, { up := true })], boot := { aon := true }, power := .full }, ?_⟩; decide +kernel

/-- States that meet the premises of SystemRegistersReadBack. -/
theorem test_meets_SystemRegistersReadBack :
  (∃ v : Nat, (v < 2 ^ 64)) ∧
  (∃ v : Nat, ∃ n, (v < 2 ^ 64) ∧
    ((n ∈ [0x02, 0x03, 0x04, 0x06, 0x07, 0x08, 0x24] ∨ (0x10 ≤ n ∧ n < 0x20)))) := by
  refine ⟨?_, ?_⟩
  · refine ⟨0xFFFFFFFFFFFFFFFF, ?_⟩; decide +kernel
  · refine ⟨7, 0x24, ?_⟩; decide +kernel

/-- States that meet the premises of SignalsReachTallies. -/
theorem test_meets_SignalsReachTallies :
  (∃ agents : List (Nat × Nat), ∃ s : State, let r := takeSignals agents s.signals
    (r.1 ≠ []) ∧
    ((∀ g ∈ r.1, signalDue s g = true ∧ (g.sc = .device → g.unit = 0)))) := by
  refine ⟨[(0, 3)], signalled false 5 { count := 0xFFFFFFFA }, ?_⟩; dsimp only <;> decide +kernel

/-- States that meet the premises of TalliesSaturate. -/
theorem test_meets_TalliesSaturate :
  (∃ g : Signal, ∃ s : State, let x := tallyOf s g.sc g.unit g.num
    (s.signals.find? (fun h => decide (h.st = g.st ∧ h.ag = g.ag)) = some g) ∧
    (signalDue s g = true) ∧
    (x.waiters = []) ∧
    (0 < g.n) ∧
    (Fresh x (max s.now (signalTime s g))) ∧
    (g.sub = false) ∧
    (2 ^ 32 ≤ x.count + g.n)) ∧
  (∃ g : Signal, ∃ s : State, let x := tallyOf s g.sc g.unit g.num
    (s.signals.find? (fun h => decide (h.st = g.st ∧ h.ag = g.ag)) = some g) ∧
    (signalDue s g = true) ∧
    (x.waiters = []) ∧
    (0 < g.n) ∧
    (Fresh x (max s.now (signalTime s g))) ∧
    (g.sub = true) ∧
    (x.count < g.n)) := by
  refine ⟨?_, ?_⟩
  · refine ⟨signal false 5, signalled false 5 { count := 0xFFFFFFFB }, ?_⟩; dsimp only <;> (simp only [fresh_iff]; decide +kernel)
  · refine ⟨signal true 5, signalled true 5 { count := 4 }, ?_⟩; dsimp only <;> (simp only [fresh_iff]; decide +kernel)

/-- States that meet the premises of WaitsArrive. -/
theorem test_meets_WaitsArrive :
  (∃ st : Nat, ∃ cr : Nat, ∃ w : Wait, ∃ s : State, ((crewOf s st cr).wait = some w) ∧
    (w.phase = .travelling) ∧
    (signalAhead s st cr w = false) ∧
    (w.n = 0)) ∧
  (∃ st : Nat, ∃ cr : Nat, ∃ w : Wait, ∃ s : State, let u := advance s (w.issued + 1)
    let x := tallyOf s w.sc w.unit w.num
    ((crewOf s st cr).wait = some w) ∧
    (w.phase = .travelling) ∧
    (signalAhead s st cr w = false) ∧
    (0 < w.n) ∧
    (Fresh x u.now) ∧
    ((∀ v ∈ x.waiters, ¬(v.st = st ∧ v.cr = cr)))) := by
  refine ⟨?_, ?_⟩
  · refine ⟨0, 3, waitOn .travelling 0, waiting .travelling 0 false {}, ?_⟩; decide +kernel
  · refine ⟨0, 3, waitOn .travelling 7, waiting .travelling 7 false { count := 7 }, ?_⟩; dsimp only <;> (simp only [fresh_iff]; decide +kernel)

/-- States that meet the premises of ReleasedCrewsRun. -/
theorem test_meets_ReleasedCrewsRun :
  (∃ st : Nat, ∃ cr : Nat, ∃ w : Wait, ∃ s : State, let c := crewOf s st cr
    (c.wait = some w) ∧
    (w.phase = .released) ∧
    (c.stopping = false) ∧
    (c.state = .waiting)) := by
  refine ⟨0, 3, waitOn .released 7, waiting .released 7 false {}, ?_⟩; dsimp only <;> decide +kernel

/-- States that meet the premises of WithdrawalsStopCrews. -/
theorem test_meets_WithdrawalsStopCrews :
  (∃ st : Nat, ∃ cr : Nat, ∃ w : Wait, ∃ s : State, let c := crewOf s st cr
    (c.wait = some w) ∧
    (c.stopping = true) ∧
    (w.phase = .travelling)) ∧
  (∃ st : Nat, ∃ cr : Nat, ∃ w : Wait, ∃ s : State, let c := crewOf s st cr
    let u := advance s (c.stopAt - 3)
    let x := tallyOf s w.sc w.unit w.num
    let mine := fun (v : Waiter) => decide (v.st = st) && decide (v.cr = cr)
    (c.wait = some w) ∧
    (c.stopping = true) ∧
    (w.phase = .listed) ∧
    (Fresh x u.now) ∧
    (x.waiters.any mine = true)) ∧
  (∃ st : Nat, ∃ cr : Nat, ∃ w : Wait, ∃ s : State, ∃ v, let c := crewOf s st cr
    let u := advance s (c.stopAt - 3)
    let x := tallyOf s w.sc w.unit w.num
    let mine := fun (v : Waiter) => decide (v.st = st) && decide (v.cr = cr)
    (c.wait = some w) ∧
    (c.stopping = true) ∧
    (w.phase = .listed ∨ w.phase = .released) ∧
    (x.visit = some v) ∧
    (v.cycle = u.now) ∧
    ((v.waiters ++ v.joined).any mine = true)) ∧
  (∃ st : Nat, ∃ cr : Nat, ∃ w : Wait, ∃ s : State, let c := crewOf s st cr
    let u := advance s (c.stopAt - 3)
    let x := tallyOf s w.sc w.unit w.num
    let mine := fun (v : Waiter) => decide (v.st = st) && decide (v.cr = cr)
    (c.wait = some w) ∧
    (c.stopping = true) ∧
    (w.phase = .released) ∧
    ((∀ v, x.visit = some v → v.cycle = u.now → (v.waiters ++ v.joined).any mine = false))) ∧
  (∃ st : Nat, ∃ cr : Nat, ∃ w : Wait, ∃ s : State, let c := crewOf s st cr
    (c.wait = some w) ∧
    (c.stopping = true) ∧
    (w.phase = .withdrawn ∨ w.phase = .stands)) := by
  refine ⟨?_, ?_, ?_, ?_, ?_⟩
  · refine ⟨0, 3, waitOn .travelling 7, waiting .travelling 7 true {}, ?_⟩; dsimp only <;> decide +kernel
  · refine ⟨0, 3, waitOn .listed 7, waiting .listed 7 true { count := 6, waiters := [wtr 3 7 true] }, ?_⟩; dsimp only <;> (simp only [fresh_iff]; decide +kernel)
  · refine ⟨0, 3, waitOn .released 7, waiting .released 7 true { count := 1, visit := some { cycle := 101, count := 8, sat := false, under := false, waiters := [wtr 3 7 true] } }, { cycle := 101, count := 8, sat := false, under := false, waiters := [wtr 3 7 true] }, ?_⟩; dsimp only <;> decide +kernel
  · refine ⟨0, 3, waitOn .released 7, waiting .released 7 true {}, ?_⟩; dsimp only <;> decide +kernel
  · refine ⟨0, 3, waitOn .withdrawn 7, waiting .withdrawn 7 true {}, ?_⟩; dsimp only <;> decide +kernel

/-- States that meet the premises of StopesSleep. -/
theorem test_meets_StopesSleep :
  (∃ st : Nat, ∃ s : State, let x := stopeOf s st
    (mayGate x = true) ∧
    (x.gated = false) ∧
    (stopeAbsent s st = false)) := by
  refine ⟨0, { waiting .listed 7 false { count := 6, waiters := [wtr 3 7 true] } with levels := [(0, { up := true, assigned := true })], phys := [(0, { logical := 0, state := 1 })] }, ?_⟩; dsimp only <;> decide +kernel

/-- States that meet the premises of CountWritesSet. -/
theorem test_meets_CountWritesSet :
  (∃ sc : Scope, ∃ unit : Nat, ∃ num : Nat, ∃ s : State, let x := tallyOf s sc unit num
    (unit < tallyUnits sc) ∧
    (num < tallyCount sc) ∧
    (tallyLive s sc unit = true) ∧
    (Fresh x s.now)) ∧
  (∃ sc : Scope, ∃ unit : Nat, ∃ num : Nat, ∃ s : State, (¬(unit < tallyUnits sc ∧ num < tallyCount sc ∧ tallyLive s sc unit = true))) := by
  refine ⟨?_, ?_⟩
  · refine ⟨.device, 0, 1023, powered (signalled false 5 {}), ?_⟩; dsimp only <;> (simp only [fresh_iff]; decide +kernel)
  · refine ⟨.level, 8, 3, signalled false 5 {}, ?_⟩; decide +kernel

/-- States that meet the premises of HoistSegmentsAreRead. -/
theorem test_meets_HoistSegmentsAreRead :
  (∃ st : Nat, ∃ o : HoistOp, ∃ rest : List HoistOp, ∃ s : State, let u := reachCycle s st o.rel
    ((stopeOf s st).hoists = o :: rest) ∧
    (tramsOff s = false) ∧
    (((stopeOf s st).clk.stopped = false ∨ o.rel ≤ (stopeOf s st).clk.base)) ∧
    (homeOf u (stopeLevel st) o.slot o.tag = none)) ∧
  (∃ st : Nat, ∃ o : HoistOp, ∃ rest : List HoistOp, ∃ s : State, let u := reachCycle s st o.rel
    let y := slotOf (hoistOf u (stopeLevel st)) o.slot
    ((stopeOf s st).hoists = o :: rest) ∧
    (tramsOff s = false) ∧
    (((stopeOf s st).clk.stopped = false ∨ o.rel ≤ (stopeOf s st).clk.base)) ∧
    (homeOf u (stopeLevel st) o.slot o.tag ≠ none) ∧
    (y.entry.elems < 256 * (o.offset + o.rows * o.arrays.length)) ∧
    (0 < o.offset + o.rows * o.arrays.length)) ∧
  (∃ st : Nat, ∃ o : HoistOp, ∃ rest : List HoistOp, ∃ s : State, let u := reachCycle s st o.rel
    let y := slotOf (hoistOf u (stopeLevel st)) o.slot
    ((stopeOf s st).hoists = o :: rest) ∧
    (tramsOff s = false) ∧
    (((stopeOf s st).clk.stopped = false ∨ o.rel ≤ (stopeOf s st).clk.base)) ∧
    (homeOf u (stopeLevel st) o.slot o.tag ≠ none) ∧
    (256 * (o.offset + o.rows * o.arrays.length) - 1 < y.entry.elems)) := by
  refine ⟨?_, ?_, ?_⟩
  · refine ⟨0, hop 6, [], hoisting { slots := [(5, slot entry [])] } { hoists := [hop 6] }, ?_⟩; dsimp only <;> decide +kernel
  · refine ⟨0, { hop 5 with offset := 1 }, [], hoisting { slots := [(5, slot entry [])] } { hoists := [{ hop 5 with offset := 1 }] }, ?_⟩; dsimp only <;> decide +kernel
  · refine ⟨0, hop 5, [hop 6], hoisting { slots := [(5, slot entry [])] } { hoists := [hop 5, hop 6] }, ?_⟩; dsimp only <;> decide +kernel

/-- States that meet the premises of LocalContributionsArrive. -/
theorem test_meets_LocalContributionsArrive :
  (∃ n : Nat, ∃ st : Nat, ∃ g : Segment, ∃ s : State, let h := hoistOf s n
    let x := slotOf h g.slot
    let ours := x.loaded = true ∧ x.tag = g.tag ∧ x.entry.id = g.id ∧ x.round = g.round
    ((stopeOf s st).segments.find? (fun g => decide (g.home = n)) = some g) ∧
    (¬ ours)) ∧
  (∃ n : Nat, ∃ st : Nat, ∃ g : Segment, ∃ s : State, let h := hoistOf s n
    let x := slotOf h g.slot
    let ours := x.loaded = true ∧ x.tag = g.tag ∧ x.entry.id = g.id ∧ x.round = g.round
    ((stopeOf s st).segments.find? (fun g => decide (g.home = n)) = some g) ∧
    (ours) ∧
    (pastD s x = true)) ∧
  (∃ n : Nat, ∃ st : Nat, ∃ g : Segment, ∃ s : State, let h := hoistOf s n
    let x := slotOf h g.slot
    let ours := x.loaded = true ∧ x.tag = g.tag ∧ x.entry.id = g.id ∧ x.round = g.round
    let need := ((segSlices h g).filter (fun i => !(openSlices h x).contains i)).length
    ((stopeOf s st).segments.find? (fun g => decide (g.home = n)) = some g) ∧
    (ours) ∧
    (pastD s x = false) ∧
    (need ≤ windowsFree h)) ∧
  (∃ n : Nat, ∃ st : Nat, ∃ g : Segment, ∃ s : State, let h := hoistOf s n
    let x := slotOf h g.slot
    let ours := x.loaded = true ∧ x.tag = g.tag ∧ x.entry.id = g.id ∧ x.round = g.round
    let need := ((segSlices h g).filter (fun i => !(openSlices h x).contains i)).length
    ((stopeOf s st).segments.find? (fun g => decide (g.home = n)) = some g) ∧
    (ours) ∧
    (pastD s x = false) ∧
    (windowsFree h < need)) := by
  refine ⟨?_, ?_, ?_, ?_⟩
  · refine ⟨0, 0, seg 1, hoisting { slots := [(5, { slot entry [] with round := 7 })] } { segments := [seg 1] }, ?_⟩; dsimp only <;> decide +kernel
  · refine ⟨0, 0, seg 1, { hoisting { slots := [(5, slot treeEntry [seg 0])] } { segments := [seg 1] } with now := 500000 }, ?_⟩; dsimp only <;> decide +kernel
  · refine ⟨0, 0, seg 1, hoisting { slots := [(5, slot entry [seg 0])] } { segments := [seg 1] }, ?_⟩; dsimp only <;> decide +kernel
  · refine ⟨0, 0, seg 1, hoisting { slots := [(5, slot entry [])], unacked := List.replicate 64 (4, partialMsg) } { segments := [seg 1] }, ?_⟩; dsimp only <;> decide +kernel

/-- States that meet the premises of SlicesArrive. -/
theorem test_meets_SlicesArrive :
  (∃ n : Nat, ∃ port : Nat, ∃ m : SliceMsg, ∃ s : State, (m.home = n) ∧
    (m.kind < 3) ∧
    (carries (portOf s port) = false)) ∧
  (∃ n : Nat, ∃ port : Nat, ∃ m : SliceMsg, ∃ s : State, (m.home = n) ∧
    (m.kind < 3) ∧
    (carries (portOf s port) = true) ∧
    (turnedAway s port (decide (m.dst = s.fabId)) = true)) ∧
  (∃ n : Nat, ∃ port : Nat, ∃ m : SliceMsg, ∃ s : State, let h := hoistOf s n
    (m.home = n) ∧
    (m.kind < 3) ∧
    (carries (portOf s port) = true) ∧
    (turnedAway s port (decide (m.dst = s.fabId)) = false) ∧
    (windowsFree h = 0)) ∧
  (∃ n : Nat, ∃ port : Nat, ∃ fails : Nat, ∃ m : SliceMsg, ∃ s : State, let h := hoistOf s n
    let key := sliceKey port m
    (m.home = n) ∧
    (m.kind < 3) ∧
    (carries (portOf s port) = true) ∧
    (turnedAway s port (decide (m.dst = s.fabId)) = false) ∧
    (0 < windowsFree h) ∧
    (fails = 0) ∧
    (h.asked.contains key = false) ∧
    (sliceSound m = true) ∧
    (m.len ≤ 4 * sliceElems h) ∧
    (h.seen.contains key = true)) ∧
  (∃ n : Nat, ∃ port : Nat, ∃ fails : Nat, ∃ m : SliceMsg, ∃ s : State, let h := hoistOf s n
    let x := slotOf h m.slot
    let key := sliceKey port m
    let current := x.loaded = true ∧ x.entry.id = m.id ∧ x.round = m.round
    (m.home = n) ∧
    (m.kind < 3) ∧
    (carries (portOf s port) = true) ∧
    (turnedAway s port (decide (m.dst = s.fabId)) = false) ∧
    (0 < windowsFree h) ∧
    (fails = 0) ∧
    (h.asked.contains key = false) ∧
    (sliceSound m = true) ∧
    (m.len ≤ 4 * sliceElems h) ∧
    (h.seen.contains key = false) ∧
    (current) ∧
    (sliceCount h x.entry ≤ m.idx)) ∧
  (∃ n : Nat, ∃ port : Nat, ∃ fails : Nat, ∃ m : SliceMsg, ∃ s : State, let h := hoistOf s n
    let x := slotOf h m.slot
    let key := sliceKey port m
    let current := x.loaded = true ∧ x.entry.id = m.id ∧ x.round = m.round
    (m.home = n) ∧
    (m.kind < 3) ∧
    (carries (portOf s port) = true) ∧
    (turnedAway s port (decide (m.dst = s.fabId)) = false) ∧
    (0 < windowsFree h) ∧
    (fails = 0) ∧
    (h.asked.contains key = false) ∧
    (sliceSound m = true) ∧
    (m.len ≤ 4 * sliceElems h) ∧
    (h.seen.contains key = false) ∧
    (current) ∧
    (m.idx < sliceCount h x.entry) ∧
    (m.kind = 0) ∧
    (partialLate s x port m.idx s.rnd.round s.now = true)) ∧
  (∃ n : Nat, ∃ port : Nat, ∃ fails : Nat, ∃ m : SliceMsg, ∃ s : State, let h := hoistOf s n
    let x := slotOf h m.slot
    let key := sliceKey port m
    let current := x.loaded = true ∧ x.entry.id = m.id ∧ x.round = m.round
    (m.home = n) ∧
    (m.kind < 3) ∧
    (carries (portOf s port) = true) ∧
    (turnedAway s port (decide (m.dst = s.fabId)) = false) ∧
    (0 < windowsFree h) ∧
    (fails = 0) ∧
    (h.asked.contains key = false) ∧
    (sliceSound m = true) ∧
    (m.len ≤ 4 * sliceElems h) ∧
    (h.seen.contains key = false) ∧
    (current) ∧
    (m.idx < sliceCount h x.entry) ∧
    (m.kind = 0) ∧
    (partialLate s x port m.idx s.rnd.round s.now = false)) ∧
  (∃ n : Nat, ∃ port : Nat, ∃ fails : Nat, ∃ m : SliceMsg, ∃ s : State, let h := hoistOf s n
    let x := slotOf h m.slot
    let v := tget x.slices {} m.idx
    let key := sliceKey port m
    let current := x.loaded = true ∧ x.entry.id = m.id ∧ x.round = m.round
    (m.home = n) ∧
    (m.kind < 3) ∧
    (carries (portOf s port) = true) ∧
    (turnedAway s port (decide (m.dst = s.fabId)) = false) ∧
    (0 < windowsFree h) ∧
    (fails = 0) ∧
    (h.asked.contains key = false) ∧
    (sliceSound m = true) ∧
    (m.len ≤ 4 * sliceElems h) ∧
    (h.seen.contains key = false) ∧
    (current) ∧
    (m.idx < sliceCount h x.entry) ∧
    (m.kind ≠ 0) ∧
    (v.finished = true)) ∧
  (∃ n : Nat, ∃ port : Nat, ∃ fails : Nat, ∃ m : SliceMsg, ∃ s : State, let h := hoistOf s n
    let x := slotOf h m.slot
    let v := tget x.slices {} m.idx
    let key := sliceKey port m
    let current := x.loaded = true ∧ x.entry.id = m.id ∧ x.round = m.round
    (m.home = n) ∧
    (m.kind < 3) ∧
    (carries (portOf s port) = true) ∧
    (turnedAway s port (decide (m.dst = s.fabId)) = false) ∧
    (0 < windowsFree h) ∧
    (fails = 0) ∧
    (h.asked.contains key = false) ∧
    (sliceSound m = true) ∧
    (m.len ≤ 4 * sliceElems h) ∧
    (h.seen.contains key = false) ∧
    (current) ∧
    (m.idx < sliceCount h x.entry) ∧
    (m.kind ≠ 0) ∧
    (v.finished = false) ∧
    (ResultLands s h x)) ∧
  (∃ n : Nat, ∃ port : Nat, ∃ fails : Nat, ∃ m : SliceMsg, ∃ s : State, let h := hoistOf s n
    let x := slotOf h m.slot
    let key := sliceKey port m
    let current := x.loaded = true ∧ x.entry.id = m.id ∧ x.round = m.round
    (m.home = n) ∧
    (m.kind < 3) ∧
    (carries (portOf s port) = true) ∧
    (turnedAway s port (decide (m.dst = s.fabId)) = false) ∧
    (0 < windowsFree h) ∧
    (fails = 0) ∧
    (h.asked.contains key = false) ∧
    (sliceSound m = true) ∧
    (m.len ≤ 4 * sliceElems h) ∧
    (h.seen.contains key = false) ∧
    (¬ current) ∧
    (precedesRound m.round s.rnd.round = false) ∧
    (¬(x.loaded = true ∧ x.entry.id = m.id ∧ precedesRound m.round x.round = true))) ∧
  (∃ n : Nat, ∃ port : Nat, ∃ fails : Nat, ∃ m : SliceMsg, ∃ s : State, let h := hoistOf s n
    let x := slotOf h m.slot
    let key := sliceKey port m
    let current := x.loaded = true ∧ x.entry.id = m.id ∧ x.round = m.round
    (m.home = n) ∧
    (m.kind < 3) ∧
    (carries (portOf s port) = true) ∧
    (turnedAway s port (decide (m.dst = s.fabId)) = false) ∧
    (0 < windowsFree h) ∧
    (fails = 0) ∧
    (h.asked.contains key = false) ∧
    (sliceSound m = true) ∧
    (m.len ≤ 4 * sliceElems h) ∧
    (h.seen.contains key = false) ∧
    (¬ current) ∧
    ((precedesRound m.round s.rnd.round = true ∨ (x.loaded = true ∧ x.entry.id = m.id ∧ precedesRound m.round x.round = true)))) ∧
  (∃ n : Nat, ∃ port : Nat, ∃ fails : Nat, ∃ m : SliceMsg, ∃ s : State, let h := hoistOf s n
    let key := sliceKey port m
    (m.home = n) ∧
    (m.kind < 3) ∧
    (carries (portOf s port) = true) ∧
    (turnedAway s port (decide (m.dst = s.fabId)) = false) ∧
    (0 < windowsFree h) ∧
    (fails = 0) ∧
    (h.asked.contains key = false) ∧
    (sliceSound m = false) ∧
    (m.len ≤ 4 * sliceElems h)) ∧
  (∃ n : Nat, ∃ port : Nat, ∃ fails : Nat, ∃ m : SliceMsg, ∃ s : State, let h := hoistOf s n
    let key := sliceKey port m
    (m.home = n) ∧
    (m.kind < 3) ∧
    (carries (portOf s port) = true) ∧
    (turnedAway s port (decide (m.dst = s.fabId)) = false) ∧
    (0 < windowsFree h) ∧
    (2 ≤ fails + b2n (h.asked.contains key) + b2n (!sliceSound m) ∨ 4 * sliceElems h < m.len)) := by
  refine ⟨?_, ?_, ?_, ?_, ?_, ?_, ?_, ?_, ?_, ?_, ?_, ?_, ?_⟩
  · refine ⟨0, 7, partialMsg, hoisting { slots := [(5, slot entry [])] }, ?_⟩; decide +kernel
  · refine ⟨0, 4, { partialMsg with dst := 5 }, hoisting { slots := [(5, slot entry [])] }, ?_⟩; decide +kernel
  · refine ⟨0, 4, partialMsg, hoisting { slots := [(5, slot entry [])], unacked := List.replicate 64 (4, partialMsg) }, ?_⟩; dsimp only <;> decide +kernel
  · refine ⟨0, 4, 0, partialMsg, hoisting { slots := [(5, slot entry [])], seen := [sliceKey 4 partialMsg] }, ?_⟩; dsimp only <;> decide +kernel
  · refine ⟨0, 4, 0, { partialMsg with idx := 1 }, hoisting { slots := [(5, slot entry [])] }, ?_⟩; dsimp only <;> decide +kernel
  · refine ⟨0, 4, 0, partialMsg, { hoisting { slots := [(5, slot treeEntry [])] } with now := 900000 }, ?_⟩; dsimp only <;> decide +kernel
  · refine ⟨0, 4, 0, partialMsg, hoisting { slots := [(5, slot entry [])] }, ?_⟩; dsimp only <;> decide +kernel
  · refine ⟨0, 4, 0, { partialMsg with kind := 1 }, hoisting { slots := [(5, { slot entry [] with slices := [(0, { finished := true })] })] }, ?_⟩; dsimp only <;> decide +kernel
  · refine ⟨0, 4, 0, { partialMsg with kind := 1 }, hoisting { slots := [(5, slot entry [])] }, by decide +kernel, by decide +kernel, by decide +kernel, by decide +kernel, by decide +kernel, by decide +kernel, by decide +kernel, by decide +kernel, by decide +kernel, by decide +kernel, by decide +kernel, by decide +kernel, by decide +kernel, by decide +kernel, lands_low _ _ _ (by decide +kernel) (by decide +kernel) (no_regions _ (by decide +kernel)) (by decide +kernel) (by decide +kernel) (by decide +kernel)⟩
  · refine ⟨0, 4, 0, { partialMsg with round := 3 }, hoisting {}, ?_⟩; dsimp only <;> decide +kernel
  · refine ⟨0, 4, 0, partialMsg, { hoisting {} with rnd := { round := 3 } }, ?_⟩; dsimp only <;> decide +kernel
  · refine ⟨0, 4, 0, { partialMsg with crc := 1 }, hoisting { slots := [(5, slot entry [])] }, ?_⟩; dsimp only <;> decide +kernel
  · refine ⟨0, 4, 2, partialMsg, hoisting { slots := [(5, slot entry [])] }, ?_⟩; dsimp only <;> decide +kernel

/-- States that meet the premises of SlicesGoForward. -/
theorem test_meets_SlicesGoForward :
  (∃ n : Nat, ∃ k : Nat, ∃ i : Nat, ∃ s : State, ∃ p, let h := hoistOf s n
    let x := slotOf h k
    (tramsOff s = false) ∧
    (mayEndRing s n k i = false) ∧
    (mayForward s n k i = true) ∧
    ((pathOf x.entry i).out = some p) ∧
    (maySend s n p = true) ∧
    (h.waiting.all (fun w => decide (w.1 ≠ p)) = true)) ∧
  (∃ n : Nat, ∃ k : Nat, ∃ i : Nat, ∃ s : State, ∃ p, let h := hoistOf s n
    let x := slotOf h k
    (tramsOff s = false) ∧
    (mayEndRing s n k i = false) ∧
    (mayForward s n k i = true) ∧
    ((pathOf x.entry i).out = some p) ∧
    ((maySend s n p = false ∨ h.waiting.any (fun w => decide (w.1 = p)) = true))) ∧
  (∃ n : Nat, ∃ k : Nat, ∃ i : Nat, ∃ s : State, let h := hoistOf s n
    let x := slotOf h k
    (tramsOff s = false) ∧
    (mayEndRing s n k i = false) ∧
    (mayForward s n k i = true) ∧
    ((pathOf x.entry i).out = none) ∧
    (ResultLands s h x)) ∧
  (∃ n : Nat, ∃ k : Nat, ∃ i : Nat, ∃ s : State, ∃ r, let h := hoistOf s n
    let x := slotOf h k
    (tramsOff s = false) ∧
    (mayEndRing s n k i = true) ∧
    (nodeStage x.entry i = some r) ∧
    (let v := tget x.slices {} i
    let ended := modHoist s n (fun h => putSlot h k { x with slices := tset x.slices {} i { v with
      node := some (joinPartials (ownPart h x i) (v.partials.filter (fun p => r.expect.contains p.port))) } })
    (mayForward ended n k i = false))) ∧
  (∃ n : Nat, ∃ k : Nat, ∃ i : Nat, ∃ s : State, (tramsOff s = false) ∧
    (mayEndRing s n k i = false) ∧
    (mayForward s n k i = false)) := by
  refine ⟨?_, ?_, ?_, ?_, ?_⟩
  · refine ⟨0, 5, 0, hoisting { slots := [(5, slot treeEntry [seg 0])], credits := [(4, 1)] }, 4, ?_⟩; dsimp only <;> decide +kernel
  · refine ⟨0, 5, 0, hoisting { slots := [(5, slot treeEntry [seg 0])] }, 4, ?_⟩; dsimp only <;> decide +kernel
  · refine ⟨0, 5, 0, hoisting { slots := [(5, slot rootEntry [seg 0])] }, by decide +kernel, by decide +kernel, by decide +kernel, by decide +kernel, lands_low _ _ _ (by decide +kernel) (by decide +kernel) (no_regions _ (by decide +kernel)) (by decide +kernel) (by decide +kernel) (by decide +kernel)⟩
  · refine ⟨0, 5, 0, hoisting { slots := [(5, slot { nodeEntry with children := 32 } [seg 0])] }, ⟨[], none, 0, []⟩, ?_⟩; dsimp only <;> decide +kernel
  · refine ⟨0, 5, 0, hoisting { slots := [(5, slot treeEntry [])] }, ?_⟩; decide +kernel

/-- States that meet the premises of HoistControl. -/
theorem test_meets_HoistControl :
  (∃ s : State, ∃ port : Nat, (carries (portOf s port) = true) ∧
    (turnedAway s port true = true)) ∧
  (∃ s : State, ∃ port : Nat, (carries (portOf s port) = true) ∧
    (turnedAway s port true = false) ∧
    (tramsOff s = true)) ∧
  (∃ n : Nat, ∃ s : State, ∃ port : Nat, let h := hoistOf s n
    (carries (portOf s port) = true) ∧
    (turnedAway s port true = false) ∧
    (tramsOff s = false) ∧
    (h.waiting.find? (fun w => decide (w.1 = port)) = none)) ∧
  (∃ n : Nat, ∃ s : State, ∃ port : Nat, ∃ w, let h := hoistOf s n
    (carries (portOf s port) = true) ∧
    (turnedAway s port true = false) ∧
    (tramsOff s = false) ∧
    (h.waiting.find? (fun w => decide (w.1 = port)) = some w) ∧
    (tget h.credits 0 port = 0) ∧
    (carriesType (portOf s port) 0x10 = true)) ∧
  (∃ n : Nat, ∃ s : State, ∃ port : Nat, ∃ id, ∃ idx, ∃ w, let h := hoistOf s n
    (carries (portOf s port) = true) ∧
    (turnedAway s port true = false) ∧
    (h.unacked.find? (fun w => decide (w.1 = port ∧ w.2.id = id ∧ w.2.idx = idx)) = some w)) ∧
  (∃ n : Nat, ∃ s : State, ∃ k, ∃ i, ∃ r, let h := hoistOf s n
    let x := slotOf h k
    let v := tget x.slices {} i
    (x.loaded = true) ∧
    (x.entry.timed = true) ∧
    (x.round = s.rnd.round) ∧
    (i < sliceCount h x.entry) ∧
    (v.nodeCut = false) ∧
    (nodeStage x.entry i = some r)) ∧
  (∃ n : Nat, ∃ s : State, ∃ k, ∃ i, let h := hoistOf s n
    let x := slotOf h k
    let v := tget x.slices {} i
    (x.loaded = true) ∧
    (x.entry.timed = true) ∧
    (x.round = s.rnd.round) ∧
    (i < sliceCount h x.entry) ∧
    ((v.nodeCut = true ∨ nodeStage x.entry i = none))) ∧
  (∃ n : Nat, ∃ s : State, (levelHeld s n = true)) ∧
  (∃ n : Nat, ∃ s : State, let h := hoistOf s n
    (n < 8) ∧
    (levelHeld s n = false) ∧
    ((slotsLoaded h ≠ 0 ∨ windowsUsed h ≠ 0))) ∧
  (∃ n : Nat, ∃ s : State, ∃ v : Word32, let h := hoistOf s n
    (n < 8) ∧
    (levelHeld s n = false) ∧
    (slotsLoaded h = 0) ∧
    (windowsUsed h = 0) ∧
    (bits v.toNat 0 3 < 5)) ∧
  (∃ n : Nat, ∃ s : State, ∃ v : Word32, let h := hoistOf s n
    (n < 8) ∧
    (levelHeld s n = false) ∧
    (slotsLoaded h = 0) ∧
    (windowsUsed h = 0) ∧
    (5 ≤ bits v.toNat 0 3)) := by
  refine ⟨?_, ?_, ?_, ?_, ?_, ?_, ?_, ?_, ?_, ?_, ?_⟩
  · refine ⟨onPort vigilLane {}, 4, ?_⟩; decide +kernel
  · refine ⟨{ hoisting {} with quench := true }, 4, ?_⟩; decide +kernel
  · refine ⟨0, hoisting {}, 4, ?_⟩; dsimp only <;> decide +kernel
  · refine ⟨0, hoisting { slots := [(5, slot treeEntry [])], waiting := [(4, partialMsg)] }, 4, (4, partialMsg), ?_⟩; dsimp only <;> decide +kernel
  · refine ⟨0, hoisting { slots := [(5, slot treeEntry [])], unacked := [(4, partialMsg)] }, 4, 77, 0, (4, partialMsg), ?_⟩; dsimp only <;> decide +kernel
  · refine ⟨0, hoisting { slots := [(5, slot { nodeEntry with timed := true } [])] }, 5, 0, ⟨[], none, 0, []⟩, ?_⟩; dsimp only <;> decide +kernel
  · refine ⟨0, hoisting { slots := [(5, slot { treeEntry with timed := true } [])] }, 5, 0, ?_⟩; dsimp only <;> decide +kernel
  · refine ⟨0, { hoisting {} with quench := true }, ?_⟩; decide +kernel
  · refine ⟨0, hoisting { slots := [(5, slot treeEntry [])] }, ?_⟩; dsimp only <;> decide +kernel
  · refine ⟨0, hoisting {}, 4, ?_⟩; dsimp only <;> decide +kernel
  · refine ⟨0, hoisting {}, 5, ?_⟩; dsimp only <;> decide +kernel

/-- States that meet the premises of CreditsAreGranted. -/
theorem test_meets_CreditsAreGranted :
  (∃ n : Nat, ∃ s : State, (keysAbove none (hoistOf s n).granted = true) ∧
    ((∃ p, p < 12 ∧ takesType (portOf s p) 0x10 = true)) ∧
    (s.fabId ≠ 0xFFF)) ∧
  (∃ s : State, (s.fabId = 0xFFF)) ∧
  (∃ n : Nat, ∃ k, (k ≠ n)) := by
  refine ⟨?_, ?_, ?_⟩
  · refine ⟨0, hoisting { granted := [(3, 2), (4, 5)] }, ?_⟩; decide +kernel
  · refine ⟨{ hoisting { granted := [(3, 2), (4, 5)] } with fabId := 0xFFF }, ?_⟩; decide +kernel
  · refine ⟨0, 1, ?_⟩; decide +kernel

/-- States that meet the premises of MarksFire. -/
theorem test_meets_MarksFire :
  (∃ n : Nat, ∃ k : Nat, ∃ s : State, let m := tget (levelOf s n).marks {} k
    ((m.armed = false ∨ s.rnd.round < m.round))) ∧
  (∃ n : Nat, ∃ k : Nat, ∃ s : State, let m := tget (levelOf s n).marks {} k
    (m.armed = true) ∧
    (m.round ≤ s.rnd.round) ∧
    (m.action = 1)) ∧
  (∃ n : Nat, ∃ k : Nat, ∃ s : State, let m := tget (levelOf s n).marks {} k
    (m.armed = true) ∧
    (m.round ≤ s.rnd.round) ∧
    (m.action = 2)) ∧
  (∃ n : Nat, ∃ k : Nat, ∃ s : State, let m := tget (levelOf s n).marks {} k
    let u := advance s (max (m.armedAt + 1) (if m.round = s.rnd.round then phaseTime s m.phase else 0))
    (m.armed = true) ∧
    (m.round ≤ s.rnd.round) ∧
    (m.action = 3) ∧
    (keysAbove none (hoistOf u n).slots = true)) := by
  refine ⟨?_, ?_, ?_, ?_⟩
  · refine ⟨7, 63, marked { mk 1 255 with round := 8 }, ?_⟩; dsimp only <;> decide +kernel
  · refine ⟨7, 63, marked (mk 1 255), ?_⟩; dsimp only <;> decide +kernel
  · refine ⟨7, 63, marked (mk 2 1023), ?_⟩; dsimp only <;> decide +kernel
  · refine ⟨7, 63, marked (mk 3 0) { slots := [(5, timedSlot)] }, ?_⟩; dsimp only <;> decide +kernel

/-- States that meet the premises of ReleaseMarkFires. -/
theorem test_meets_ReleaseMarkFires :
  (∃ s : State, (s.rnd.released = false) ∧
    (aonOn s = true)) ∧
  (∃ s : State, ((s.rnd.released = true ∨ aonOn s = false))) := by
  refine ⟨?_, ?_⟩
  · refine ⟨rounds { round := 7, relNs := 5000 }, ?_⟩; decide +kernel
  · refine ⟨rounds { round := 7, relNs := 5000, released := true, releasedTo := some 7 }, ?_⟩; decide +kernel

/-- States that meet the premises of CommitMarkDecides. -/
theorem test_meets_CommitMarkDecides :
  (∃ s : State, (s.rnd.decided = false) ∧
    (s.flt.safeHalt = false) ∧
    (aonOn s = true)) ∧
  (∃ s : State, ((s.rnd.decided = true ∨ s.flt.safeHalt = true ∨ aonOn s = false))) := by
  refine ⟨?_, ?_⟩
  · refine ⟨rounds { round := 7, fullRounds := [7] }, ?_⟩; decide +kernel
  · refine ⟨rounds { round := 7, decided := true }, ?_⟩; decide +kernel

/-- States that meet the premises of DropCurrentDrops. -/
theorem test_meets_DropCurrentDrops :
  (∃ s : State, (s.rnd.decided = false) ∧
    (aonOn s = true)) ∧
  (∃ s : State, ((s.rnd.decided = true ∨ aonOn s = false))) ∧
  (∃ s : State, (s.rnd.decided = false) ∧
    (s.flt.safeHalt = false) ∧
    (aonOn s = true)) := by
  refine ⟨?_, ?_, ?_⟩
  · refine ⟨rounds { round := 7 }, ?_⟩; decide +kernel
  · refine ⟨{ rounds {} with boot := {} }, ?_⟩; decide +kernel
  · refine ⟨rounds { round := 7 }, ?_⟩; decide +kernel

/-- States that meet the premises of CommitNoticesReach. -/
theorem test_meets_CommitNoticesReach :
  (∃ b : Block, ∃ s : State, (nextNotice s b = none)) ∧
  (∃ b : Block, ∃ s : State, ∃ v, (nextNotice s b = some v) ∧
    (v.commit = false)) ∧
  (∃ b : Block, ∃ s : State, ∃ v, (nextNotice s b = some v) ∧
    (v.commit = true) ∧
    (isBlock b = true)) ∧
  (∃ b : Block, ∃ s : State, ∃ v, ∃ k, (nextNotice s b = some v) ∧
    (v.commit = true) ∧
    (isBlock b = true) ∧
    (b = .stack k)) ∧
  (∃ b : Block, ∃ s : State, ∃ v, ∃ st, (nextNotice s b = some v) ∧
    (v.commit = true) ∧
    (isBlock b = true) ∧
    (let n := v.round
    let u := endCycle s
    (b = .stope st) ∧
    (tabWf ({} : Tally) (stopeOf u st).tallies = true) ∧
    (victims u n = []))) ∧
  (∃ b : Block, ∃ s : State, ∃ v, ∃ m, (nextNotice s b = some v) ∧
    (v.commit = true) ∧
    (isBlock b = true) ∧
    (let n := v.round
    let u := endCycle s
    (b = .level m) ∧
    (tabWf ({} : Tally) (levelOf u m).tallies = true) ∧
    (keysAbove none (hoistOf u m).slots = true) ∧
    (victims u n = []))) ∧
  (∃ b : Block, ∃ s : State, ∃ v, ∃ h, (nextNotice s b = some v) ∧
    (v.commit = true) ∧
    (isBlock b = true) ∧
    (let n := v.round
    let u := endCycle s
    (b = .head h) ∧
    (tabWf ({} : Tally) u.devTallies = true) ∧
    (victims u n = []))) := by
  refine ⟨?_, ?_, ?_, ?_, ?_, ?_, ?_⟩
  · refine ⟨.stope 159, { gobbed 4 [] with rnd := { round := 8, notices := [note true [.stope 159]] } }, ?_⟩; decide +kernel
  · refine ⟨.stack 15, { gobbed 4 [saved 0x10000] with rnd := { round := 8, notices := [note false [.stope 3], note true []] } }, note false [.stope 3], ?_⟩; decide +kernel
  · refine ⟨.stack 1, { gobbed 4 [saved 0x10000] with rnd := { round := 8, notices := [note true []] } }, note true [], ?_⟩; decide +kernel
  · refine ⟨.stack 1, { gobbed 4 [saved 0x10000] with rnd := { round := 8, notices := [note true []] } }, note true [], 1, ?_⟩; decide +kernel
  · refine ⟨.stope 0, { gobbed 4 [] with rnd := { round := 8, notices := [note true [.stack 1]] }, stopes := [(0, { tallies := [(63, { count := 5 })] }), (1, { tallies := [(3, { count := 5, base := 7 })] })] }, note true [.stack 1], 0, ?_⟩; dsimp only <;> decide +kernel
  · refine ⟨.level 7, { marked {} { slots := [(5, timedSlot)] } with rnd := { round := 8, notices := [note true []] } }, note true [], 7, ?_⟩; dsimp only <;> decide +kernel
  · refine ⟨.head 1, { gobbed 4 [] with rnd := { round := 8, notices := [note true []] }, devTallies := [(3, { count := 5 }), (1023, { count := 6 })] }, note true [], 1, ?_⟩; dsimp only <;> decide +kernel

/-- States that meet the premises of DropsAreBackfilled. -/
theorem test_meets_DropsAreBackfilled :
  (∃ k : Nat, ∃ s : State, ∃ v, (nextNotice s (.stack k) = some v) ∧
    (v.commit = false) ∧
    (k < 16)) ∧
  (∃ s : State, ∃ st, ∃ v, (nextNotice s (.stope st) = some v) ∧
    (v.commit = false) ∧
    (st < 160) ∧
    (isReserved s st = false)) ∧
  (∃ s : State, ∃ v, ∃ c, let u := endCycle s
    (nextNotice s (.head 0) = some v) ∧
    (v.commit = false) ∧
    ((u.cmds.map (·.order)).Nodup) ∧
    (c ∈ victims u v.round) ∧
    (unfinished c = true)) ∧
  (∃ s : State, ∃ b, (nextNotice s b = none)) ∧
  (∃ k : Nat, ∃ s : State, let x := stackOf s k
    let mine := x.saved.filter (fun v => x.drops.contains v.round)
    (k < 16) ∧
    (x.drops ≠ []) ∧
    (tramsOff s = false) ∧
    (s.snap.op ≠ 2) ∧
    (x.drops.any (writesLeft s) = false) ∧
    (x.gobBase + gobSpan x.gobCap ≤ dataEnd s k) ∧
    ((∀ v ∈ mine, v.slot < x.gobCap ∧ v.offset % 4096 = 0 ∧ v.offset + 4096 ≤ dataEnd s k ∧
     (v.offset + 4096 ≤ x.gobBase ∨ x.gobBase + gobSpan x.gobCap ≤ v.offset)))) ∧
  (∃ s : State, let allDone := ∀ j, j < 16 → (stackOf s j).drops = [] ∧ ∀ v ∈ s.rnd.notices, v.commit = true ∨ v.reached.contains (.stack j) = true
    (s.rnd.backfill = true) ∧
    (allDone)) ∧
  (∃ s : State, let allDone := ∀ j, j < 16 → (stackOf s j).drops = [] ∧ ∀ v ∈ s.rnd.notices, v.commit = true ∨ v.reached.contains (.stack j) = true
    ((s.rnd.backfill = false ∨ ¬ allDone))) := by
  refine ⟨?_, ?_, ?_, ?_, ?_, ?_, ?_⟩
  · refine ⟨15, { gobbed 4 [saved 0x10000] with rnd := { round := 8, notices := [note false []] } }, note false [], ?_⟩; decide +kernel
  · refine ⟨{ gobbed 4 [] with rnd := { round := 8, notices := [note false []] }, cmds := [ran7], stopes := [(0, { agents := [(3, { state := .running, tag := 9, epoch := 4 })] })] }, 0, note false [], ?_⟩; decide +kernel
  · refine ⟨{ gobbed 4 [] with rnd := { round := 8, notices := [note false []] }, cmds := [ran7], stopes := [(0, { agents := [(3, { state := .running, tag := 9, epoch := 4 })] })] }, note false [], ran7, ?_⟩; dsimp only <;> decide +kernel
  · refine ⟨{ withMem (gobbed 4 [saved 0x10000]) (hbmAddr 1 0x100000) [1, 2, 3] with rnd := { round := 8 }, stackTab := [(1, { gobBase := 0x100000, gobCap := 4, saved := [saved 0x10000], drops := [6] })] }, .head 0, ?_⟩; decide +kernel
  · refine ⟨1, { withMem (gobbed 4 [saved 0x10000]) (hbmAddr 1 0x100000) [1, 2, 3] with rnd := { round := 8 }, stackTab := [(1, { gobBase := 0x100000, gobCap := 4, saved := [saved 0x10000], drops := [6] })] }, ?_⟩; dsimp only <;> decide +kernel
  · refine ⟨rounds { round := 8, notices := [note false ((List.range 16).map Block.stack)], backfill := true, dueBase := [(0, 1)] }, ?_⟩; dsimp only <;> decide +kernel
  · refine ⟨{ gobbed 4 [saved 0x10000] with rnd := { round := 8, notices := [note false []] } }, ?_⟩; dsimp only <;> decide +kernel

/-- States that meet the premises of RoundsStart. -/
theorem test_meets_RoundsStart :
  (∃ s : State, (aonOn s = false)) ∧
  (∃ s : State, (aonOn s = true)) := by
  refine ⟨?_, ?_⟩
  · refine ⟨{ rounds {} with boot := {} }, ?_⟩; decide +kernel
  · refine ⟨rounds { round := 0xFFFFFFFFFFFE, released := true, decided := true }, ?_⟩; decide +kernel

/-- States that meet the premises of RegionAndGobWrites. -/
theorem test_meets_RegionAndGobWrites :
  (∃ s : State, (headsUp s = false)) ∧
  (∃ r : Nat, ∃ s : State, (headsUp s = true) ∧
    (r < 16)) ∧
  (∃ k : Nat, ∃ v : Word64, ∃ s : State, (headsUp s = true) ∧
    (k < 16) ∧
    (gobOk s k (v.toNat % 2 ^ 36) (stackOf s k).gobCapNew = true)) ∧
  (∃ k : Nat, ∃ v : Word64, ∃ s : State, (headsUp s = true) ∧
    (k < 16) ∧
    (gobOk s k (v.toNat % 2 ^ 36) (stackOf s k).gobCapNew = false)) ∧
  (∃ k : Nat, ∃ v : Word64, ∃ s : State, (headsUp s = true) ∧
    (k < 16) ∧
    (gobOk s k (stackOf s k).gobBaseNew (v.toNat % 2 ^ 21) = true)) ∧
  (∃ k : Nat, ∃ v : Word64, ∃ s : State, (headsUp s = true) ∧
    (k < 16) ∧
    (gobOk s k (stackOf s k).gobBaseNew (v.toNat % 2 ^ 21) = false)) := by
  refine ⟨?_, ?_, ?_, ?_, ?_, ?_⟩
  · refine ⟨{ rounds {} with flt := {} }, ?_⟩; decide +kernel
  · refine ⟨15, rounds {}, ?_⟩; decide +kernel
  · refine ⟨15, 0x8000000000000000, rounds {}, ?_⟩; decide +kernel
  · refine ⟨15, 0x1, rounds {}, ?_⟩; decide +kernel
  · refine ⟨15, 0x8000000000000000, rounds {}, ?_⟩; decide +kernel
  · refine ⟨15, 0xFFFFFFFFFFFFFFFF, rounds {}, ?_⟩; decide +kernel

/-- States that meet the premises of StackWritesSaveGranules. -/
theorem test_meets_StackWritesSaveGranules :
  (∃ who : Writer, ∃ k : Nat, ∃ o : Nat, ∃ s : State, ∃ st, let pa := hbmAddr k o
    (passesGob s who = true) ∧
    (k < 16) ∧
    (o < dataEnd s k) ∧
    (s.snap.op ≠ 2) ∧
    (headsUp s = true) ∧
    (gobIn s pa 1 = true) ∧
    (who = .tram st)) ∧
  (∃ who : Writer, ∃ k : Nat, ∃ o : Nat, ∃ s : State, let pa := hbmAddr k o
    (passesGob s who = true) ∧
    (k < 16) ∧
    (o < dataEnd s k) ∧
    (s.snap.op ≠ 2) ∧
    (headsUp s = true) ∧
    (gobIn s pa 1 = true) ∧
    ((who = .hoist ∨ who = .sieve))) ∧
  (∃ who : Writer, ∃ rnd : Nat, ∃ k : Nat, ∃ o : Nat, ∃ s : State, let pa := hbmAddr k o
    let x := stackOf s k
    let g := o / 4096 * 4096
    let due := commitGranule s k g && !afterCommit x rnd && !x.saved.any (fun v => decide (v.offset = g ∧ v.round = rnd))
    (passesGob s who = true) ∧
    (k < 16) ∧
    (o < dataEnd s k) ∧
    (s.snap.op ≠ 2) ∧
    (headsUp s = true) ∧
    (gobIn s pa 1 = false) ∧
    (due = false)) ∧
  (∃ who : Writer, ∃ rnd : Nat, ∃ k : Nat, ∃ o : Nat, ∃ s : State, let pa := hbmAddr k o
    let x := stackOf s k
    let g := o / 4096 * 4096
    let due := commitGranule s k g && !afterCommit x rnd && !x.saved.any (fun v => decide (v.offset = g ∧ v.round = rnd))
    (passesGob s who = true) ∧
    (k < 16) ∧
    (o < dataEnd s k) ∧
    (s.snap.op ≠ 2) ∧
    (headsUp s = true) ∧
    (due = true) ∧
    ((∀ j, j < 4096 → inGob s k (g + j) = false)) ∧
    (gobIn s pa 1 = false) ∧
    (x.saved.length < x.gobCap)) ∧
  (∃ who : Writer, ∃ rnd : Nat, ∃ k : Nat, ∃ o : Nat, ∃ s : State, let pa := hbmAddr k o
    let x := stackOf s k
    let g := o / 4096 * 4096
    let due := commitGranule s k g && !afterCommit x rnd && !x.saved.any (fun v => decide (v.offset = g ∧ v.round = rnd))
    (passesGob s who = true) ∧
    (k < 16) ∧
    (o < dataEnd s k) ∧
    (s.snap.op ≠ 2) ∧
    (headsUp s = true) ∧
    (due = true) ∧
    (gobIn s pa 1 = false) ∧
    (x.gobCap ≤ x.saved.length)) := by
  refine ⟨?_, ?_, ?_, ?_, ?_⟩
  · refine ⟨.tram 0, 1, 0x100000, gobbed 1 [saved 0x10000], 0, ?_⟩; dsimp only <;> decide +kernel
  · refine ⟨.hoist, 1, 0x100000, gobbed 1 [saved 0x10000], ?_⟩; dsimp only <;> decide +kernel
  · refine ⟨.sieve, 7, 15, 0, gobbed 1 [saved 0x10000], ?_⟩; dsimp only <;> decide +kernel
  · refine ⟨.tram 0, 7, 1, 0x10FFF, withMem (gobbed 4 [saved 0x10000]) (hbmAddr 1 0x10000) [1, 2, 3], by decide +kernel, by decide +kernel, by decide +kernel, by decide +kernel, by decide +kernel, by decide +kernel, below_gob _ 1 0x10000 (by decide +kernel), by decide +kernel, by decide +kernel⟩
  · refine ⟨.tram 0, 7, 1, 0x10FFF, gobbed 1 [saved 0x10000], ?_⟩; dsimp only <;> decide +kernel

/-- States that meet the premises of CadenceIsKept. -/
theorem test_meets_CadenceIsKept :
  (∃ p : Nat, ∃ s : State, (cadencePort s ≠ some p)) ∧
  (∃ p : Nat, ∃ s : State, let r := s.rnd
    (cadencePort s = some p) ∧
    (carries (portOf s p) = true) ∧
    (r.source ≠ 0)) ∧
  (∃ p : Nat, ∃ b : Beacon, ∃ s : State, let r := s.rnd
    (cadencePort s = some p) ∧
    (carries (portOf s p) = true) ∧
    (r.source = 0) ∧
    (r.acceptAny = false) ∧
    (beaconRound s b < (r.round : Int))) ∧
  (∃ p : Nat, ∃ b : Beacon, ∃ s : State, let r := s.rnd
    (cadencePort s = some p) ∧
    (carries (portOf s p) = true) ∧
    (r.source = 0) ∧
    (r.acceptAny = false) ∧
    (beaconRound s b = (r.round : Int)) ∧
    (b.lenUs = r.lenUs)) ∧
  (∃ p : Nat, ∃ b : Beacon, ∃ s : State, let r := s.rnd
    (cadencePort s = some p) ∧
    (carries (portOf s p) = true) ∧
    (r.source = 0) ∧
    (r.acceptAny = false) ∧
    ((r.round : Int) < beaconRound s b) ∧
    (beaconRound s b < 2 ^ 48)) ∧
  (∃ s : State, let r := s.rnd
    ((r.source = 2 ∨ r.seen = some r.round ∨ r.lastMiss = some r.round ∨ aonOn s = false))) ∧
  (∃ s : State, let r := s.rnd
    let missed := { r with missed := min (r.missed + 1) 3, misses := satAdd 8 r.misses 1, lastMiss := some r.round }
    (aonOn s = true) ∧
    (r.source ≠ 2) ∧
    (r.seen ≠ some r.round) ∧
    (r.lastMiss ≠ some r.round) ∧
    ((r.missed < 2 ∨ r.freeRun = true))) ∧
  (∃ s : State, let r := s.rnd
    let missed := { r with missed := min (r.missed + 1) 3, misses := satAdd 8 r.misses 1, lastMiss := some r.round }
    (aonOn s = true) ∧
    (r.source ≠ 2) ∧
    (r.seen ≠ some r.round) ∧
    (r.lastMiss ≠ some r.round) ∧
    (2 ≤ r.missed) ∧
    (r.freeRun = false)) ∧
  (∃ s : State, let r := s.rnd
    let soon : Bool := match r.lastEdge with | some t => decide (s.now - t ≤ 1000) | none => false
    ((r.source ≠ 1 ∨ soon = true ∨ aonOn s = false))) ∧
  (∃ s : State, let r := s.rnd
    let soon : Bool := match r.lastEdge with | some t => decide (s.now - t ≤ 1000) | none => false
    (r.source = 1) ∧
    (soon = false) ∧
    (aonOn s = true) ∧
    (phaseNs s ≤ 10000)) ∧
  (∃ s : State, let r := s.rnd
    let soon : Bool := match r.lastEdge with | some t => decide (s.now - t ≤ 1000) | none => false
    let left : Int := (roundNs s : Int) - (phaseNs s : Int)
    (r.source = 1) ∧
    (soon = false) ∧
    (aonOn s = true) ∧
    (10000 < phaseNs s) ∧
    (roundNs s ≤ phaseNs s + 10000) ∧
    (left.natAbs ≤ 1000)) ∧
  (∃ s : State, let r := s.rnd
    let soon : Bool := match r.lastEdge with | some t => decide (s.now - t ≤ 1000) | none => false
    let left : Int := (roundNs s : Int) - (phaseNs s : Int)
    (r.source = 1) ∧
    (soon = false) ∧
    (aonOn s = true) ∧
    (10000 < phaseNs s) ∧
    ((phaseNs s + 10000 < roundNs s ∨ 1000 < left.natAbs))) := by
  refine ⟨?_, ?_, ?_, ?_, ?_, ?_, ?_, ?_, ?_, ?_, ?_, ?_⟩
  · refine ⟨7, cadence { round := 7, source := 2 }, ?_⟩; decide +kernel
  · refine ⟨2, cadence { round := 7, source := 1 }, ?_⟩; dsimp only <;> decide +kernel
  · refine ⟨2, { wire := 6, lenUs := 1000, elapsed := 500 }, cadence { round := 7 }, ?_⟩; dsimp only <;> decide +kernel
  · refine ⟨2, { wire := 7, lenUs := 1000, elapsed := 500 }, cadence { round := 7 }, ?_⟩; dsimp only <;> decide +kernel
  · refine ⟨2, { wire := 9, lenUs := 900, elapsed := 500 }, cadence { round := 7 }, ?_⟩; dsimp only <;> decide +kernel
  · refine ⟨cadence { round := 7, source := 2 }, ?_⟩; dsimp only <;> decide +kernel
  · refine ⟨cadence { round := 7, source := 1 }, ?_⟩; dsimp only <;> decide +kernel
  · refine ⟨cadence { round := 7, missed := 2 }, ?_⟩; dsimp only <;> decide +kernel
  · refine ⟨cadence { round := 7 }, ?_⟩; dsimp only <;> decide +kernel
  · refine ⟨cadence { round := 7, source := 1 }, ?_⟩; dsimp only <;> decide +kernel
  · refine ⟨{ cadence { round := 7, source := 1, origin := 10000000 } with now := 10999100 }, ?_⟩; dsimp only <;> decide +kernel
  · refine ⟨{ cadence { round := 7, source := 1, origin := 10000000 } with now := 10500000 }, ?_⟩; dsimp only <;> decide +kernel

/-- States that meet the premises of PresenceAndAbsentGoOn. -/
theorem test_meets_PresenceAndAbsentGoOn :
  (∃ p : Nat, ∃ s : State, ∃ q, ((cadenceOuts s).contains p = true) ∧
    (cadencePort s = some q) ∧
    (carries (portOf s q) = true)) ∧
  (∃ p : Nat, ∃ s : State, ((cadenceOuts s).contains p = false)) ∧
  (∃ p : Nat, ∃ s : State, (carries (portOf s p) = false)) ∧
  (∃ p : Nat, ∃ s : State, (carries (portOf s p) = true)) := by
  refine ⟨?_, ?_, ?_, ?_⟩
  · refine ⟨7, cadence { round := 7 }, 2, ?_⟩; decide +kernel
  · refine ⟨4, cadence { round := 7 }, ?_⟩; decide +kernel
  · refine ⟨3, cadence { round := 7 }, ?_⟩; decide +kernel
  · refine ⟨7, cadence { round := 7 }, ?_⟩; decide +kernel

/-- States that meet the premises of LedgerTicks. -/
theorem test_meets_LedgerTicks :
  (∃ s : State, (aonOn s = false)) ∧
  (∃ s : State, (aonOn s = true)) := by
  refine ⟨?_, ?_⟩
  · refine ⟨{ rounds {} with boot := {} }, ?_⟩; decide +kernel
  · refine ⟨{ rounds {} with nrg := { tickAt := 1000 } }, ?_⟩; decide +kernel

/-- States that meet the premises of CommandsAreAdmitted. -/
theorem test_meets_CommandsAreAdmitted :
  (∃ tag : Nat, ∃ c : Cmd, ∃ s : State, (cmdIn s tag (fun c => decide (c.state = .queued)) = some c) ∧
    ((c.heldEnergy = true ∨ isCandidate s c = false))) ∧
  (∃ tag : Nat, ∃ c : Cmd, ∃ s : State, let gone := decide (c.round = s.rnd.round) && !c.past && s.rnd.decided
    (cmdIn s tag (fun c => decide (c.state = .queued)) = some c) ∧
    (c.heldEnergy = false) ∧
    (isCandidate s c = true) ∧
    (gone = true)) ∧
  (∃ tag : Nat, ∃ c : Cmd, ∃ s : State, let gone := decide (c.round = s.rnd.round) && !c.past && s.rnd.decided
    (cmdIn s tag (fun c => decide (c.state = .queued)) = some c) ∧
    (c.heldEnergy = false) ∧
    (isCandidate s c = true) ∧
    (gone = false) ∧
    (isHeldBack s c = true)) ∧
  (∃ tag : Nat, ∃ ecc : Ecc, ∃ c : Cmd, ∃ s : State, let gone := decide (c.round = s.rnd.round) && !c.past && s.rnd.decided
    (cmdIn s tag (fun c => decide (c.state = .queued)) = some c) ∧
    (c.heldEnergy = false) ∧
    (isCandidate s c = true) ∧
    (gone = false) ∧
    (isHeldBack s c = false) ∧
    (admitLost s c ecc = true)) ∧
  (∃ tag : Nat, ∃ ecc : Ecc, ∃ c : Cmd, ∃ s : State, ∃ code, let u := admitRead s c ecc
    let gone := decide (c.round = s.rnd.round) && !c.past && s.rnd.decided
    (cmdIn s tag (fun c => decide (c.state = .queued)) = some c) ∧
    (c.heldEnergy = false) ∧
    (isCandidate s c = true) ∧
    (gone = false) ∧
    (isHeldBack s c = false) ∧
    (admitLost s c ecc = false) ∧
    (refusalOf u c = some code)) ∧
  (∃ tag : Nat, ∃ ecc : Ecc, ∃ c : Cmd, ∃ s : State, ∃ a, let u := admitRead s c ecc
    let gone := decide (c.round = s.rnd.round) && !c.past && s.rnd.decided
    (cmdIn s tag (fun c => decide (c.state = .queued)) = some c) ∧
    (c.heldEnergy = false) ∧
    (isCandidate s c = true) ∧
    (gone = false) ∧
    (isHeldBack s c = false) ∧
    (admitLost s c ecc = false) ∧
    (refusalOf u c = none) ∧
    (attachOf u c.desc = some a) ∧
    ((c.desc.fill = true ∨ (∀ f ∈ s.cmds, f.desc.fill = true → f.state = .running → targetsMeet c f = false))) ∧
    (a.rn = 0)) ∧
  (∃ tag : Nat, ∃ ecc : Ecc, ∃ c : Cmd, ∃ s : State, ∃ a, let u := admitRead s c ecc
    let gone := decide (c.round = s.rnd.round) && !c.past && s.rnd.decided
    (cmdIn s tag (fun c => decide (c.state = .queued)) = some c) ∧
    (c.heldEnergy = false) ∧
    (isCandidate s c = true) ∧
    (gone = false) ∧
    (isHeldBack s c = false) ∧
    (admitLost s c ecc = false) ∧
    (refusalOf u c = none) ∧
    (attachOf u c.desc = some a) ∧
    ((∀ e ∈ reductionsOf u a, (hoistOf u e.home).early = []))) := by
  refine ⟨?_, ?_, ?_, ?_, ?_, ?_, ?_⟩
  · refine ⟨5, { cmdAs .queued runDesc with heldEnergy := true }, ready [{ cmdAs .queued runDesc with heldEnergy := true }], ?_⟩; decide +kernel
  · refine ⟨5, cmdAs .queued runDesc, { ready [cmdAs .queued runDesc] with rnd := { round := 7, released := true, decided := true } }, ?_⟩; dsimp only <;> decide +kernel
  · refine ⟨4, fillCmd .queued, { ready [fillCmd .queued] with nrg := { cfg := 1, budget := 5, spent := 9, short := true } }, ?_⟩; dsimp only <;> decide +kernel
  · refine ⟨5, .bad, cmdAs .queued { runDesc with table := 0x1000 }, attached, ?_⟩; dsimp only <;> decide +kernel
  · refine ⟨5, .clean, cmdAs .queued { opcode := 0 }, ready [cmdAs .queued { opcode := 0 }], 0x0501, ?_⟩; dsimp only <;> decide +kernel
  · refine ⟨5, .clean, cmdAs .queued runDesc, ready [cmdAs .queued runDesc], {}, ?_⟩; dsimp only <;> decide +kernel
  · refine ⟨5, .clean, cmdAs .queued runDesc, ready [cmdAs .queued runDesc], {}, ?_⟩; dsimp only <;> decide +kernel

/-- States that meet the premises of FillCommandsYield. -/
theorem test_meets_FillCommandsYield :
  (∃ tag : Nat, ∃ ecc : Ecc, ∃ c : Cmd, ∃ f : Cmd, ∃ s : State, (cmdIn s tag (fun c => decide (c.state = .queued)) = some c) ∧
    (c.heldEnergy = false) ∧
    (isCandidate s c = true) ∧
    (¬(c.round = s.rnd.round ∧ c.past = false ∧ s.rnd.decided = true)) ∧
    (admitLost s c ecc = false) ∧
    (refusalOf (admitRead s c ecc) c = none) ∧
    (c.desc.fill = false) ∧
    (f ∈ s.cmds) ∧
    (f.order ≠ c.order) ∧
    (f.desc.fill = true) ∧
    (f.state = .running) ∧
    (targetsMeet c f = true) ∧
    ((∀ g ∈ s.cmds, g.order = f.order → g = f))) := by
  refine ⟨5, .clean, cmdAs .queued runDesc, fillCmd .running, ready [fillCmd .running, cmdAs .queued runDesc], ?_⟩; decide +kernel

/-- States that meet the premises of CommandsStart. -/
theorem test_meets_CommandsStart :
  (∃ tag : Nat, ∃ c : Cmd, ∃ s : State, (cmdIn s tag (fun c => decide (c.state = .admitted ∨ c.state = .preempted)) = some c) ∧
    (mayStart s c = true)) := by
  refine ⟨5, cmdAs .admitted runDesc, ready [cmdAs .admitted runDesc], ?_⟩; decide +kernel

/-- States that meet the premises of StopesReportFree. -/
theorem test_meets_StopesReportFree :
  (∃ st : Nat, ∃ c : Cmd, ∃ s : State, (s.cmds.find? (fun c => decide (c.state = .preempting) && c.awaitFree.contains st) = some c)) := by
  refine ⟨0, { fillCmd .preempting with awaitFree := [0] }, ready [{ fillCmd .preempting with awaitFree := [0] }], ?_⟩; decide +kernel

/-- States that meet the premises of FillCommandsTimeOut. -/
theorem test_meets_FillCommandsTimeOut :
  (∃ tag : Nat, ∃ c : Cmd, ∃ s : State, (cmdIn s tag (fun c => decide (c.state = .preempting)) = some c)) := by
  refine ⟨4, fillCmd .preempting, ready [fillCmd .preempting], ?_⟩; decide +kernel

/-- States that meet the premises of RunStartsCrews. -/
theorem test_meets_RunStartsCrews :
  (∃ tag : Nat, ∃ c : Cmd, ∃ s : State, (cmdIn s tag (fun c => decide (c.state = .running ∧ c.desc.opcode = 1) && !c.launched) = some c)) := by
  refine ⟨5, cmdAs .running runDesc, { ready [cmdAs .running runDesc] with stopes := [(0, { agents := [(2, { state := .stopped })] })] }, ?_⟩; decide +kernel

/-- States that meet the premises of LoadProgQueuesCopies. -/
theorem test_meets_LoadProgQueuesCopies :
  (∃ tag : Nat, ∃ c : Cmd, ∃ s : State, let sts := if c.launched then c.awaitQueue else targetsOf c
    (cmdIn s tag (fun c => decide (c.state = .running ∧ c.desc.opcode = 2) && (!c.launched || decide (c.awaitQueue ≠ []))) = some c) ∧
    (Settled s sts)) := by
  refine ⟨5, cmdAs .running (loadDesc 2 true), settle (withMem (ready [cmdAs .running (loadDesc 2 true)]) 0x1000 [1, 2, 3]) 0, ?_⟩; dsimp only <;> (unfold Settled; decide +kernel)

/-- States that meet the premises of QueryInstallStartsCrews. -/
theorem test_meets_QueryInstallStartsCrews :
  (∃ tag : Nat, ∃ c : Cmd, ∃ s : State, (cmdIn s tag (fun c => decide (c.state = .running ∧ c.desc.opcode = 4)) = some c) ∧
    (c.launched = true) ∧
    (c.awaitQueue = []) ∧
    ((∀ st, st ∈ c.awaitLoad → (stopeOf s st).swapPending = false)) ∧
    (c.awaitLoad.Nodup)) ∧
  (∃ tag : Nat, ∃ c : Cmd, ∃ s : State, ∃ st, (cmdIn s tag (fun c => decide (c.state = .running ∧ c.desc.opcode = 4)) = some c) ∧
    (let u := settle s st
    (c.launched = true) ∧
    (c.awaitQueue = []) ∧
    (c.awaitLoad = [st]) ∧
    ((stopeOf u st).swapPending = true) ∧
    ((swapReady (stopeOf u st) u.now = false ∨ inactiveWrite u st = true)))) ∧
  (∃ tag : Nat, ∃ c : Cmd, ∃ s : State, (cmdIn s tag (fun c => decide (c.state = .running ∧ c.desc.opcode = 4)) = some c) ∧
    (c.launched = false) ∧
    (c.awaitLoad = []) ∧
    (Settled s (targetsOf c))) := by
  refine ⟨?_, ?_, ?_⟩
  · refine ⟨5, { cmdAs .running (loadDesc 4 true) with launched := true, awaitLoad := [19] }, { ready [{ cmdAs .running (loadDesc 4 true) with launched := true, awaitLoad := [19] }] with conf := { q := 1 } }, ?_⟩; decide +kernel
  · refine ⟨5, { cmdAs .running (loadDesc 4 true) with launched := true, awaitLoad := [0] }, { ready [{ cmdAs .running (loadDesc 4 true) with launched := true, awaitLoad := [0] }] with stopes := [(0, { swapPending := true, agents := [(2, { state := .running })] })] }, 0, ?_⟩; dsimp only <;> decide +kernel
  · refine ⟨5, cmdAs .running (loadDesc 4 true), settle (withMem (ready [cmdAs .running (loadDesc 4 true)]) 0x1000 [1, 2, 3]) 0, ?_⟩; unfold Settled; decide +kernel

/-- States that meet the premises of UncorrectableWordsEndCommands. -/
theorem test_meets_UncorrectableWordsEndCommands :
  (∃ tag : Nat, ∃ c : Cmd, ∃ s : State, (cmdIn s tag (fun c => decide (c.state = .running)) = some c) ∧
    (faultedCrew s c = none) ∧
    (c.endCode ≠ 0)) := by
  refine ⟨5, { doneCmd with endCode := 0x0302 }, ready [{ doneCmd with endCode := 0x0302 }], ?_⟩; decide +kernel

/-- States that meet the premises of SievesTakeJobs. -/
theorem test_meets_SievesTakeJobs :
  (∃ tag : Nat, ∃ c : Cmd, ∃ s : State, (cmdIn s tag (fun c => decide (c.state = .running ∧ c.desc.opcode = 3) && !c.launched) = some c) ∧
    (Alone s c) ∧
    (let n := c.desc.arg % 8
    ((tramsOff s = true ∨ s.flt.takeover.isSome = true ∨ (levelOf s n).sieve.busy = true)))) ∧
  (∃ tag : Nat, ∃ ecc : Ecc, ∃ c : Cmd, ∃ s : State, (cmdIn s tag (fun c => decide (c.state = .running ∧ c.desc.opcode = 3) && !c.launched) = some c) ∧
    (Alone s c) ∧
    (let n := c.desc.arg % 8
    let list := c.desc.table % 2 ^ 48
    let z := readEcc (putCmd s { c with launched := true }) list ecc
    (tramsOff s = false) ∧
    (s.flt.takeover = none) ∧
    ((levelOf s n).sieve.busy = false) ∧
    ((readFault z list 64 ecc).isSome = true))) ∧
  (∃ tag : Nat, ∃ ecc : Ecc, ∃ c : Cmd, ∃ s : State, (cmdIn s tag (fun c => decide (c.state = .running ∧ c.desc.opcode = 3) && !c.launched) = some c) ∧
    (Alone s c) ∧
    (let n := c.desc.arg % 8
    let list := c.desc.table % 2 ^ 48
    let bs := readBytes s list 64
    let z := readEcc (putCmd s { c with launched := true }) list ecc
    (tramsOff s = false) ∧
    (s.flt.takeover = none) ∧
    ((levelOf s n).sieve.busy = false) ∧
    (readFault z list 64 ecc = none) ∧
    (jobBad z bs = true))) ∧
  (∃ tag : Nat, ∃ ecc : Ecc, ∃ c : Cmd, ∃ s : State, (cmdIn s tag (fun c => decide (c.state = .running ∧ c.desc.opcode = 3) && !c.launched) = some c) ∧
    (Alone s c) ∧
    (let n := c.desc.arg % 8
    let list := c.desc.table % 2 ^ 48
    let bs := readBytes s list 64
    let z := readEcc (putCmd s { c with launched := true }) list ecc
    (tramsOff s = false) ∧
    (s.flt.takeover = none) ∧
    ((levelOf s n).sieve.busy = false) ∧
    (readFault z list 64 ecc = none) ∧
    (jobBad z bs = false))) := by
  refine ⟨?_, ?_, ?_, ?_⟩
  · refine ⟨5, sieveCmd false, { ready [sieveCmd false] with levels := [(0, { up := true, sieve := { busy := true, tag := 9 } })] }, ?_⟩; dsimp only <;> (unfold Alone; decide +kernel)
  · refine ⟨5, .bad, sieveCmd false, { ready [sieveCmd false] with stackTab := [(0, { poison := [128] })] }, ?_⟩; dsimp only <;> (unfold Alone; decide +kernel)
  · refine ⟨5, .clean, sieveCmd false, ready [sieveCmd false], ?_⟩; dsimp only <;> (unfold Alone; decide +kernel)
  · refine ⟨5, .clean, sieveCmd false, withMem (ready [sieveCmd false]) 0x1000 (jobBytes4 0), ?_⟩; dsimp only <;> (unfold Alone; decide +kernel)

/-- States that meet the premises of SieveRowsAdvance. -/
theorem test_meets_SieveRowsAdvance :
  (∃ n : Nat, ∃ c : Cmd, ∃ s : State, let v := (levelOf s n).sieve
    let j := jobOf v.jobRec
    let u := advance s (v.rowAt + sievePasses j.func * ((j.len + 63) / 64) + 24)
    let o := j.o + v.row * j.pitch
    let may := (rowReads j v.row).all (fun p => sieveMay u p.1 p.2) && (j.noOut || !refusedWrite u .sieve o (outBytes j))
    (n < 8) ∧
    (cmdIn s v.tag isRunning = some c) ∧
    (v.busy = true) ∧
    (tramsOff s = false) ∧
    (jobBad u v.jobRec = false) ∧
    (may = false)) ∧
  (∃ n : Nat, ∃ e : Ecc, ∃ c : Cmd, ∃ s : State, ∃ code, let v := (levelOf s n).sieve
    let j := jobOf v.jobRec
    let u := advance s (v.rowAt + sievePasses j.func * ((j.len + 63) / 64) + 24)
    let more := decide (v.row + 1 < j.rows)
    let w := if more then settleReads u (rowReads j (v.row + 1)) else u
    let o := j.o + v.row * j.pitch
    let may := (rowReads j v.row).all (fun p => sieveMay u p.1 p.2) && (j.noOut || !refusedWrite u .sieve o (outBytes j))
    (n < 8) ∧
    (cmdIn s v.tag isRunning = some c) ∧
    (v.busy = true) ∧
    (tramsOff s = false) ∧
    (jobBad u v.jobRec = false) ∧
    (may = true) ∧
    ((rowReads j v.row).findSome? (fun p => readFault w p.1 p.2 e) = some code)) ∧
  (∃ n : Nat, ∃ e : Ecc, ∃ c : Cmd, ∃ s : State, let v := (levelOf s n).sieve
    let j := jobOf v.jobRec
    let u := advance s (v.rowAt + sievePasses j.func * ((j.len + 63) / 64) + 24)
    let more := decide (v.row + 1 < j.rows)
    let w := if more then settleReads u (rowReads j (v.row + 1)) else u
    let o := j.o + v.row * j.pitch
    let may := (rowReads j v.row).all (fun p => sieveMay u p.1 p.2) && (j.noOut || !refusedWrite u .sieve o (outBytes j))
    (n < 8) ∧
    (cmdIn s v.tag isRunning = some c) ∧
    (v.busy = true) ∧
    (tramsOff s = false) ∧
    (jobBad u v.jobRec = false) ∧
    (may = true) ∧
    ((rowReads j v.row).findSome? (fun p => readFault w p.1 p.2 e) = none) ∧
    (j.noOut = true)) ∧
  (∃ n : Nat, ∃ e : Ecc, ∃ c : Cmd, ∃ s : State, let v := (levelOf s n).sieve
    let j := jobOf v.jobRec
    let u := advance s (v.rowAt + sievePasses j.func * ((j.len + 63) / 64) + 24)
    let more := decide (v.row + 1 < j.rows)
    let w := if more then settleReads u (rowReads j (v.row + 1)) else u
    let o := j.o + v.row * j.pitch
    let may := (rowReads j v.row).all (fun p => sieveMay u p.1 p.2) && (j.noOut || !refusedWrite u .sieve o (outBytes j))
    (n < 8) ∧
    (cmdIn s v.tag isRunning = some c) ∧
    (v.busy = true) ∧
    (tramsOff s = false) ∧
    (jobBad u v.jobRec = false) ∧
    (may = true) ∧
    ((rowReads j v.row).findSome? (fun p => readFault w p.1 p.2 e) = none) ∧
    (j.noOut = false) ∧
    (v.row + 1 < j.rows) ∧
    (inHbm u o (outBytes j) = true) ∧
    (s.snap.op ≠ 2) ∧
    ((∀ g ∈ granulesOf u o (outBytes j), commitGranule u g.1 (g.2 / 4096 * 4096) = false))) := by
  refine ⟨?_, ?_, ?_, ?_⟩
  · refine ⟨0, sieveCmd true, { sieving 0 with stackTab := [(0, { gobBase := 0x3000, gobCap := 4 })] }, ?_⟩; dsimp only <;> decide +kernel
  · refine ⟨0, .bad, sieveCmd true, sieving 0, 0x0302, ?_⟩; dsimp only <;> decide +kernel
  · refine ⟨0, .clean, sieveCmd true, sieving 64, ?_⟩; dsimp only <;> decide +kernel
  · refine ⟨0, .clean, sieveCmd true, sieving 0, ?_⟩; dsimp only <;> decide +kernel

/-- States that meet the premises of CommandsFinish. -/
theorem test_meets_CommandsFinish :
  (∃ tag : Nat, ∃ c : Cmd, ∃ s : State, (cmdIn s tag (fun c => decide (c.state = .running)) = some c) ∧
    (faultedCrew s c = none) ∧
    (c.endCode = 0) ∧
    (isDone s c = false)) ∧
  (∃ tag : Nat, ∃ c : Cmd, ∃ s : State, (cmdIn s tag (fun c => decide (c.state = .running)) = some c) ∧
    (faultedCrew s c = none) ∧
    (c.endCode = 0) ∧
    (isDone s c = true) ∧
    ((∀ k ∈ c.recorded, (tallyOf s k.1 k.2.1 k.2.2.1).count = k.2.2.2)) ∧
    (CanPost s c.mbx) ∧
    (c.everStarted = true)) ∧
  (∃ tag : Nat, ∃ c : Cmd, ∃ s : State, ∃ k, (cmdIn s tag (fun c => decide (c.state = .running)) = some c) ∧
    (faultedCrew s c = none) ∧
    (c.endCode = 0) ∧
    (isDone s c = true) ∧
    (c.recorded = [k]) ∧
    ((tallyOf s k.1 k.2.1 k.2.2.1).count ≠ k.2.2.2) ∧
    (c.reports.length < 7)) ∧
  (∃ tag : Nat, ∃ c : Cmd, ∃ s : State, ∃ st, ∃ cr, (cmdIn s tag (fun c => decide (c.state = .running)) = some c) ∧
    (faultedCrew s c = some (st, cr))) := by
  refine ⟨?_, ?_, ?_, ?_⟩
  · refine ⟨5, doneCmd, { ready [doneCmd] with stopes := [(0, { agents := [(2, { state := .running, tag := 5, epoch := 2 })] })] }, ?_⟩; decide +kernel
  · refine ⟨5, doneCmd, ready [doneCmd], ?_⟩; unfold CanPost; decide +kernel
  · refine ⟨5, { doneCmd with recorded := [(.device, 0, 9, 4)] }, ready [{ doneCmd with recorded := [(.device, 0, 9, 4)] }], (.device, 0, 9, 4), ?_⟩; decide +kernel
  · refine ⟨5, doneCmd, { ready [doneCmd] with stopes := [(1, { agents := [(2, { state := .faulted, tag := 5, epoch := 2, faultCode := 0x0105 })] })] }, 1, 2, ?_⟩; decide +kernel

/-- States that meet the premises of MailboxIndicesMove. -/
theorem test_meets_MailboxIndicesMove :
  (∃ m : Nat, ∃ v : Word32, ∃ s : State, (m < 8) ∧
    (mailboxesOn s = true) ∧
    (ringDist (v.toNat % 2 ^ 16) (mbxOf s m).reqHead ≤ 128)) ∧
  (∃ m : Nat, ∃ v : Word32, ∃ s : State, (m < 8) ∧
    (mailboxesOn s = true) ∧
    (128 < ringDist (v.toNat % 2 ^ 16) (mbxOf s m).reqHead)) ∧
  (∃ m : Nat, ∃ v : Word32, ∃ s : State, (m < 8) ∧
    (mailboxesOn s = true) ∧
    (ringDist (v.toNat % 2 ^ 16) (mbxOf s m).rspHead ≤ ringDist (mbxOf s m).rspTail (mbxOf s m).rspHead) ∧
    ((mbxOf s m).pend = [])) ∧
  (∃ m : Nat, ∃ v : Word32, ∃ s : State, ∃ p, (m < 8) ∧
    (mailboxesOn s = true) ∧
    (ringDist (v.toNat % 2 ^ 16) (mbxOf s m).rspHead ≤ ringDist (mbxOf s m).rspTail (mbxOf s m).rspHead) ∧
    ((mbxOf s m).pend = [p]) ∧
    ((p.note = true → (mbxOf s m).isOpen = true)) ∧
    (p.mbx = m) ∧
    (p.typ ≠ 0x40) ∧
    (p.typ ≠ 0x41) ∧
    (p.typ ≠ 0x43) ∧
    (ringDist (mbxOf s m).rspTail (v.toNat % 2 ^ 16) < 128)) ∧
  (∃ m : Nat, ∃ v : Word32, ∃ s : State, ∃ n, ∃ p, (m < 8) ∧
    (mailboxesOn s = true) ∧
    (ringDist (v.toNat % 2 ^ 16) (mbxOf s m).rspHead ≤ ringDist (mbxOf s m).rspTail (mbxOf s m).rspHead) ∧
    ((mbxOf s m).pend = [n, p]) ∧
    (n.note = true) ∧
    (p.note = false) ∧
    ((mbxOf s m).isOpen = false) ∧
    (p.mbx = m) ∧
    (p.typ ≠ 0x40) ∧
    (p.typ ≠ 0x41) ∧
    (p.typ ≠ 0x43) ∧
    (ringDist (mbxOf s m).rspTail (v.toNat % 2 ^ 16) < 128)) ∧
  (∃ m : Nat, ∃ v : Word32, ∃ s : State, (m < 8) ∧
    (mailboxesOn s = true) ∧
    (ringDist (mbxOf s m).rspTail (mbxOf s m).rspHead < ringDist (v.toNat % 2 ^ 16) (mbxOf s m).rspHead)) ∧
  (∃ m : Nat, ∃ s : State, (8 ≤ m ∨ mailboxesOn s = false)) ∧
  (∃ m : Nat, ∃ s : State, (m < 8) ∧
    ((mbxOf s m).enable = false)) ∧
  (∃ m : Nat, ∃ s : State, (8 ≤ m ∨ (mbxOf s m).enable = true)) ∧
  (∃ m : Nat, ∃ s : State, (m < 8) ∧
    (0 < (mbxOf s m).uncovered) ∧
    ((mbxOf s m).coal.toNat ≠ 0) ∧
    (let u := advance s ((mbxOf s m).uncoveredAt + 1000 * bits (mbxOf s m).coal.toNat 0 16)
    (bit u.ep.intMask.toNat m = true))) ∧
  (∃ m : Nat, ∃ s : State, (m < 8) ∧
    (0 < (mbxOf s m).uncovered) ∧
    ((mbxOf s m).coal.toNat ≠ 0) ∧
    (let u := advance s ((mbxOf s m).uncoveredAt + 1000 * bits (mbxOf s m).coal.toNat 0 16)
    let on := bit u.ep.msixCtl.toNat 15 = true ∧ bit u.ep.msixCtl.toNat 14 = false ∧ tget u.ep.msixMask true m = false
    (bit u.ep.intMask.toNat m = false) ∧
    (on))) ∧
  (∃ m : Nat, ∃ s : State, (m < 8) ∧
    (0 < (mbxOf s m).uncovered) ∧
    ((mbxOf s m).coal.toNat ≠ 0) ∧
    (let u := advance s ((mbxOf s m).uncoveredAt + 1000 * bits (mbxOf s m).coal.toNat 0 16)
    let on := bit u.ep.msixCtl.toNat 15 = true ∧ bit u.ep.msixCtl.toNat 14 = false ∧ tget u.ep.msixMask true m = false
    (bit u.ep.intMask.toNat m = false) ∧
    (¬ on))) ∧
  (∃ m : Nat, ∃ s : State, (8 ≤ m ∨ (mbxOf s m).uncovered = 0 ∨ (mbxOf s m).coal.toNat = 0)) := by
  refine ⟨?_, ?_, ?_, ?_, ?_, ?_, ?_, ?_, ?_, ?_, ?_, ?_, ?_⟩
  · refine ⟨1, 5, boxes (box 2), ?_⟩; decide +kernel
  · refine ⟨1, 200, boxes (box 2), ?_⟩; decide +kernel
  · refine ⟨1, 3, boxes { box 2 with rspTail := 5 }, ?_⟩; decide +kernel
  · refine ⟨1, 10, boxes { box 2 with rspTail := 128, pend := [{ mbx := 1, typ := 0x81 }] }, { mbx := 1, typ := 0x81 }, ?_⟩; decide +kernel
  · refine ⟨1, 10, boxes { box 2 with isOpen := false, rspTail := 128, pend := [{ mbx := 1, typ := 0x42, note := true }, { mbx := 1, typ := 0x81 }] }, { mbx := 1, typ := 0x42, note := true }, { mbx := 1, typ := 0x81 }, ?_⟩; decide +kernel
  · refine ⟨1, 5, boxes (box 2), ?_⟩; decide +kernel
  · refine ⟨8, boxes (box 2), ?_⟩; decide +kernel
  · refine ⟨1, boxes { box 2 with enable := false }, ?_⟩; decide +kernel
  · refine ⟨1, boxes (box 2), ?_⟩; decide +kernel
  · refine ⟨1, { boxes (box 2) with mbx := [(1, { box 2 with uncovered := 1, uncoveredAt := 900, coal := 0x20005 })], ep := { ready := true, intMask := 2, msixMask := [(1, false)] } }, ?_⟩; dsimp only <;> decide +kernel
  · refine ⟨1, { boxes { box 2 with uncovered := 1, uncoveredAt := 900, coal := 0x20005 } with ep := { ready := true, intMask := 0, msixCtl := 0x8000, msixMask := [(1, false)] } }, ?_⟩; dsimp only <;> decide +kernel
  · refine ⟨1, { boxes { box 2 with uncovered := 1, uncoveredAt := 900, coal := 0x20005 } with ep := { ready := true, intMask := 0, msixMask := [(1, false)] } }, ?_⟩; dsimp only <;> decide +kernel
  · refine ⟨1, boxes (box 2), ?_⟩; decide +kernel

/-- States that meet the premises of RepliesArePosted. -/
theorem test_meets_RepliesArePosted :
  (∃ m : Nat, ∃ r : Req, ∃ st : Nat, ∃ s : State, (r.reserved = none) ∧
    (served s m = true) ∧
    (sessionStatus (mbxOf s m) 0x53 2 r = some st) ∧
    (HasRoom s m)) ∧
  (∃ m : Nat, ∃ r : Req, ∃ st : Nat, ∃ s : State, (r.reserved = none) ∧
    (served s m = true) ∧
    (sessionStatus (mbxOf s m) 0x53 2 r = some st) ∧
    (s.flt.takeover = none) ∧
    (¬ HasRoom s m)) := by
  refine ⟨?_, ?_⟩
  · refine ⟨1, rq [], 4, boxes { box 2 with isOpen := false }, ?_⟩; unfold HasRoom; decide +kernel
  · refine ⟨1, rq [], 4, boxes { box 2 with isOpen := false, rspTail := 128 }, ?_⟩; unfold HasRoom; decide +kernel

/-- States that meet the premises of RequestsNeedASession. -/
theorem test_meets_RequestsNeedASession :
  (∃ row, ∃ m : Nat, ∃ s : State, (row ∈ requestRows) ∧
    (served s m = false)) ∧
  (∃ row, ∃ m : Nat, ∃ r : Req, ∃ s : State, ∃ st, (row ∈ requestRows) ∧
    (r.reserved = none) ∧
    (served s m = true) ∧
    (sessionStatus (mbxOf s m) row.typ row.minVer r = some st) ∧
    (HasRoom s m)) ∧
  (∃ row, ∃ m : Nat, ∃ r : Req, ∃ s : State, ∃ typ, (row ∈ requestRows) ∧
    (r.reserved = some typ) ∧
    (typ < 0x80) ∧
    (served s m = true) ∧
    (HasRoom s m) ∧
    ((mbxOf s m).isOpen = true) ∧
    (r.version = (mbxOf s m).version) ∧
    (r.version ≤ 3) ∧
    (r.len ≤ 192) ∧
    (((mbxOf s m).version = 3 → r.check = (crc32c (reqHeader typ r ++ payloadOf r)).toNat))) := by
  refine ⟨?_, ?_, ?_⟩
  · exact ⟨⟨.bye, 0x02, 1⟩, 1, boxes { box 2 with enable := false }, List.mem_cons_self, by decide +kernel⟩
  · refine ⟨⟨.bye, 0x02, 1⟩, 1, rq [], boxes { box 2 with isOpen := false }, 4, List.mem_cons_self, ?_⟩; unfold HasRoom; decide +kernel
  · refine ⟨⟨.cancel, 0x11, 1⟩, 1, { rq [] with reserved := some 0x33 }, boxes (box 2), 0x33, by simp [requestRows], ?_⟩; unfold HasRoom; decide +kernel

/-- States that meet the premises of SessionsOpenAndClose. -/
theorem test_meets_SessionsOpenAndClose :
  (∃ m : Nat, ∃ s : State, (served s m = false)) ∧
  (∃ m : Nat, ∃ r : Req, ∃ s : State, let lo := pay r 0 1
    let v := min (pay r 1 1) 3
    let good := r.len = 24 ∧ lo ≠ 0 ∧ lo ≤ pay r 1 1 ∧ pay r 2 6 = 0
    (r.reserved = none) ∧
    (served s m = true) ∧
    (HasRoom s m) ∧
    (good) ∧
    (lo ≤ v)) ∧
  (∃ m : Nat, ∃ r : Req, ∃ s : State, let lo := pay r 0 1
    let v := min (pay r 1 1) 3
    let good := r.len = 24 ∧ lo ≠ 0 ∧ lo ≤ pay r 1 1 ∧ pay r 2 6 = 0
    (r.reserved = none) ∧
    (served s m = true) ∧
    (HasRoom s m) ∧
    (good) ∧
    (v < lo)) ∧
  (∃ m : Nat, ∃ r : Req, ∃ s : State, let lo := pay r 0 1
    let good := r.len = 24 ∧ lo ≠ 0 ∧ lo ≤ pay r 1 1 ∧ pay r 2 6 = 0
    (r.reserved = none) ∧
    (served s m = true) ∧
    (HasRoom s m) ∧
    (¬ good)) ∧
  (∃ m : Nat, ∃ r : Req, ∃ s : State, (Stands s m 0x02 1 r) ∧
    (r.len = 0)) ∧
  (∃ m : Nat, ∃ r : Req, ∃ s : State, (Stands s m 0x02 1 r) ∧
    (r.len ≠ 0)) := by
  refine ⟨?_, ?_, ?_, ?_, ?_, ?_⟩
  · refine ⟨1, boxes { box 2 with enable := false }, ?_⟩; decide +kernel
  · refine ⟨1, rq ([1, 3] ++ List.replicate 22 0), boxes { box 2 with isOpen := false }, ?_⟩; dsimp only <;> (unfold HasRoom; decide +kernel)
  · refine ⟨1, rq ([4, 5] ++ List.replicate 22 0), boxes (box 2), ?_⟩; dsimp only <;> (unfold HasRoom; decide +kernel)
  · refine ⟨1, rq [], boxes (box 2), ?_⟩; dsimp only <;> (unfold HasRoom; decide +kernel)
  · refine ⟨1, rq [], boxes (box 2), ?_⟩; unfold Stands HasRoom; decide +kernel
  · refine ⟨1, rq ([4, 5] ++ List.replicate 22 0), boxes (box 2), ?_⟩; unfold Stands HasRoom; decide +kernel

/-- States that meet the premises of SubmitQueuesCommands. -/
theorem test_meets_SubmitQueuesCommands :
  (∃ m : Nat, ∃ r : Req, ∃ s : State, (Stands s m 0x10 1 r) ∧
    ((submitStatus s m r = 0 ∨ submitStatus s m r = 6))) ∧
  (∃ m : Nat, ∃ r : Req, ∃ s : State, (Stands s m 0x10 1 r) ∧
    (submitStatus s m r = 0)) ∧
  (∃ m : Nat, ∃ r : Req, ∃ s : State, (Stands s m 0x10 1 r) ∧
    (submitStatus s m r ≠ 0)) := by
  refine ⟨?_, ?_, ?_⟩
  · refine ⟨1, { rq (descBytes 0x10010000) with tag := 0x10010000 }, boxes (box 2), ?_⟩; unfold Stands HasRoom; decide +kernel
  · refine ⟨1, { rq (descBytes 0x10010000) with tag := 0x10010000 }, boxes (box 2), ?_⟩; unfold Stands HasRoom; decide +kernel
  · refine ⟨1, rq (descBytes 0x10010003), boxes (box 2), ?_⟩; unfold Stands HasRoom; decide +kernel

/-- States that meet the premises of CancelAndStatus. -/
theorem test_meets_CancelAndStatus :
  (∃ m : Nat, ∃ r : Req, ∃ s : State, ∃ c, let named := cmdNamed s m r (pay r 0 4)
    (named = some c)) ∧
  (∃ m : Nat, ∃ r : Req, ∃ s : State, ∃ c, let named := cmdNamed s m r (pay r 0 4)
    (named = some c) ∧
    ((mbxOf s m).version = 3)) ∧
  (∃ m : Nat, ∃ r : Req, ∃ s : State, ∃ c, let named := cmdNamed s m r (pay r 0 4)
    (named = none) ∧
    (c ∈ s.cmds) ∧
    (c.tag = pay r 0 4)) ∧
  (∃ m : Nat, ∃ r : Req, ∃ s : State, ∃ c, let named := cmdNamed s m r (pay r 0 4)
    (Stands s m 0x11 1 r) ∧
    (r.len = 4) ∧
    (named = some c) ∧
    (c.state = .queued)) ∧
  (∃ m : Nat, ∃ r : Req, ∃ s : State, ∃ c, let named := cmdNamed s m r (pay r 0 4)
    (Stands s m 0x11 1 r) ∧
    (r.len = 4) ∧
    (named = some c) ∧
    (c.state ≠ .queued)) ∧
  (∃ m : Nat, ∃ r : Req, ∃ s : State, let named := cmdNamed s m r (pay r 0 4)
    (Stands s m 0x11 1 r) ∧
    (r.len = 4) ∧
    (named = none)) ∧
  (∃ m : Nat, ∃ r : Req, ∃ s : State, (Stands s m 0x11 1 r) ∧
    (r.len ≠ 4)) ∧
  (∃ m : Nat, ∃ r : Req, ∃ s : State, (Stands s m 0x12 1 r) ∧
    (r.len = 4)) ∧
  (∃ m : Nat, ∃ r : Req, ∃ s : State, (Stands s m 0x12 1 r) ∧
    (r.len ≠ 4)) := by
  refine ⟨?_, ?_, ?_, ?_, ?_, ?_, ?_, ?_, ?_⟩
  · refine ⟨1, rq (toBytes 4 5), { boxes (box 2) with cmds := [cmdAs .queued runDesc] }, cmdAs .queued runDesc, ?_⟩; dsimp only <;> decide +kernel
  · refine ⟨1, rqE 0x11 2 (toBytes 4 5), { boxes (box 3) with cmds := [cmdAs .queued runDesc] }, cmdAs .queued runDesc, ?_⟩; dsimp only <;> decide +kernel
  · refine ⟨1, rq3 0x11 (toBytes 4 5), { boxes (box 3) with cmds := [cmdAs .queued runDesc] }, cmdAs .queued runDesc, ?_⟩; dsimp only <;> decide +kernel
  · refine ⟨1, rq (toBytes 4 5), { boxes (box 2) with cmds := [cmdAs .queued runDesc] }, cmdAs .queued runDesc, ?_⟩; dsimp only <;> (unfold Stands HasRoom; decide +kernel)
  · refine ⟨1, rq (toBytes 4 5), { boxes (box 2) with cmds := [cmdAs .admitted runDesc] }, cmdAs .admitted runDesc, ?_⟩; dsimp only <;> (unfold Stands HasRoom; decide +kernel)
  · refine ⟨1, rq (toBytes 4 5), boxes (box 2), ?_⟩; dsimp only <;> (unfold Stands HasRoom; decide +kernel)
  · refine ⟨1, rq [1], boxes (box 2), ?_⟩; unfold Stands HasRoom; decide +kernel
  · refine ⟨1, rq (toBytes 4 5), { boxes (box 2) with cmds := [cmdAs .queued runDesc] }, ?_⟩; unfold Stands HasRoom; decide +kernel
  · refine ⟨1, rq [1], boxes (box 2), ?_⟩; unfold Stands HasRoom; decide +kernel

/-- States that meet the premises of BudgetIdentifierAndPower. -/
theorem test_meets_BudgetIdentifierAndPower :
  (∃ m : Nat, ∃ r : Req, ∃ s : State, (Stands s m 0x20 2 r) ∧
    (r.len = 4)) ∧
  (∃ m : Nat, ∃ r : Req, ∃ s : State, (Stands s m 0x20 2 r) ∧
    (r.len ≠ 4)) ∧
  (∃ m : Nat, ∃ r : Req, ∃ s : State, (Stands s m 0x22 2 r) ∧
    (r.len = 2) ∧
    (pay r 0 2 < 4096)) ∧
  (∃ m : Nat, ∃ r : Req, ∃ s : State, (Stands s m 0x22 2 r) ∧
    (r.len ≠ 2 ∨ 4096 ≤ pay r 0 2)) ∧
  (∃ m : Nat, ∃ r : Req, ∃ s : State, (s.power ≠ .vigil) ∧
    (Stands s m 0x21 2 r) ∧
    (r.len = 1) ∧
    (pay r 0 1 = 0) ∧
    (s.power = .doze) ∧
    (s.powerNext = none) ∧
    (s.boot.steps = []) ∧
    (tramsOff s = false)) ∧
  (∃ m : Nat, ∃ r : Req, ∃ s : State, (s.power ≠ .vigil) ∧
    (Stands s m 0x21 2 r) ∧
    (r.len = 1) ∧
    (pay r 0 1 = 0) ∧
    (s.power ≠ .doze ∨ s.powerNext ≠ none ∨ s.boot.steps ≠ [] ∨ tramsOff s = true)) ∧
  (∃ m : Nat, ∃ r : Req, ∃ s : State, (s.power = .vigil) ∧
    (m < 8) ∧
    (r.reserved = none) ∧
    (r.len = 1) ∧
    (pay r 0 1 = 0) ∧
    (s.powerNext = none) ∧
    (s.boot.steps = []) ∧
    (tramsOff s = false)) ∧
  (∃ r : Req, ∃ s : State, (s.power = .vigil) ∧
    (r.len ≠ 1 ∨ pay r 0 1 ≠ 0 ∨ s.powerNext ≠ none ∨ s.boot.steps ≠ [] ∨ tramsOff s = true)) ∧
  (∃ m : Nat, ∃ r : Req, ∃ s : State, (Stands s m 0x21 2 r) ∧
    (r.len = 1) ∧
    (pay r 0 1 = 2) ∧
    (mustStay s = false)) ∧
  (∃ m : Nat, ∃ r : Req, ∃ s : State, (Stands s m 0x21 2 r) ∧
    (r.len = 1) ∧
    (pay r 0 1 = 2) ∧
    (mustStay s = true)) ∧
  (∃ m : Nat, ∃ r : Req, ∃ s : State, (Stands s m 0x21 2 r) ∧
    (r.len = 1) ∧
    (pay r 0 1 = 3) ∧
    (mustStay s = false)) ∧
  (∃ m : Nat, ∃ r : Req, ∃ s : State, (Stands s m 0x21 2 r) ∧
    (r.len = 1) ∧
    (pay r 0 1 = 3) ∧
    (mustStay s = true)) ∧
  (∃ s : State, ((∃ c ∈ s.cmds, isAdmitted c = true) ∨ (∃ n, n < 8 ∧ 0 < slotsLoaded (hoistOf s n)) ∨ s.puts ≠ [] ∨ s.snap.op = 3 ∨ s.ebb = true ∨
    s.power = .vigil ∨ s.powerNext ≠ none ∨ s.boot.steps ≠ [])) ∧
  (∃ m : Nat, ∃ r : Req, ∃ s : State, ∃ row, (row ∈ powerRows) ∧
    (s.power ≠ .vigil ∨ row.value ≠ 0) ∧
    (Stands s m 0x21 2 r) ∧
    (r.len ≠ 1 ∨ (pay r 0 1 ≠ 0 ∧ pay r 0 1 ≠ 2 ∧ pay r 0 1 ≠ 3))) ∧
  (∃ m : Nat, ∃ r : Req, ∃ s : State, ∃ row, ∃ st, (row ∈ powerRows) ∧
    (s.power ≠ .vigil ∨ row.value ≠ 0) ∧
    (r.reserved = none) ∧
    (served s m = true) ∧
    (HasRoom s m) ∧
    (sessionStatus (mbxOf s m) 0x21 2 r = some st) ∧
    (r.len = 1) ∧
    (pay r 0 1 = row.value)) ∧
  (∃ r : Req, ∃ s : State, ∃ row, (row ∈ powerRows) ∧
    (s.power ≠ .vigil ∨ row.value ≠ 0) ∧
    (r.len = 1) ∧
    (pay r 0 1 ≠ row.value) ∧
    (pay r 0 1 = 0 ∨ pay r 0 1 = 2 ∨ pay r 0 1 = 3)) ∧
  (∃ m : Nat, ∃ s : State, ∃ row, (row ∈ powerRows) ∧
    (s.power ≠ .vigil ∨ row.value ≠ 0) ∧
    (served s m = false)) := by
  refine ⟨?_, ?_, ?_, ?_, ?_, ?_, ?_, ?_, ?_, ?_, ?_, ?_, ?_, ?_, ?_, ?_, ?_⟩
  · refine ⟨1, rq (toBytes 4 0x12345), boxes (box 2), ?_⟩; unfold Stands HasRoom; decide +kernel
  · refine ⟨1, rq (toBytes 2 0x123), boxes (box 2), ?_⟩; unfold Stands HasRoom; decide +kernel
  · refine ⟨1, rq (toBytes 2 0x123), boxes (box 2), ?_⟩; unfold Stands HasRoom; decide +kernel
  · refine ⟨1, rq (toBytes 4 0x12345), boxes (box 2), ?_⟩; unfold Stands HasRoom; decide +kernel
  · refine ⟨1, rq [0], { boxes (box 2) with power := .doze }, ?_⟩; unfold Stands HasRoom; decide +kernel
  · refine ⟨1, rq [0], boxes (box 2), ?_⟩; unfold Stands HasRoom; decide +kernel
  · refine ⟨1, rq [0], { boxes (box 2) with power := .vigil }, ?_⟩; decide +kernel
  · refine ⟨rq [1], { boxes (box 2) with power := .vigil }, ?_⟩; decide +kernel
  · refine ⟨1, rq [2], boxes (box 2), ?_⟩; unfold Stands HasRoom; decide +kernel
  · refine ⟨1, rq [2], { boxes (box 2) with cmds := [cmdAs .admitted runDesc] }, ?_⟩; unfold Stands HasRoom; decide +kernel
  · refine ⟨1, rq [3], boxes (box 2), ?_⟩; unfold Stands HasRoom; decide +kernel
  · refine ⟨1, rq [3], { boxes (box 2) with ebb := true }, ?_⟩; unfold Stands HasRoom; decide +kernel
  · refine ⟨{ boxes (box 2) with power := .vigil }, ?_⟩; decide +kernel
  · refine ⟨1, rq [1], boxes (box 2), ⟨.powerDoze, 2⟩, ?_⟩; refine ⟨by simp [powerRows], ?_⟩; unfold Stands HasRoom; decide +kernel
  · refine ⟨1, rq [0], boxes { box 2 with isOpen := false }, ⟨.powerWake, 0⟩, 4, ?_⟩; refine ⟨by simp [powerRows], ?_⟩; unfold HasRoom; decide +kernel
  · refine ⟨rq [2], boxes (box 2), ⟨.powerWake, 0⟩, ?_⟩; refine ⟨by simp [powerRows], ?_⟩; decide +kernel
  · refine ⟨1, boxes { box 2 with enable := false }, ⟨.powerVigil, 3⟩, ?_⟩; refine ⟨by simp [powerRows], ?_⟩; decide +kernel

/-- States that meet the premises of LogsRetirementAndRecovery. -/
theorem test_meets_LogsRetirementAndRecovery :
  (∃ m : Nat, ∃ r : Req, ∃ s : State, (Stands s m 0x51 2 r) ∧
    (r.len = 4)) ∧
  (∃ m : Nat, ∃ r : Req, ∃ s : State, (Stands s m 0x51 2 r) ∧
    (r.len ≠ 4)) ∧
  (∃ m : Nat, ∃ r : Req, ∃ s : State, (Stands s m 0x53 2 r) ∧
    (r.len = 0)) ∧
  (∃ m : Nat, ∃ r : Req, ∃ s : State, (Stands s m 0x53 2 r) ∧
    (r.len ≠ 0)) ∧
  (∃ m : Nat, ∃ r : Req, ∃ s : State, (Stands s m 0x54 3 r) ∧
    (r.len = 0)) ∧
  (∃ m : Nat, ∃ r : Req, ∃ s : State, (Stands s m 0x54 3 r) ∧
    (r.len ≠ 0)) ∧
  (∃ m : Nat, ∃ r : Req, ∃ s : State, ∃ row, (row ∈ recoveryRows) ∧
    (Stands s m 0x55 3 r) ∧
    (r.len = 1) ∧
    (pay r 0 1 = row.value) ∧
    (working s = false)) ∧
  (∃ m : Nat, ∃ r : Req, ∃ s : State, ∃ row, (row ∈ recoveryRows) ∧
    (Stands s m 0x55 3 r) ∧
    (r.len = 1) ∧
    (pay r 0 1 = row.value) ∧
    (working s = true)) ∧
  (∃ m : Nat, ∃ r : Req, ∃ s : State, ∃ row, (row ∈ recoveryRows) ∧
    (Stands s m 0x55 3 r) ∧
    (r.len ≠ 1 ∨ 2 ≤ pay r 0 1)) ∧
  (∃ r : Req, ∃ row, (row ∈ recoveryRows) ∧
    (r.len = 1) ∧
    (pay r 0 1 ≠ row.value) ∧
    (pay r 0 1 < 2)) ∧
  (∃ m : Nat, ∃ s : State, ∃ row, (row ∈ recoveryRows) ∧
    (served s m = false)) := by
  refine ⟨?_, ?_, ?_, ?_, ?_, ?_, ?_, ?_, ?_, ?_, ?_⟩
  · refine ⟨1, rq (toBytes 4 0), { boxes (box 2) with flt := { h0Active := true, count := 2, log := [(0, 5), (1, 6)] } }, ?_⟩; unfold Stands HasRoom; decide +kernel
  · refine ⟨1, rq [], { boxes (box 2) with flt := { h0Active := true, retStopes := [3], retLanes := [5], retPcs := [(1, 2)] } }, ?_⟩; unfold Stands HasRoom; decide +kernel
  · refine ⟨1, rq [], { boxes (box 2) with flt := { h0Active := true, retStopes := [3], retLanes := [5], retPcs := [(1, 2)] } }, ?_⟩; unfold Stands HasRoom; decide +kernel
  · refine ⟨1, rq (toBytes 4 0), { boxes (box 2) with flt := { h0Active := true, count := 2, log := [(0, 5), (1, 6)] } }, ?_⟩; unfold Stands HasRoom; decide +kernel
  · refine ⟨1, rq3 0x54 [], boxes (box 3), ?_⟩; unfold Stands HasRoom; decide +kernel
  · refine ⟨1, rq3 0x54 [1], boxes (box 3), ?_⟩; unfold Stands HasRoom; decide +kernel
  · refine ⟨1, rq3 0x55 [1], boxes (box 3), ⟨.recoveryEnter, 1⟩, ?_⟩; refine ⟨by simp [recoveryRows], ?_⟩; unfold Stands HasRoom; decide +kernel
  · refine ⟨1, rq3 0x55 [1], { boxes (box 3) with cmds := [cmdAs .admitted runDesc] }, ⟨.recoveryEnter, 1⟩, ?_⟩; refine ⟨by simp [recoveryRows], ?_⟩; unfold Stands HasRoom; decide +kernel
  · refine ⟨1, rq3 0x55 [2], boxes (box 3), ⟨.recoveryEnter, 1⟩, ?_⟩; refine ⟨by simp [recoveryRows], ?_⟩; unfold Stands HasRoom; decide +kernel
  · refine ⟨rq3 0x55 [1], ⟨.recoveryLeave, 0⟩, ?_⟩; refine ⟨by simp [recoveryRows], ?_⟩; decide +kernel
  · refine ⟨1, boxes { box 3 with enable := false }, ⟨.recoveryEnter, 1⟩, ?_⟩; refine ⟨by simp [recoveryRows], ?_⟩; decide +kernel

/-- States that meet the premises of ResetRequestsReset. -/
theorem test_meets_ResetRequestsReset :
  (∃ m : Nat, ∃ r : Req, ∃ s : State, let n := pay r 1 2
    (Stands s m 0x52 2 r) ∧
    (r.len = 3) ∧
    (pay r 0 1 = 3) ∧
    (n < 160)) ∧
  (∃ m : Nat, ∃ r : Req, ∃ s : State, let n := pay r 1 2
    (Stands s m 0x52 2 r) ∧
    (r.len = 3) ∧
    (pay r 0 1 = 3) ∧
    (160 ≤ n)) ∧
  (∃ m : Nat, ∃ r : Req, ∃ s : State, let n := pay r 1 2
    (Stands s m 0x52 2 r) ∧
    (r.len = 3) ∧
    (pay r 0 1 = 2) ∧
    (n < 8)) ∧
  (∃ m : Nat, ∃ r : Req, ∃ s : State, let n := pay r 1 2
    (Stands s m 0x52 2 r) ∧
    (r.len = 3) ∧
    (pay r 0 1 = 2) ∧
    (8 ≤ n)) ∧
  (∃ m : Nat, ∃ r : Req, ∃ s : State, (Stands s m 0x52 2 r) ∧
    (r.len = 3) ∧
    (pay r 0 1 = 1)) ∧
  (∃ m : Nat, ∃ r : Req, ∃ s : State, ∃ i, (i = Instr.resetStope m r ∨ (∃ e, i = .resetDevice m r e) ∨ (∃ fails, i = .resetLevel m r fails)) ∧
    (Stands s m 0x52 2 r) ∧
    (r.len ≠ 3 ∨ pay r 0 1 = 0 ∨ 3 < pay r 0 1)) ∧
  (∃ m : Nat, ∃ r : Req, ∃ s : State, ∃ i, (i = Instr.resetStope m r ∨ (∃ e, i = .resetDevice m r e) ∨ (∃ fails, i = .resetLevel m r fails)) ∧
    (served s m = false)) ∧
  (∃ r : Req, (r.len = 3) ∧
    (pay r 0 1 = 1 ∨ pay r 0 1 = 2)) ∧
  (∃ r : Req, (r.len = 3) ∧
    (pay r 0 1 = 1 ∨ pay r 0 1 = 3)) ∧
  (∃ r : Req, (r.len = 3) ∧
    (pay r 0 1 = 2 ∨ pay r 0 1 = 3)) := by
  refine ⟨?_, ?_, ?_, ?_, ?_, ?_, ?_, ?_, ?_, ?_⟩
  · refine ⟨1, rq [3, 0, 0], { boxes (box 2) with stopes := [(0, { agents := [(3, { state := .running })], evOn := true })] }, ?_⟩; dsimp only <;> (unfold Stands HasRoom; decide +kernel)
  · refine ⟨1, rq [3, 160, 0], boxes (box 2), ?_⟩; dsimp only <;> (unfold Stands HasRoom; decide +kernel)
  · refine ⟨1, rq [2, 7, 0], boxes (box 2), ?_⟩; dsimp only <;> (unfold Stands HasRoom; decide +kernel)
  · refine ⟨1, rq [2, 8, 0], boxes (box 2), ?_⟩; dsimp only <;> (unfold Stands HasRoom; decide +kernel)
  · refine ⟨1, rq [1, 0, 0], bootable (boxes (box 2)), ?_⟩; unfold Stands HasRoom; decide +kernel
  · refine ⟨1, rq [4, 0, 0], boxes (box 2), .resetStope 1 (rq [4, 0, 0]), ?_⟩; refine ⟨.inl rfl, ?_⟩; unfold Stands HasRoom; decide +kernel
  · refine ⟨1, rq [3, 0, 0], boxes { box 2 with enable := false }, .resetStope 1 (rq [3, 0, 0]), ?_⟩; refine ⟨.inl rfl, ?_⟩; decide +kernel
  · refine ⟨rq [2, 0, 0], ?_⟩; decide +kernel
  · refine ⟨rq [3, 0, 0], ?_⟩; decide +kernel
  · refine ⟨rq [3, 0, 0], ?_⟩; decide +kernel

/-- States that meet the premises of SnapshotsAreStaged. -/
theorem test_meets_SnapshotsAreStaged :
  (∃ m : Nat, ∃ r : Req, ∃ s : State, let pa := pay r 0 8
    let w := extendRound (pay r 8 4) s.rnd.round
    (Stands s m 0x60 2 r) ∧
    (r.len ≠ 12 ∨ addrOk s pa 64 = false ∨ w < (s.rnd.round : Int))) ∧
  (∃ m : Nat, ∃ r : Req, ∃ s : State, let pa := pay r 0 8
    let w := extendRound (pay r 8 4) s.rnd.round
    (Stands s m 0x60 2 r) ∧
    (r.len = 12) ∧
    (addrOk s pa 64 = true) ∧
    ((s.rnd.round : Int) ≤ w) ∧
    (s.snap.op ≠ 0)) ∧
  (∃ m : Nat, ∃ r : Req, ∃ s : State, let pa := pay r 0 8
    let w := extendRound (pay r 8 4) s.rnd.round
    (Stands s m 0x60 2 r) ∧
    (r.len = 12) ∧
    (addrOk s pa 64 = true) ∧
    ((s.rnd.round : Int) ≤ w) ∧
    (s.snap.op = 0) ∧
    ((planOf s pa).2.2 = 0)) ∧
  (∃ m : Nat, ∃ r : Req, ∃ s : State, let pa := pay r 0 8
    let w := extendRound (pay r 8 4) s.rnd.round
    (Stands s m 0x60 2 r) ∧
    (r.len = 12) ∧
    (addrOk s pa 64 = true) ∧
    ((s.rnd.round : Int) ≤ w) ∧
    (s.snap.op = 0) ∧
    ((planOf s pa).2.2 ≠ 0)) ∧
  (∃ s : State, (s.snap.op = 1) ∧
    (decidedBy s s.snap.atRound = true)) ∧
  (∃ s : State, (s.snap.op ≠ 1 ∨ decidedBy s s.snap.atRound = false)) ∧
  (∃ s : State, (tramsOff s = true ∨ asleep s = true)) ∧
  (∃ s : State, let u := beginStaging s
    (tramsOff s = false) ∧
    (asleep s = false) ∧
    (u.snap.op ≠ 2 ∨ u.snap.todo = [])) ∧
  (∃ s : State, ∃ ecc : Ecc, ∃ k, ∃ o, ∃ rest, let u := beginStaging s
    (tramsOff s = false) ∧
    (asleep s = false) ∧
    (ecc ≠ .bad) ∧
    (u.snap.op = 2) ∧
    (u.snap.todo = (k, o) :: rest) ∧
    (o % 4096 = 0) ∧
    (poisoned s (hbmAddr k o) 4096 = false)) ∧
  (∃ s : State, ∃ ecc : Ecc, ∃ k, ∃ o, ∃ rest, let u := beginStaging s
    (tramsOff s = false) ∧
    (asleep s = false) ∧
    (u.snap.op = 2) ∧
    (u.snap.todo = (k, o) :: rest) ∧
    (ecc = .bad ∨ poisoned s (hbmAddr k (o / 4096 * 4096)) 4096 = true)) := by
  refine ⟨?_, ?_, ?_, ?_, ?_, ?_, ?_, ?_, ?_, ?_⟩
  · refine ⟨1, rq [1], { snapper { op := 2, todo := [(0, 0x4000), (0, 0x5000)] } with stackTab := [(0, { poison := [512] })] }, ?_⟩; dsimp only <;> (unfold Stands HasRoom; decide +kernel)
  · refine ⟨1, planReq, snapper { op := 3 }, ?_⟩; dsimp only <;> (unfold Stands HasRoom; decide +kernel)
  · refine ⟨1, planReq, snapper {}, ?_⟩; dsimp only <;> (unfold Stands HasRoom; decide +kernel)
  · refine ⟨1, rq (toBytes 8 0x2000 ++ toBytes 4 7), snapper {}, ?_⟩; dsimp only <;> (unfold Stands HasRoom; decide +kernel)
  · refine ⟨{ snapper { op := 1, atRound := 7, regions := [(0x4000, 0x1000)] } with rnd := { round := 7, decided := true } }, ?_⟩; decide +kernel
  · refine ⟨snapper { op := 3 }, ?_⟩; decide +kernel
  · refine ⟨{ snapper {} with quench := true }, ?_⟩; decide +kernel
  · refine ⟨snapper {}, ?_⟩; dsimp only <;> decide +kernel
  · refine ⟨snapper { op := 2, todo := [(0, 0x4000), (0, 0x5000)] }, .corrected, 0, 0x4000, [(0, 0x5000)], ?_⟩; dsimp only <;> decide +kernel
  · refine ⟨{ snapper { op := 2, todo := [(0, 0x4000), (0, 0x5000)] } with stackTab := [(0, { poison := [512] })] }, .clean, 0, 0x4000, [(0, 0x5000)], ?_⟩; dsimp only <;> decide +kernel

/-- States that meet the premises of SnapshotsDrain. -/
theorem test_meets_SnapshotsDrain :
  (∃ s : State, let n := s.snap
    (tramsOff s = true ∨ headsUp s = false ∨ s.flt.takeover.isSome = true ∨ n.rate = 0 ∨ (n.op ≠ 2 ∧ n.op ≠ 3) ∨ (n.op = 2 ∧ n.todo ≠ []) ∨
    (n.waits ≠ [] ∧ (n.phase ≠ 3 ∨ n.segs = [] ∨ (segmentsIn n.regions)[n.segs.length]? = none)))) ∧
  (∃ s : State, let n := s.snap
    (tramsOff s = false) ∧
    (headsUp s = true) ∧
    (s.flt.takeover = none) ∧
    (n.rate ≠ 0) ∧
    (n.op = 3 ∨ (n.op = 2 ∧ n.todo = [])) ∧
    (n.waits = []) ∧
    (n.phase = 1) ∧
    (slotUsable n n.slot = true)) ∧
  (∃ s : State, let n := s.snap
    (tramsOff s = false) ∧
    (headsUp s = true) ∧
    (s.flt.takeover = none) ∧
    (n.rate ≠ 0) ∧
    (n.op = 3 ∨ (n.op = 2 ∧ n.todo = [])) ∧
    (n.waits = []) ∧
    (n.phase = 1) ∧
    (slotUsable n n.slot = false)) ∧
  (∃ s : State, let n := s.snap
    (tramsOff s = false) ∧
    (headsUp s = true) ∧
    (s.flt.takeover = none) ∧
    (n.rate ≠ 0) ∧
    (n.op = 3 ∨ (n.op = 2 ∧ n.todo = [])) ∧
    (n.waits = []) ∧
    (n.phase = 2)) ∧
  (∃ s : State, let n := s.snap
    (tramsOff s = false) ∧
    (headsUp s = true) ∧
    (s.flt.takeover = none) ∧
    (n.rate ≠ 0) ∧
    (n.op = 3 ∨ (n.op = 2 ∧ n.todo = [])) ∧
    (n.waits = []) ∧
    (n.phase = 3) ∧
    ((segmentsIn n.regions)[n.segs.length]? = none)) ∧
  (∃ s : State, let n := s.snap
    (tramsOff s = false) ∧
    (headsUp s = true) ∧
    (s.flt.takeover = none) ∧
    (n.rate ≠ 0) ∧
    (n.op = 3 ∨ (n.op = 2 ∧ n.todo = [])) ∧
    (n.waits = []) ∧
    (n.phase = 5)) ∧
  (∃ s : State, let n := s.snap
    (tramsOff s = false) ∧
    (headsUp s = true) ∧
    (s.flt.takeover = none) ∧
    (n.rate ≠ 0) ∧
    (n.op = 3 ∨ (n.op = 2 ∧ n.todo = [])) ∧
    (n.waits = []) ∧
    (n.phase = 6)) ∧
  (∃ s : State, let n := s.snap
    (tramsOff s = false) ∧
    (headsUp s = true) ∧
    (s.flt.takeover = none) ∧
    (n.rate ≠ 0) ∧
    (n.op = 3 ∨ (n.op = 2 ∧ n.todo = [])) ∧
    (n.waits = []) ∧
    (n.phase = 7)) ∧
  (∃ s : State, ∃ g, let n := s.snap
    (tramsOff s = false) ∧
    (headsUp s = true) ∧
    (s.flt.takeover = none) ∧
    (n.rate ≠ 0) ∧
    (n.op = 3 ∨ (n.op = 2 ∧ n.todo = [])) ∧
    (n.phase = 3) ∧
    (n.waits = [] ∨ n.segs ≠ []) ∧
    ((segmentsIn n.regions)[n.segs.length]? = some g) ∧
    (let b := buildSegment s n.segs.length g
    (unchanged n b.1 = true))) ∧
  (∃ s : State, ∃ g, let n := s.snap
    (tramsOff s = false) ∧
    (headsUp s = true) ∧
    (s.flt.takeover = none) ∧
    (n.rate ≠ 0) ∧
    (n.op = 3 ∨ (n.op = 2 ∧ n.todo = [])) ∧
    (n.phase = 3) ∧
    (n.waits = [] ∨ n.segs ≠ []) ∧
    ((segmentsIn n.regions)[n.segs.length]? = some g) ∧
    (let b := buildSegment s n.segs.length g
    (unchanged n b.1 = false))) ∧
  (∃ s : State, ∃ drive, ∃ w, let n := s.snap
    (headsUp s = true) ∧
    (s.flt.takeover = none) ∧
    (tramsOff s = false) ∧
    (oldestJob n drive = some w) ∧
    (n.op = 3) ∧
    (n.phase ≠ 8)) ∧
  (∃ s : State, ∃ drive, ∃ w, let n := s.snap
    (headsUp s = true) ∧
    (s.flt.takeover = none) ∧
    (tramsOff s = false) ∧
    (oldestJob n drive = some w) ∧
    (n.op = 3) ∧
    (n.phase = 8)) := by
  refine ⟨?_, ?_, ?_, ?_, ?_, ?_, ?_, ?_, ?_, ?_, ?_, ?_⟩
  · refine ⟨{ snapper { op := 3 } with quench := true }, ?_⟩; dsimp only <;> decide +kernel
  · refine ⟨snapper { draining 1 with okA := true, slotA := slotOne }, ?_⟩; dsimp only <;> decide +kernel
  · refine ⟨snapper (draining 1), ?_⟩; dsimp only <;> decide +kernel
  · refine ⟨snapper (draining 2), ?_⟩; dsimp only <;> decide +kernel
  · refine ⟨snapper { draining 3 with segs := [emptySeg] }, ?_⟩; dsimp only <;> decide +kernel
  · refine ⟨snapper (draining 5), ?_⟩; dsimp only <;> decide +kernel
  · refine ⟨snapper (draining 6), ?_⟩; dsimp only <;> decide +kernel
  · refine ⟨snapper (draining 7), ?_⟩; dsimp only <;> decide +kernel
  · refine ⟨snapper sameDrain, (0, 0, 64), ?_⟩; dsimp only <;> decide +kernel
  · refine ⟨snapper (draining 3), (0, 0, 64), ?_⟩; dsimp only <;> decide +kernel
  · refine ⟨snapper { draining 4 with waits := [flushJob] }, 0, flushJob, ?_⟩; dsimp only <;> decide +kernel
  · refine ⟨snapper { draining 8 with waits := [flushJob] }, 0, flushJob, ?_⟩; dsimp only <;> decide +kernel

/-- States that meet the premises of RestoresRead. -/
theorem test_meets_RestoresRead :
  (∃ m : Nat, ∃ r : Req, ∃ s : State, let n := s.snap
    let good := r.len = 10 ∧ pay r 0 1 ≤ 1 ∧ pay r 1 1 ≤ 3
    let free := working s = false ∧ s.rnd.backfill = false ∧ n.op = 0
    (Stands s m 0x62 2 r) ∧
    (¬ good ∨ (free ∧ slotUsable n (pay r 0 1) = false))) ∧
  (∃ m : Nat, ∃ r : Req, ∃ s : State, let n := s.snap
    let good := r.len = 10 ∧ pay r 0 1 ≤ 1 ∧ pay r 1 1 ≤ 3
    let free := working s = false ∧ s.rnd.backfill = false ∧ n.op = 0
    (Stands s m 0x62 2 r) ∧
    (good) ∧
    (¬ free)) ∧
  (∃ m : Nat, ∃ r : Req, ∃ s : State, let n := s.snap
    let good := r.len = 10 ∧ pay r 0 1 ≤ 1 ∧ pay r 1 1 ≤ 3
    let free := working s = false ∧ s.rnd.backfill = false ∧ n.op = 0
    (Stands s m 0x62 2 r) ∧
    (good) ∧
    (free) ∧
    (slotUsable n (pay r 0 1) = true)) ∧
  (∃ drive : Nat, ∃ w : NvmeJob, ∃ s : State, let n := s.snap
    (headsUp s = true) ∧
    (s.flt.takeover = none) ∧
    (tramsOff s = false) ∧
    (oldestJob n drive = some w) ∧
    (n.op = 4) ∧
    (w.seg = none) ∧
    (n.waits.erase w ≠ [])) ∧
  (∃ drive : Nat, ∃ w : NvmeJob, ∃ s : State, let n := s.snap
    (headsUp s = true) ∧
    (s.flt.takeover = none) ∧
    (tramsOff s = false) ∧
    (oldestJob n drive = some w) ∧
    (n.op = 4) ∧
    (w.seg = none) ∧
    (n.waits = [w])) ∧
  (∃ drive : Nat, ∃ i : Nat, ∃ w : NvmeJob, ∃ g : Segm, ∃ s : State, let n := s.snap
    let y := slotNo n n.slot
    (headsUp s = true) ∧
    (s.flt.takeover = none) ∧
    (tramsOff s = false) ∧
    (oldestJob n drive = some w) ∧
    (n.op = 4) ∧
    (w.seg = some i) ∧
    ((slotSegs y)[i]? = some g) ∧
    (let base := ((n.regions[g.region]?).getD (0, 0)).1
    let data := diskBytes (diskSegOf y g) g.len
    let side := (List.range (g.len / 4096)).map (fun j => ((diskSegOf y g).side[j]?).getD 0)
    let fine := segDigest data side base g.offset = g.digest
    (fine) ∧
    (n.segTodo.erase i ≠ []))) ∧
  (∃ drive : Nat, ∃ i : Nat, ∃ w : NvmeJob, ∃ g : Segm, ∃ s : State, ∃ disturbed, let n := s.snap
    let y := slotNo n n.slot
    (headsUp s = true) ∧
    (s.flt.takeover = none) ∧
    (tramsOff s = false) ∧
    (oldestJob n drive = some w) ∧
    (n.op = 4) ∧
    (w.seg = some i) ∧
    ((slotSegs y)[i]? = some g) ∧
    (let base := ((n.regions[g.region]?).getD (0, 0)).1
    let data := diskBytes (diskSegOf y g) g.len
    let side := (List.range (g.len / 4096)).map (fun j => ((diskSegOf y g).side[j]?).getD 0)
    let fine := segDigest data side base g.offset = g.digest
    (disturbed = true ∨ ¬ fine) ∧
    (n.mismatched.contains i = false))) ∧
  (∃ drive : Nat, ∃ i : Nat, ∃ w : NvmeJob, ∃ g : Segm, ∃ s : State, ∃ disturbed, let n := s.snap
    let y := slotNo n n.slot
    (headsUp s = true) ∧
    (s.flt.takeover = none) ∧
    (tramsOff s = false) ∧
    (oldestJob n drive = some w) ∧
    (n.op = 4) ∧
    (w.seg = some i) ∧
    ((slotSegs y)[i]? = some g) ∧
    (let base := ((n.regions[g.region]?).getD (0, 0)).1
    let data := diskBytes (diskSegOf y g) g.len
    let side := (List.range (g.len / 4096)).map (fun j => ((diskSegOf y g).side[j]?).getD 0)
    let fine := segDigest data side base g.offset = g.digest
    (disturbed = true ∨ ¬ fine) ∧
    (n.mismatched.contains i = true))) ∧
  (∃ drive : Nat, ∃ w : NvmeJob, ∃ s : State, let n := s.snap
    (headsUp s = true) ∧
    (s.flt.takeover = none) ∧
    (tramsOff s = false) ∧
    (oldestJob n drive = some w)) ∧
  (∃ drive : Nat, ∃ w : NvmeJob, ∃ s : State, let n := s.snap
    (headsUp s = true) ∧
    (oldestJob n drive = some w)) ∧
  (∃ drive : Nat, ∃ s : State, let n := s.snap
    (headsUp s = false ∨ s.flt.takeover.isSome = true ∨ tramsOff s = true ∨ oldestJob n drive = none)) ∧
  (∃ drive : Nat, ∃ s : State, let n := s.snap
    (headsUp s = false ∨ oldestJob n drive = none)) := by
  refine ⟨?_, ?_, ?_, ?_, ?_, ?_, ?_, ?_, ?_, ?_, ?_, ?_⟩
  · refine ⟨1, rq ([2, 2] ++ toBytes 8 1), snapper { okA := true, slotA := slotOne }, ?_⟩; dsimp only <;> (unfold Stands HasRoom; decide +kernel)
  · refine ⟨1, rq ([0, 2] ++ toBytes 8 1), snapper { okA := true, slotA := slotOne, op := 3 }, ?_⟩; dsimp only <;> (unfold Stands HasRoom; decide +kernel)
  · refine ⟨1, rq ([0, 2] ++ toBytes 8 1), snapper { okA := true, slotA := slotOne }, ?_⟩; dsimp only <;> (unfold Stands HasRoom; decide +kernel)
  · refine ⟨0, manifestJob, snapper (restoring [manifestJob, manifestJob]), ?_⟩; dsimp only <;> decide +kernel
  · refine ⟨0, manifestJob, snapper { restoring [manifestJob] with unsignedOk := false }, ?_⟩; dsimp only <;> decide +kernel
  · refine ⟨0, 0, segmentJob 0, emptySeg, snapper (restoring [segmentJob 0]), ?_⟩; dsimp only <;> decide +kernel
  · refine ⟨0, 0, segmentJob 0, emptySeg, snapper (restoring [segmentJob 0]), true, ?_⟩; dsimp only <;> decide +kernel
  · refine ⟨0, 0, segmentJob 0, emptySeg, snapper { restoring [segmentJob 0] with mismatched := [0] }, true, ?_⟩; dsimp only <;> decide +kernel
  · refine ⟨0, manifestJob, snapper (restoring [manifestJob, manifestJob]), ?_⟩; dsimp only <;> decide +kernel
  · refine ⟨0, manifestJob, snapper (restoring [manifestJob, manifestJob]), ?_⟩; dsimp only <;> decide +kernel
  · refine ⟨0, snapper (restoring []), ?_⟩; dsimp only <;> decide +kernel
  · refine ⟨0, snapper { okA := true, slotA := slotOne }, ?_⟩; dsimp only <;> decide +kernel

/-- States that meet the premises of RestoresWriteBack. -/
theorem test_meets_RestoresWriteBack :
  (∃ drive : Nat, ∃ i : Nat, ∃ w : NvmeJob, ∃ g : Segm, ∃ s : State, let n := s.snap
    let y := slotNo n n.slot
    let base := ((n.regions[g.region]?).getD (0, 0)).1
    let data := diskBytes (diskSegOf y g) g.len
    let side := (List.range (g.len / 4096)).map (fun j => ((diskSegOf y g).side[j]?).getD 0)
    let grans := n.staged ++ stageSegment s base g data side
    let recs := (pickedTensors n).filter (fun x => decide (x.recPa ≠ 0))
    (headsUp s = true) ∧
    (s.flt.takeover = none) ∧
    (tramsOff s = false) ∧
    (n.op = 4) ∧
    (oldestJob n drive = some w) ∧
    (w.seg = some i) ∧
    (n.segTodo = [i]) ∧
    ((slotSegs y)[i]? = some g) ∧
    (segDigest data side base g.offset = g.digest) ∧
    ((grans.map (·.1)).Nodup) ∧
    ((∀ e ∈ grans, ∃ k o, e.1 = hbmAddr k o ∧ k < 16 ∧ o < dataEnd s k ∧ o % 4096 = 0)) ∧
    ((∀ x ∈ recs, x.recData.length = 128 ∧ (∃ k o, x.recPa = hbmAddr k o ∧ k < 16 ∧ o + 128 ≤ dataEnd s k) ∧
    ∀ z ∈ recs, z = x ∨ z.recPa + 128 ≤ x.recPa ∨ x.recPa + 128 ≤ z.recPa))) := by
  refine ⟨0, 0, segmentJob 0, emptySeg, snapper { restoring [segmentJob 0] with segTodo := [0], staged := [(0x4000, [(0x4005, 9)], 5)] }, ?_⟩; dsimp only; exact ⟨by decide +kernel, by decide +kernel, by decide +kernel, by decide +kernel, by decide +kernel, by decide +kernel, by decide +kernel, by decide +kernel, by decide +kernel, by decide +kernel, home_cells _ _ (by decide +kernel), no_mem (by rfl)⟩

/-- States that meet the premises of LinkLossEndsTheDrain. -/
theorem test_meets_LinkLossEndsTheDrain :
  (∃ s : State, (s.snap.op ≠ 3)) ∧
  (∃ s : State, (s.snap.op = 3) ∧
    (s.snap.restarted = false)) ∧
  (∃ s : State, (s.snap.op = 3) ∧
    (s.snap.restarted = true)) := by
  refine ⟨?_, ?_, ?_⟩
  · refine ⟨snapper {}, ?_⟩; decide +kernel
  · refine ⟨snapper (draining 3), ?_⟩; decide +kernel
  · refine ⟨snapper { draining 3 with restarted := true }, ?_⟩; decide +kernel

/-- States that meet the premises of QuotesAndCertificates. -/
theorem test_meets_QuotesAndCertificates :
  (∃ m : Nat, ∃ r : Req, ∃ s : State, (Stands s m 0x63 2 r) ∧
    (r.len = 0)) ∧
  (∃ m : Nat, ∃ r : Req, ∃ s : State, (Stands s m 0x63 2 r) ∧
    (r.len ≠ 0)) ∧
  (∃ m : Nat, ∃ r : Req, ∃ s : State, (Stands s m 0x64 2 r) ∧
    (r.len ≠ 40 ∨ addrOk s (pay r 32 8) 3821 = false)) ∧
  (∃ m : Nat, ∃ r : Req, ∃ s : State, (Stands s m 0x64 2 r) ∧
    (r.len = 40) ∧
    (addrOk s (pay r 32 8) 3821 = true) ∧
    (hasKey s = true)) ∧
  (∃ m : Nat, ∃ r : Req, ∃ s : State, (Stands s m 0x64 2 r) ∧
    (r.len = 40) ∧
    (addrOk s (pay r 32 8) 3821 = true) ∧
    (hasKey s = false)) ∧
  (∃ m : Nat, ∃ r : Req, ∃ s : State, let n := Config.certificates.length
    (Stands s m 0x65 2 r) ∧
    (r.len ≠ 8 ∨ addrOk s (pay r 0 8) (max n 1) = false)) ∧
  (∃ m : Nat, ∃ r : Req, ∃ s : State, let n := Config.certificates.length
    (Stands s m 0x65 2 r) ∧
    (r.len = 8) ∧
    (addrOk s (pay r 0 8) (max n 1) = true)) := by
  refine ⟨?_, ?_, ?_, ?_, ?_, ?_, ?_⟩
  · refine ⟨1, rq [], snapper { slotA := slotOne }, ?_⟩; unfold Stands HasRoom; decide +kernel
  · refine ⟨1, rq (List.replicate 32 5 ++ toBytes 8 0x8000), { snapper {} with trust := { key0 := true } }, ?_⟩; unfold Stands HasRoom; decide +kernel
  · refine ⟨1, rq [], snapper { slotA := slotOne }, ?_⟩; unfold Stands HasRoom; decide +kernel
  · refine ⟨1, rq (List.replicate 32 5 ++ toBytes 8 0x8000), { snapper {} with trust := { key0 := true } }, ?_⟩; unfold Stands HasRoom; decide +kernel
  · refine ⟨1, rq (List.replicate 32 5 ++ toBytes 8 0x8000), snapper {}, ?_⟩; unfold Stands HasRoom; decide +kernel
  · refine ⟨1, rq [], snapper { slotA := slotOne }, ?_⟩; dsimp only <;> (unfold Stands HasRoom; decide +kernel)
  · refine ⟨1, rq (toBytes 8 0x8000), snapper {}, ?_⟩; dsimp only; exact ⟨by unfold Stands HasRoom; decide +kernel, by decide +kernel, certificates_fit⟩

/-- States that meet the premises of FirmwareAndConfigurationUpdate. -/
theorem test_meets_FirmwareAndConfigurationUpdate :
  (∃ m : Nat, ∃ r : Req, ∃ s : State, let pa := pay r 0 8
    let n := pay r 8 4
    let good := r.len = 12 ∧ n ≠ 0 ∧ n ≤ 28 * 2 ^ 20 - 4096 ∧ addrOk s pa n = true
    (Stands s m 0x66 2 r) ∧
    (¬ good)) ∧
  (∃ m : Nat, ∃ r : Req, ∃ s : State, let pa := pay r 0 8
    let n := pay r 8 4
    let good := r.len = 12 ∧ n ≠ 0 ∧ n ≤ 28 * 2 ^ 20 - 4096 ∧ addrOk s pa n = true
    let pending := s.trust.fwA.pending = true ∨ s.trust.fwB.pending = true
    (Stands s m 0x66 2 r) ∧
    (good) ∧
    (pending)) ∧
  (∃ m : Nat, ∃ r : Req, ∃ s : State, let pa := pay r 0 8
    let n := pay r 8 4
    let good := r.len = 12 ∧ n ≠ 0 ∧ n ≤ 28 * 2 ^ 20 - 4096 ∧ addrOk s pa n = true
    let pending := s.trust.fwA.pending = true ∨ s.trust.fwB.pending = true
    (Stands s m 0x66 2 r) ∧
    (good) ∧
    (¬ pending)) ∧
  (∃ m : Nat, ∃ r : Req, ∃ s : State, (Stands s m 0x67 2 r) ∧
    (r.len ≠ 0)) ∧
  (∃ m : Nat, ∃ r : Req, ∃ s : State, (Stands s m 0x67 2 r) ∧
    (r.len = 0) ∧
    ((fwSlot s.trust s.trust.runningB).confirmed = true)) ∧
  (∃ m : Nat, ∃ r : Req, ∃ s : State, (Stands s m 0x67 2 r) ∧
    (r.len = 0) ∧
    ((fwSlot s.trust s.trust.runningB).confirmed = false)) ∧
  (∃ m : Nat, ∃ r : Req, ∃ s : State, let pa := pay r 0 8
    let n := pay r 8 4
    (Stands s m 0x68 2 r) ∧
    (r.len ≠ 12 ∨ n ≠ 3597 ∨ addrOk s pa 3597 = false)) ∧
  (∃ m : Nat, ∃ r : Req, ∃ s : State, let pa := pay r 0 8
    let n := pay r 8 4
    (Stands s m 0x68 2 r) ∧
    (r.len = 12) ∧
    (n = 3597) ∧
    (addrOk s pa 3597 = true)) := by
  refine ⟨?_, ?_, ?_, ?_, ?_, ?_, ?_, ?_⟩
  · refine ⟨1, rq [], snapper {}, ?_⟩; dsimp only <;> (unfold Stands HasRoom; decide +kernel)
  · refine ⟨1, rq (toBytes 8 0x8000 ++ toBytes 4 5000), { snapper {} with trust := { fwB := { pending := true } } }, ?_⟩; dsimp only <;> (unfold Stands HasRoom; decide +kernel)
  · refine ⟨1, rq (toBytes 8 0x8000 ++ toBytes 4 5000), snapper {}, ?_⟩; dsimp only <;> (unfold Stands HasRoom; decide +kernel)
  · refine ⟨1, rq (toBytes 8 0x8000 ++ toBytes 4 5000), snapper {}, ?_⟩; unfold Stands HasRoom; decide +kernel
  · refine ⟨1, rq [], snapper {}, ?_⟩; unfold Stands HasRoom; decide +kernel
  · refine ⟨1, rq [], { snapper {} with trust := { fwA := { confirmed := false } } }, ?_⟩; unfold Stands HasRoom; decide +kernel
  · refine ⟨1, rq (toBytes 8 0x8000 ++ toBytes 4 5000), snapper {}, ?_⟩; dsimp only <;> (unfold Stands HasRoom; decide +kernel)
  · refine ⟨1, rq (toBytes 8 0x8000 ++ toBytes 4 3597), snapper {}, ?_⟩; dsimp only <;> (unfold Stands HasRoom; decide +kernel)

/-- States that meet the premises of PortsTrain. -/
theorem test_meets_PortsTrain :
  (∃ p : Nat, ∃ v : Word32, ∃ s : State, (p < 12) ∧
    (headsUp s = true) ∧
    (bit v.toNat 0 = true)) ∧
  (∃ p : Nat, ∃ v : Word32, ∃ s : State, (p < 12) ∧
    (headsUp s = true) ∧
    (bit v.toNat 0 = false)) ∧
  (∃ p : Nat, ∃ s : State, (12 ≤ p ∨ headsUp s = false)) ∧
  (∃ p : Nat, ∃ s : State, let x := portOf s p
    (p < 12) ∧
    (x.state = .down) ∧
    (bit x.cfg.toNat 0 = true) ∧
    (usableLanes x ≠ 0) ∧
    (headsUp s = true) ∧
    (s.boot.steps.contains .calibrate = false)) ∧
  (∃ p : Nat, ∃ s : State, let x := portOf s p
    (12 ≤ p ∨ x.state ≠ .down ∨ bit x.cfg.toNat 0 = false ∨ usableLanes x = 0 ∨ headsUp s = false ∨
    s.boot.steps.contains .calibrate = true)) ∧
  (∃ p : Nat, ∃ s : State, let x := portOf s p
    (x.state = .training) ∧
    (x.capsSeen = false)) ∧
  (∃ p : Nat, ∃ s : State, let x := portOf s p
    (x.state ≠ .training ∨ x.capsSeen = true)) ∧
  (∃ p : Nat, ∃ c : Caps, ∃ s : State, let x := portOf s p
    let trains := x.state = .training ∨ x.state = .retraining
    let common := usableLanes x &&& (c.lanes % 16)
    let ls := chosenLanes common c.three
    let g := min (cfgMaxGen x.live) c.gen
    (trains) ∧
    (g ≠ 0) ∧
    (ls ≠ 0)) ∧
  (∃ p : Nat, ∃ c : Caps, ∃ s : State, let x := portOf s p
    let common := usableLanes x &&& (c.lanes % 16)
    let ls := chosenLanes common c.three
    let g := min (cfgMaxGen x.live) c.gen
    (x.state = .training) ∧
    (g = 0 ∨ ls = 0)) ∧
  (∃ p : Nat, ∃ c : Caps, ∃ s : State, let x := portOf s p
    let common := usableLanes x &&& (c.lanes % 16)
    let ls := chosenLanes common c.three
    let g := min (cfgMaxGen x.live) c.gen
    (x.state = .retraining) ∧
    (g = 0 ∨ ls = 0)) ∧
  (∃ p : Nat, ∃ s : State, let x := portOf s p
    (x.state = .down)) ∧
  (∃ p : Nat, ∃ s : State, let x := portOf s p
    (x.state = .up)) ∧
  (∃ p : Nat, ∃ c : Caps, ∃ s : State, let x := portOf s p
    let common := usableLanes x &&& (c.lanes % 16)
    (x.state = .vigil) ∧
    (laneCount common ≤ 1 ∨ s.power = .vigil ∨ s.flt.safeHalt = true)) ∧
  (∃ p : Nat, ∃ c : Caps, ∃ s : State, let x := portOf s p
    let common := usableLanes x &&& (c.lanes % 16)
    let ls := chosenLanes common c.three
    (x.state = .vigil) ∧
    (let h := min (cfgMaxGen x.cfg) c.gen
    (1 < laneCount common) ∧
    (s.power ≠ .vigil) ∧
    (s.flt.safeHalt = false) ∧
    (h = 0 ∨ ls = 0))) ∧
  (∃ p : Nat, ∃ c : Caps, ∃ s : State, let x := portOf s p
    let common := usableLanes x &&& (c.lanes % 16)
    let ls := chosenLanes common c.three
    (x.state = .vigil) ∧
    (let h := min (cfgMaxGen x.cfg) c.gen
    (1 < laneCount common) ∧
    (s.power ≠ .vigil) ∧
    (s.flt.safeHalt = false) ∧
    (h ≠ 0) ∧
    (ls ≠ 0))) ∧
  (∃ p : Nat, ∃ s : State, let x := portOf s p
    (x.capsSeen = true) ∧
    (x.state = .training)) ∧
  (∃ p : Nat, ∃ s : State, let x := portOf s p
    (x.capsSeen = true) ∧
    (x.state = .retraining)) ∧
  (∃ p : Nat, ∃ s : State, let x := portOf s p
    let trains := x.state = .training ∨ x.state = .retraining
    (x.state ≠ .down) ∧
    (x.capsSeen = false ∨ ¬ trains)) := by
  refine ⟨?_, ?_, ?_, ?_, ?_, ?_, ?_, ?_, ?_, ?_, ?_, ?_, ?_, ?_, ?_, ?_, ?_, ?_⟩
  · refine ⟨2, 0x3E7, linked upPort, ?_⟩; decide +kernel
  · refine ⟨2, 0, linked upPort, ?_⟩; decide +kernel
  · refine ⟨12, linked upPort, ?_⟩; decide +kernel
  · refine ⟨2, linked { cfg := 0x307 }, ?_⟩; dsimp only <;> decide +kernel
  · refine ⟨2, linked upPort, ?_⟩; dsimp only <;> decide +kernel
  · refine ⟨2, linked { state := .training, cfg := 0x307, live := 0x307, trainAt := 500 }, ?_⟩; dsimp only <;> decide +kernel
  · refine ⟨2, linked upPort, ?_⟩; dsimp only <;> decide +kernel
  · refine ⟨2, { gen := 3, lanes := 15, three := true, dev := 5 }, linked { state := .training, cfg := 0x307, live := 0x307, trainAt := 500 }, ?_⟩; dsimp only <;> decide +kernel
  · refine ⟨2, { gen := 3, lanes := 8, three := true, dev := 5 }, linked { state := .training, cfg := 0x307, live := 0x307, trainAt := 500 }, ?_⟩; dsimp only <;> decide +kernel
  · refine ⟨2, { gen := 2, lanes := 8, three := true, dev := 5 }, linked { upPort with state := .retraining, capsSeen := true, buffer := [keptFlit 1] }, ?_⟩; dsimp only <;> decide +kernel
  · refine ⟨12, linked upPort, ?_⟩; dsimp only <;> decide +kernel
  · refine ⟨2, linked upPort, ?_⟩; dsimp only <;> decide +kernel
  · refine ⟨2, { gen := 2, lanes := 4, three := true, dev := 5 }, linked { upPort with state := .vigil, lanes := 1 }, ?_⟩; dsimp only <;> decide +kernel
  · refine ⟨2, { gen := 2, lanes := 3, three := true, dev := 5 }, linked { upPort with state := .vigil, lanes := 1 }, ?_⟩; dsimp only <;> decide +kernel
  · refine ⟨2, { gen := 2, lanes := 7, three := true, dev := 5 }, linked { upPort with state := .vigil, lanes := 1 }, ?_⟩; dsimp only <;> decide +kernel
  · refine ⟨2, linked { state := .training, cfg := 0x307, live := 0x307, trainAt := 500, capsSeen := true, lanes := 7, gen := 2 }, ?_⟩; dsimp only <;> decide +kernel
  · refine ⟨2, linked { upPort with state := .retraining, capsSeen := true, buffer := [keptFlit 1] }, ?_⟩; dsimp only <;> decide +kernel
  · refine ⟨2, linked upPort, ?_⟩; dsimp only <;> decide +kernel

/-- States that meet the premises of FlitsAreChecked. -/
theorem test_meets_FlitsAreChecked :
  (∃ p : Nat, ∃ s : State, let x := portOf s p
    (carries x = false)) ∧
  (∃ p : Nat, ∃ s : State, let x := portOf s p
    (carries x = true)) ∧
  (∃ p : Nat, ∃ f : Flit, ∃ s : State, let x := portOf s p
    let next := f.seq % 4096 = (x.recvSeq + 1) % 4096
    (carries x = true) ∧
    (f.errs = []) ∧
    (x.crcFail < 2 ^ 32) ∧
    ((∀ l, l < 4 → laneOver x s.now l = false)) ∧
    (flitSound f = true) ∧
    (next) ∧
    (f.nak = false) ∧
    (x.sendq = [])) ∧
  (∃ p : Nat, ∃ f : Flit, ∃ s : State, ∃ q, let x := portOf s p
    let kept := x.window.filter (fun w => decide (s.now < w.1 + 1000000000))
    let next := f.seq % 4096 = (x.recvSeq + 1) % 4096
    let acked := takeAck x f.ack
    (carries x = true) ∧
    (f.errs = []) ∧
    (x.crcFail < 2 ^ 32) ∧
    ((∀ l, l < 4 → laneOver x s.now l = false)) ∧
    (flitSound f = true) ∧
    (next) ∧
    (f.nak = false) ∧
    (let y := { acked with window := kept, recvSeq := f.seq % 4096, discarding := false, fails := 0, lastValid := s.now, rx := x.rx + 272 }
    (x.sendq = [q]) ∧
    (q.vc ≤ 4) ∧
    (q.sent = 0) ∧
    (q.flits = 1) ∧
    (mayLeave y q = true) ∧
    (acked.buffer.length < 1024))) ∧
  (∃ p : Nat, ∃ f : Flit, ∃ s : State, let x := portOf s p
    let next := f.seq % 4096 = (x.recvSeq + 1) % 4096
    let acked := takeAck x f.ack
    (carries x = true) ∧
    (f.errs = []) ∧
    (x.crcFail < 2 ^ 32) ∧
    ((∀ l, l < 4 → laneOver x s.now l = false)) ∧
    (flitSound f = true) ∧
    (next) ∧
    (f.nak = true) ∧
    (x.sendq = []) ∧
    (carriedFlits acked ≠ 0)) ∧
  (∃ p : Nat, ∃ f : Flit, ∃ s : State, let x := portOf s p
    let next := f.seq % 4096 = (x.recvSeq + 1) % 4096
    (carries x = true) ∧
    (f.errs = []) ∧
    (x.crcFail < 2 ^ 32) ∧
    ((∀ l, l < 4 → laneOver x s.now l = false)) ∧
    (flitSound f = false) ∧
    ((x.discarding = false ∨ next)) ∧
    (x.fails < 2)) ∧
  (∃ p : Nat, ∃ f : Flit, ∃ s : State, let x := portOf s p
    let next := f.seq % 4096 = (x.recvSeq + 1) % 4096
    (carries x = true) ∧
    (f.errs = []) ∧
    (x.crcFail < 2 ^ 32) ∧
    ((∀ l, l < 4 → laneOver x s.now l = false)) ∧
    (flitSound f = false) ∧
    ((x.discarding = false ∨ next)) ∧
    (2 ≤ x.fails)) ∧
  (∃ p : Nat, ∃ f : Flit, ∃ s : State, let x := portOf s p
    let next := f.seq % 4096 = (x.recvSeq + 1) % 4096
    (carries x = true) ∧
    (f.errs = []) ∧
    (x.crcFail < 2 ^ 32) ∧
    ((∀ l, l < 4 → laneOver x s.now l = false)) ∧
    (flitSound f = true) ∧
    (¬ next) ∧
    (x.discarding = false) ∧
    (x.fails < 3)) ∧
  (∃ p : Nat, ∃ f : Flit, ∃ s : State, let x := portOf s p
    let next := f.seq % 4096 = (x.recvSeq + 1) % 4096
    (carries x = true) ∧
    (f.errs = []) ∧
    (x.crcFail < 2 ^ 32) ∧
    ((∀ l, l < 4 → laneOver x s.now l = false)) ∧
    (¬ next) ∧
    (x.discarding = true)) ∧
  (∃ p : Nat, ∃ s : State, ∃ ack, let x := portOf s p
    (carries x = true) ∧
    (x.sendq = []) ∧
    (let y := takeAck x ack
    (carriedFlits y ≠ 0))) ∧
  (∃ p : Nat, ∃ s : State, ∃ ack, let x := portOf s p
    (carries x = true) ∧
    (x.sendq = []) ∧
    (let y := takeAck x ack
    (carriedFlits y = 0))) := by
  refine ⟨?_, ?_, ?_, ?_, ?_, ?_, ?_, ?_, ?_, ?_, ?_⟩
  · refine ⟨3, linked upPort, ?_⟩; dsimp only <;> decide +kernel
  · refine ⟨2, linked { upPort with recvSeq := 4095, ackedSeq := 1, buffer := [keptFlit 2, keptFlit 3, keptFlit 4] }, ?_⟩; dsimp only <;> decide +kernel
  · refine ⟨2, flit { seq := 4096, ack := 3, crc := 0 }, linked { upPort with recvSeq := 4095, ackedSeq := 1, buffer := [keptFlit 2, keptFlit 3, keptFlit 4] }, ?_⟩; dsimp only; exact ⟨by decide +kernel, by decide +kernel, by decide +kernel, by decide +kernel, flit_sound _, by decide +kernel, by decide +kernel, by decide +kernel⟩
  · refine ⟨2, flit { seq := 4096, ack := 3, crc := 0 }, linked { upPort with recvSeq := 4095, ackedSeq := 1, sendSeq := 4, buffer := [keptFlit 2, keptFlit 3, keptFlit 4], sendq := [{ vc := 0, out := .msix 3, flits := 1 }] }, { vc := 0, out := .msix 3, flits := 1 }, ?_⟩; dsimp only; exact ⟨by decide +kernel, by decide +kernel, by decide +kernel, by decide +kernel, flit_sound _, by decide +kernel, by decide +kernel, by decide +kernel, by decide +kernel, by decide +kernel, by decide +kernel, by decide +kernel, by decide +kernel⟩
  · refine ⟨2, flit { seq := 4096, ack := 3, nak := true, crc := 0 }, linked { upPort with recvSeq := 4095, ackedSeq := 1, buffer := [keptFlit 2, keptFlit 3, keptFlit 4] }, ?_⟩; dsimp only; exact ⟨by decide +kernel, by decide +kernel, by decide +kernel, by decide +kernel, flit_sound _, by decide +kernel, by decide +kernel, by decide +kernel, by decide +kernel⟩
  · refine ⟨2, badFlit { seq := 1, ack := 3, crc := 0 }, linked { upPort with fails := 1 }, ?_⟩; dsimp only; exact ⟨by decide +kernel, by decide +kernel, by decide +kernel, by decide +kernel, flit_bad _, by decide +kernel, by decide +kernel⟩
  · refine ⟨2, badFlit { seq := 1, ack := 3, crc := 0 }, linked { upPort with fails := 2, buffer := [keptFlit 1] }, ?_⟩; dsimp only; exact ⟨by decide +kernel, by decide +kernel, by decide +kernel, by decide +kernel, flit_bad _, by decide +kernel, by decide +kernel⟩
  · refine ⟨2, flit { seq := 9, ack := 3, crc := 0 }, linked { upPort with recvSeq := 4 }, ?_⟩; dsimp only; exact ⟨by decide +kernel, by decide +kernel, by decide +kernel, by decide +kernel, flit_sound _, by decide +kernel, by decide +kernel, by decide +kernel⟩
  · refine ⟨2, flit { seq := 9, ack := 3, crc := 0 }, linked { upPort with recvSeq := 4, discarding := true, fails := 1 }, ?_⟩; dsimp only <;> decide +kernel
  · refine ⟨2, linked { upPort with ackedSeq := 1, buffer := [keptFlit 2, keptFlit 3, keptFlit 4] }, 3, ?_⟩; dsimp only <;> decide +kernel
  · refine ⟨2, linked { upPort with ackedSeq := 1, buffer := [keptFlit 2, keptFlit 3, keptFlit 4] }, 4, ?_⟩; dsimp only <;> decide +kernel

/-- States that meet the premises of LinksFailAndLoseLanes. -/
theorem test_meets_LinksFailAndLoseLanes :
  (∃ p : Nat, ∃ s : State, let x := portOf s p
    (x.state = .up)) ∧
  (∃ p : Nat, ∃ s : State, let x := portOf s p
    (x.state ≠ .up)) ∧
  (∃ p : Nat, ∃ s : State, let x := portOf s p
    (x.state = .retraining)) ∧
  (∃ p : Nat, ∃ s : State, let x := portOf s p
    (x.state ≠ .retraining)) ∧
  (∃ p : Nat, ∃ lane : Nat, ∃ s : State, ∃ accept, let x := portOf s p
    (x.state = .up) ∧
    (bit x.lanes lane = true) ∧
    (laneCount x.lanes = 4) ∧
    (x.retiring ≠ some lane ∨ accept = true)) ∧
  (∃ p : Nat, ∃ lane : Nat, ∃ s : State, ∃ accept, let x := portOf s p
    (x.state = .up) ∧
    (bit x.lanes lane = true) ∧
    ((x.retiring = some lane ∧ accept = false) ∨ laneCount x.lanes ≠ 4)) ∧
  (∃ p : Nat, ∃ lane : Nat, ∃ s : State, let x := portOf s p
    (bit x.lanes lane = false)) := by
  refine ⟨?_, ?_, ?_, ?_, ?_, ?_, ?_⟩
  · refine ⟨2, linked upPort, ?_⟩; dsimp only <;> decide +kernel
  · refine ⟨2, linked { upPort with state := .retraining, trainAt := 400 }, ?_⟩; dsimp only <;> decide +kernel
  · refine ⟨2, linked { upPort with state := .retraining, trainAt := 400 }, ?_⟩; dsimp only <;> decide +kernel
  · refine ⟨2, linked upPort, ?_⟩; dsimp only <;> decide +kernel
  · refine ⟨2, 1, linked upPort, true, ?_⟩; dsimp only <;> decide +kernel
  · refine ⟨2, 1, linked { upPort with lanes := 7, retired := 8 }, true, ?_⟩; dsimp only <;> decide +kernel
  · refine ⟨2, 3, linked { upPort with lanes := 7, retired := 8 }, ?_⟩; dsimp only <;> decide +kernel

/-- States that meet the premises of EchoAndWake. -/
theorem test_meets_EchoAndWake :
  (∃ p : Nat, ∃ s : State, let x := portOf s p
    (carries x = false)) ∧
  (∃ p : Nat, ∃ s : State, let x := portOf s p
    (carries x = true)) ∧
  (∃ p : Nat, ∃ s : State, let x := portOf s p
    (carries x = true) ∧
    (x.echoOut = true)) ∧
  (∃ p : Nat, ∃ s : State, let x := portOf s p
    (carries x = true) ∧
    (x.echoOut = false)) ∧
  (∃ p : Nat, ∃ s : State, let x := portOf s p
    (carries x = true) ∧
    (bit x.live.toNat 7 = true) ∧
    (s.power = .doze) ∧
    (s.powerNext = none) ∧
    (s.boot.steps = []) ∧
    (tramsOff s = false)) ∧
  (∃ p : Nat, ∃ s : State, let x := portOf s p
    (carries x = true) ∧
    (bit x.live.toNat 7 = true) ∧
    (s.power = .vigil) ∧
    (s.powerNext = none) ∧
    (s.boot.steps = []) ∧
    (tramsOff s = false)) ∧
  (∃ p : Nat, ∃ s : State, let x := portOf s p
    (carries x = true) ∧
    (bit x.live.toNat 7 = false ∨ asleep s = false ∨ s.powerNext ≠ none ∨ s.boot.steps ≠ [] ∨ tramsOff s = true)) := by
  refine ⟨?_, ?_, ?_, ?_, ?_, ?_, ?_⟩
  · refine ⟨3, linked upPort, ?_⟩; dsimp only <;> decide +kernel
  · refine ⟨2, { linked { upPort with echoOut := true, echoAt := some 50 } with power := .doze }, ?_⟩; dsimp only <;> decide +kernel
  · refine ⟨2, { linked { upPort with echoOut := true, echoAt := some 50 } with power := .doze }, ?_⟩; dsimp only <;> decide +kernel
  · refine ⟨2, linked upPort, ?_⟩; dsimp only <;> decide +kernel
  · refine ⟨2, { linked { upPort with echoOut := true, echoAt := some 50 } with power := .doze }, ?_⟩; dsimp only <;> decide +kernel
  · refine ⟨2, { linked upPort with power := .vigil }, ?_⟩; dsimp only <;> decide +kernel
  · refine ⟨2, linked upPort, ?_⟩; dsimp only <;> decide +kernel

/-- States that meet the premises of MessagesAreRouted. -/
theorem test_meets_MessagesAreRouted :
  (∃ p : Nat, ∃ s : State, let x := portOf s p
    (carries x = false)) ∧
  (∃ p : Nat, ∃ m : FabMsg, ∃ s : State, let x := portOf s p
    (carries x = true) ∧
    (consumes s m = true) ∧
    (x.state = .vigil) ∧
    (m.typ = 0x31 ∨ m.typ = 0x32)) ∧
  (∃ p : Nat, ∃ m : FabMsg, ∃ s : State, let x := portOf s p
    (consumes s m = true) ∧
    (x.state ≠ .vigil ∨ (m.typ ≠ 0x31 ∧ m.typ ≠ 0x32))) ∧
  (∃ p : Nat, ∃ m : FabMsg, ∃ s : State, let x := portOf s p
    (carries x = true) ∧
    (consumes s m = false) ∧
    (s.fabId = 0xFFF ∨ carriesType x m.typ = false ∨ m.ttl = 0 ∨ s.power = .vigil ∨ routePort s m.dst = none)) ∧
  (∃ p : Nat, ∃ m : FabMsg, ∃ s : State, ∃ q, let x := portOf s p
    (carries x = true) ∧
    (consumes s m = false) ∧
    (routePort s m.dst = some q) ∧
    (takesType (portOf s q) m.typ = false)) ∧
  (∃ p : Nat, ∃ m : FabMsg, ∃ s : State, ∃ q, let x := portOf s p
    (carries x = true) ∧
    (consumes s m = false) ∧
    (s.fabId ≠ 0xFFF) ∧
    (carriesType x m.typ = true) ∧
    (0 < m.ttl) ∧
    (s.power ≠ .vigil) ∧
    (routePort s m.dst = some q) ∧
    (Sendable (portOf s q) m)) ∧
  (∃ p : Nat, ∃ m : FabMsg, ∃ s : State, ∃ q, let x := portOf s p
    (carries x = true) ∧
    (consumes s m = false) ∧
    (s.fabId ≠ 0xFFF) ∧
    (carriesType x m.typ = true) ∧
    (0 < m.ttl) ∧
    (s.power ≠ .vigil) ∧
    (routePort s m.dst = some q) ∧
    ((portOf s q).state = .retraining) ∧
    (genCarries (portOf s q).gen m.typ = true)) ∧
  (∃ m : FabMsg, ∃ s : State, (m.typ ≠ 0x20 ∨ consumes s m = false)) ∧
  (∃ p : Nat, ∃ m : FabMsg, ∃ s : State, let x := portOf s p
    (m.typ = 0x20) ∧
    (carries x = true) ∧
    (consumes s m = true) ∧
    (received s p m = false ∨ bit x.live.toNat 6 = false)) ∧
  (∃ p : Nat, ∃ m : FabMsg, ∃ s : State, let x := portOf s p
    (m.typ = 0x20) ∧
    (carries x = true) ∧
    (consumes s m = true) ∧
    (received s p m = true) ∧
    (bit x.live.toNat 6 = true)) ∧
  (∃ p : Nat, ∃ m : FabMsg, ∃ s : State, let x := portOf s p
    (m.typ = 0x20) ∧
    (carries x = true) ∧
    (consumes s m = true) ∧
    (received s p m = true) ∧
    (bit x.live.toNat 6 = true) ∧
    (let k := field m.spec 0 2 % 1024
    let n := field m.spec 4 4
    let z := tallyOf s .device 0 k
    (Fresh z s.now) ∧
    (z.waiters = []) ∧
    (field m.spec 2 1 ≠ 1) ∧
    (z.count + n < 2 ^ 32))) ∧
  (∃ p : Nat, ∃ m : FabMsg, ∃ s : State, let x := portOf s p
    (m.typ = 0x20) ∧
    (carries x = true) ∧
    (consumes s m = true) ∧
    (received s p m = true) ∧
    (bit x.live.toNat 6 = true) ∧
    (let k := field m.spec 0 2 % 1024
    let n := field m.spec 4 4
    let z := tallyOf s .device 0 k
    (Fresh z s.now) ∧
    (z.waiters = []) ∧
    (field m.spec 2 1 = 1) ∧
    (n ≤ z.count))) := by
  refine ⟨?_, ?_, ?_, ?_, ?_, ?_, ?_, ?_, ?_, ?_, ?_, ?_⟩
  · refine ⟨2, { linked upPort with ports := [(2, { upPort with state := .retraining }), (7, upPort)] }, ?_⟩; dsimp only <;> decide +kernel
  · refine ⟨2, fabTo 0x31 9 [] [], linked { upPort with state := .vigil }, ?_⟩; dsimp only <;> decide +kernel
  · refine ⟨2, fabTo 0x20 9 (toBytes 2 8 ++ [0, 0] ++ toBytes 4 3) [], linked upPort, ?_⟩; dsimp only <;> decide +kernel
  · refine ⟨2, fabTo 0x01 8 [] [1, 2], linked upPort, ?_⟩; dsimp only <;> decide +kernel
  · refine ⟨7, fabTo 0x01 5 [] [1, 2], { linked upPort with ports := [(2, { upPort with state := .down }), (7, upPort)] }, 2, ?_⟩; dsimp only <;> decide +kernel
  · refine ⟨2, fabTo 0x01 6 [] [1, 2], linked upPort, 7, ?_⟩; dsimp only <;> (unfold Sendable; decide +kernel)
  · refine ⟨7, fabTo 0x01 5 [] [1, 2], { linked upPort with ports := [(2, { upPort with state := .retraining }), (7, upPort)] }, 2, ?_⟩; dsimp only <;> decide +kernel
  · refine ⟨fabTo 0x01 6 [] [1, 2], linked upPort, ?_⟩; decide +kernel
  · refine ⟨2, fabTo 0x20 9 (toBytes 2 8 ++ [1, 0] ++ toBytes 4 3) [], linked { upPort with live := 0x307 }, ?_⟩; dsimp only <;> decide +kernel
  · refine ⟨2, fabTo 0x20 9 (toBytes 2 8 ++ [0, 0] ++ toBytes 4 3) [], linked upPort, ?_⟩; dsimp only <;> decide +kernel
  · refine ⟨2, fabTo 0x20 9 (toBytes 2 8 ++ [0, 0] ++ toBytes 4 3) [], linked upPort, ?_⟩; dsimp only <;> (simp only [fresh_iff]; decide +kernel)
  · refine ⟨2, fabTo 0x20 9 (toBytes 2 8 ++ [1, 0] ++ toBytes 4 3) [], { linked upPort with devTallies := [(8, { count := 5 })] }, ?_⟩; dsimp only <;> (simp only [fresh_iff]; decide +kernel)

/-- States that meet the premises of BulkEntriesAreSent. -/
theorem test_meets_BulkEntriesAreSent :
  (∃ tag : Nat, ∃ i : Nat, ∃ p : Nat, ∃ c : Cmd, ∃ b : Bulk, ∃ s : State, ∃ ecc : Ecc, (bulkAt s tag i = some (c, b)) ∧
    ((∀ d ∈ s.cmds, d.order = c.order → d = c)) ∧
    ((∀ d ∈ s.cmds, d.tag = tag → isRunning d = true → d = c)) ∧
    (routePort s b.dst = some p) ∧
    (b.put = true) ∧
    (b.state = 0) ∧
    (s.fabId ≠ 0xFFF) ∧
    (carriesType (portOf s p) 0x01 = true) ∧
    (tramsOff s = false) ∧
    (earlierDone c i b (fun e => decide (1 ≤ e.state)) = true) ∧
    (let u := readEcc s b.src ecc
    (readFault u b.src b.length ecc = none))) ∧
  (∃ tag : Nat, ∃ i : Nat, ∃ p : Nat, ∃ c : Cmd, ∃ b : Bulk, ∃ s : State, ∃ ecc : Ecc, (bulkAt s tag i = some (c, b)) ∧
    ((∀ d ∈ s.cmds, d.order = c.order → d = c)) ∧
    ((∀ d ∈ s.cmds, d.tag = tag → isRunning d = true → d = c)) ∧
    (routePort s b.dst = some p) ∧
    (b.put = true) ∧
    (b.state = 0) ∧
    (s.fabId ≠ 0xFFF) ∧
    (carriesType (portOf s p) 0x01 = true) ∧
    (tramsOff s = false) ∧
    (earlierDone c i b (fun e => decide (1 ≤ e.state)) = true) ∧
    (let u := readEcc s b.src ecc
    ((readFault u b.src b.length ecc).isSome = true))) ∧
  (∃ tag : Nat, ∃ i : Nat, ∃ p : Nat, ∃ c : Cmd, ∃ b : Bulk, ∃ s : State, (bulkAt s tag i = some (c, b)) ∧
    ((∀ d ∈ s.cmds, d.order = c.order → d = c)) ∧
    ((∀ d ∈ s.cmds, d.tag = tag → isRunning d = true → d = c)) ∧
    (routePort s b.dst = some p) ∧
    (b.put = false) ∧
    (b.state = 0) ∧
    (s.fabId ≠ 0xFFF) ∧
    (carriesType (portOf s p) 0x20 = true) ∧
    (earlierDone c i b (fun e => decide (2 ≤ e.state)) = true)) ∧
  (∃ tag : Nat, ∃ i : Nat, ∃ p : Nat, ∃ c : Cmd, ∃ b : Bulk, ∃ s : State, (bulkAt s tag i = some (c, b)) ∧
    ((∀ d ∈ s.cmds, d.order = c.order → d = c)) ∧
    ((∀ d ∈ s.cmds, d.tag = tag → isRunning d = true → d = c)) ∧
    (carries (portOf s p) = true) ∧
    ((portOf s p).state ≠ .vigil) ∧
    (s.fabId ≠ 0xFFF) ∧
    (b.state = 1)) ∧
  (∃ tag : Nat, ∃ i : Nat, ∃ c : Cmd, ∃ b : Bulk, ∃ s : State, (bulkAt s tag i = some (c, b)) ∧
    ((∀ d ∈ s.cmds, d.order = c.order → d = c)) ∧
    ((∀ d ∈ s.cmds, d.tag = tag → isRunning d = true → d = c)) ∧
    (b.state ≠ 0 ∨ s.fabId = 0xFFF ∨ routePort s b.dst = none)) ∧
  (∃ tag : Nat, ∃ i : Nat, ∃ p : Nat, ∃ c : Cmd, ∃ b : Bulk, ∃ s : State, (bulkAt s tag i = some (c, b)) ∧
    ((∀ d ∈ s.cmds, d.order = c.order → d = c)) ∧
    ((∀ d ∈ s.cmds, d.tag = tag → isRunning d = true → d = c)) ∧
    (carries (portOf s p) = false)) ∧
  (∃ tag : Nat, ∃ i : Nat, ∃ p : Nat, ∃ c : Cmd, ∃ b : Bulk, ∃ s : State, (bulkAt s tag i = some (c, b)) ∧
    ((∀ d ∈ s.cmds, d.order = c.order → d = c)) ∧
    ((∀ d ∈ s.cmds, d.tag = tag → isRunning d = true → d = c)) ∧
    (carries (portOf s p) = true) ∧
    ((portOf s p).state = .vigil ∨ s.fabId = 0xFFF)) ∧
  (∃ tag : Nat, ∃ i : Nat, ∃ p : Nat, ∃ c : Cmd, ∃ b : Bulk, ∃ s : State, (bulkAt s tag i = some (c, b)) ∧
    ((∀ d ∈ s.cmds, d.order = c.order → d = c)) ∧
    ((∀ d ∈ s.cmds, d.tag = tag → isRunning d = true → d = c)) ∧
    (carries (portOf s p) = true) ∧
    ((portOf s p).state ≠ .vigil) ∧
    (s.fabId ≠ 0xFFF) ∧
    (b.state ≠ 1)) := by
  refine ⟨?_, ?_, ?_, ?_, ?_, ?_, ?_, ?_⟩
  · refine ⟨5, 0, 2, bulkCmd true 0, theBulk true 0, { linked upPort with cmds := [bulkCmd true 0] }, .clean, ?_⟩; dsimp only <;> decide +kernel
  · refine ⟨5, 0, 2, bulkCmd true 0, theBulk true 0, { linked upPort with cmds := [bulkCmd true 0], stackTab := [(0, { poison := [130] })] }, .clean, ?_⟩; dsimp only <;> decide +kernel
  · refine ⟨5, 0, 2, bulkCmd false 0, theBulk false 0, { linked upPort with cmds := [bulkCmd false 0] }, ?_⟩; decide +kernel
  · refine ⟨5, 0, 2, bulkCmd true 1, theBulk true 1, { linked upPort with cmds := [bulkCmd true 1] }, ?_⟩; decide +kernel
  · refine ⟨5, 0, bulkCmd true 1, theBulk true 1, { linked upPort with cmds := [bulkCmd true 1] }, ?_⟩; decide +kernel
  · refine ⟨5, 0, 3, bulkCmd true 1, theBulk true 1, { linked upPort with cmds := [bulkCmd true 1] }, ?_⟩; decide +kernel
  · refine ⟨5, 0, 2, bulkCmd true 1, theBulk true 1, { linked { upPort with state := .vigil } with cmds := [bulkCmd true 1] }, ?_⟩; decide +kernel
  · refine ⟨5, 0, 2, bulkCmd true 2, theBulk true 2, { linked upPort with cmds := [bulkCmd true 2] }, ?_⟩; decide +kernel

/-- States that meet the premises of BulkDataLands. -/
theorem test_meets_BulkDataLands :
  (∃ p : Nat, ∃ base : Nat, ∃ size : Nat, ∃ done : Nat, ∃ m : FabMsg, ∃ s : State, let carried := bit (field m.spec 6 1) 6
    let w := field m.spec 6 1 % 64
    let n := if carried then m.payload.length / 4104 * 4096 else m.payload.length
    let off := 64 * field m.spec 7 8
    let len := 64 * field m.spec 15 4
    let pos := putChunk * field m.spec 19 1
    let refusing := landFor s w m.src = none ∨ (landFor s w m.src = some (base, size, done) ∧ (size < off + len ∨ len < pos + n ∨
    refusedWrite s .bulk (base + off) len = true))
    (m.typ = 0x01 ∨ m.typ = 0x02) ∧
    (received s p m = true) ∧
    (tramsOff s = false) ∧
    (refusing)) ∧
  (∃ p : Nat, ∃ base : Nat, ∃ size : Nat, ∃ done : Nat, ∃ m : FabMsg, ∃ s : State, let carried := bit (field m.spec 6 1) 6
    let w := field m.spec 6 1 % 64
    let n := if carried then m.payload.length / 4104 * 4096 else m.payload.length
    let off := 64 * field m.spec 7 8
    let len := 64 * field m.spec 15 4
    let pos := putChunk * field m.spec 19 1
    let pa := base + off + pos
    (m.typ = 0x01 ∨ m.typ = 0x02) ∧
    (received s p m = true) ∧
    (tramsOff s = false) ∧
    (landFor s w m.src = some (base, size, done)) ∧
    (off + len ≤ size) ∧
    (pos + n ≤ len) ∧
    (refusedWrite s .bulk (base + off) len = false) ∧
    ((0 < n → inHbm s pa n = true))) ∧
  (∃ p : Nat, ∃ m : FabMsg, ∃ s : State, let x := portOf s p
    ((m.typ ≠ 0x01 ∧ m.typ ≠ 0x02) ∨ carries x = false ∨ consumes s m = false)) ∧
  (∃ p : Nat, ∃ m : FabMsg, ∃ s : State, let x := portOf s p
    (m.typ = 0x01 ∨ m.typ = 0x02) ∧
    (carries x = true) ∧
    (consumes s m = true) ∧
    (received s p m = false ∨ tramsOff s = true)) ∧
  (∃ p : Nat, ∃ s : State, let x := portOf s p
    (carries x = false)) ∧
  (∃ p : Nat, ∃ s : State, let x := portOf s p
    (carries x = true) ∧
    (x.state = .vigil ∨ s.fabId = 0xFFF)) ∧
  (∃ p : Nat, ∃ s : State, let x := portOf s p
    (carries x = true) ∧
    (x.state ≠ .vigil) ∧
    (s.fabId ≠ 0xFFF)) := by
  refine ⟨?_, ?_, ?_, ?_, ?_, ?_, ?_⟩
  · refine ⟨2, 0x10000, 4096, 9, putData 1 63 2 0 (List.replicate 64 7), linked upPort, ?_⟩; dsimp only <;> decide +kernel
  · refine ⟨2, 0x10000, 4096, 9, putData 1 63 1 0 (List.replicate 64 7), linked upPort, ?_⟩; dsimp only <;> decide +kernel
  · refine ⟨3, putData 1 0 1 0 [], linked upPort, ?_⟩; dsimp only <;> decide +kernel
  · refine ⟨2, putData 1 0 1 0 [], linked { upPort with state := .vigil }, ?_⟩; dsimp only <;> decide +kernel
  · refine ⟨3, linked upPort, ?_⟩; dsimp only <;> decide +kernel
  · refine ⟨2, linked { upPort with state := .vigil }, ?_⟩; dsimp only <;> decide +kernel
  · refine ⟨2, { linked upPort with puts := [(5, 77)] }, ?_⟩; dsimp only <;> decide +kernel

/-- States that meet the premises of QueriesAreDelivered. -/
theorem test_meets_QueriesAreDelivered :
  (∃ p : Nat, ∃ m : FabMsg, ∃ s : State, let x := portOf s p
    (m.typ ≠ 0x30 ∨ carries x = false ∨ consumes s m = false)) ∧
  (∃ p : Nat, ∃ m : FabMsg, ∃ s : State, let x := portOf s p
    (m.typ = 0x30) ∧
    (carries x = true) ∧
    (consumes s m = true) ∧
    (carriesType x 0x30 = false ∨ bit x.live.toNat 5 = false)) ∧
  (∃ p : Nat, ∃ m : FabMsg, ∃ s : State, ∃ r, let x := portOf s p
    let cls := field m.spec 0 1 % 8
    (m.typ = 0x30) ∧
    (carries x = true) ∧
    (consumes s m = true) ∧
    (carriesType x 0x30 = true) ∧
    (bit x.live.toNat 5 = true) ∧
    (voidReason s cls m.payload.length = some r)) ∧
  (∃ p : Nat, ∃ m : FabMsg, ∃ s : State, let x := portOf s p
    let cls := field m.spec 0 1 % 8
    let choice := chooseStope s (headOfPort p) (bits (tget s.qclass 0 cls).toNat 0 16)
    (m.typ = 0x30) ∧
    (carries x = true) ∧
    (consumes s m = true) ∧
    (carriesType x 0x30 = true) ∧
    (bit x.live.toNat 5 = true) ∧
    (voidReason s cls m.payload.length = none) ∧
    (choice = none)) ∧
  (∃ p : Nat, ∃ i : Nat, ∃ k : Nat, ∃ m : FabMsg, ∃ s : State, let x := portOf s p
    let cls := field m.spec 0 1 % 8
    let choice := chooseStope s (headOfPort p) (bits (tget s.qclass 0 cls).toNat 0 16)
    (m.typ = 0x30) ∧
    (carries x = true) ∧
    (consumes s m = true) ∧
    (carriesType x 0x30 = true) ∧
    (bit x.live.toNat 5 = true) ∧
    (voidReason s cls m.payload.length = none) ∧
    (choice = some i) ∧
    (freeQslot s i = some k)) := by
  refine ⟨?_, ?_, ?_, ?_, ?_⟩
  · refine ⟨3, query 5, asking {}, ?_⟩; dsimp only <;> decide +kernel
  · refine ⟨2, query 5, { asking {} with ports := [(2, { upPort with live := 0x347 })] }, ?_⟩; dsimp only <;> decide +kernel
  · refine ⟨2, query 1985, asking {}, 4, ?_⟩; dsimp only <;> decide +kernel
  · refine ⟨2, query 5, { asking {} with qheld := [(0, true)] }, ?_⟩; dsimp only <;> decide +kernel
  · refine ⟨2, 0, 0, query 5, asking {}, ?_⟩; dsimp only <;> decide +kernel

/-- States that meet the premises of AnswersAreCollected. -/
theorem test_meets_AnswersAreCollected :
  (∃ i : Nat, ∃ k : Nat, ∃ s : State, let st := reservedNumber i
    let q := qslotOf s i k
    let out := storeAddr st (outboxOffset k)
    let z := tallyOf s .stope st (48 + k)
    let u := settle s st
    let n := readNat u out 2
    (q.busy = true) ∧
    (i < s.conf.q) ∧
    (k < 16) ∧
    (tramsOff s = false) ∧
    (0 < z.count) ∧
    (q.voided = false) ∧
    (s.now ≤ q.voidAt) ∧
    (n ≤ 1984)) ∧
  (∃ i : Nat, ∃ k : Nat, ∃ s : State, let st := reservedNumber i
    let q := qslotOf s i k
    let out := storeAddr st (outboxOffset k)
    let z := tallyOf s .stope st (48 + k)
    let u := settle s st
    let n := readNat u out 2
    (q.busy = true) ∧
    (i < s.conf.q) ∧
    (k < 16) ∧
    (tramsOff s = false) ∧
    (0 < z.count) ∧
    (q.voided = false) ∧
    (s.now ≤ q.voidAt) ∧
    (1984 < n)) ∧
  (∃ i : Nat, ∃ k : Nat, ∃ s : State, let st := reservedNumber i
    let q := qslotOf s i k
    let z := tallyOf s .stope st (48 + k)
    (q.busy = true) ∧
    (i < s.conf.q) ∧
    (k < 16) ∧
    (tramsOff s = false) ∧
    (0 < z.count) ∧
    (q.voided = true)) ∧
  (∃ i : Nat, ∃ k : Nat, ∃ s : State, let st := reservedNumber i
    let q := qslotOf s i k
    let z := tallyOf s .stope st (48 + k)
    (q.busy = true) ∧
    (i < s.conf.q) ∧
    (k < 16) ∧
    (tramsOff s = false) ∧
    (0 < z.count) ∧
    (q.voided = false) ∧
    (q.voidAt < s.now)) ∧
  (∃ i : Nat, ∃ k : Nat, ∃ s : State, let q := qslotOf s i k
    (q.busy = false ∨ q.voided = true)) ∧
  (∃ i : Nat, ∃ k : Nat, ∃ s : State, let q := qslotOf s i k
    (q.busy = true) ∧
    (q.voided = false)) := by
  refine ⟨?_, ?_, ?_, ?_, ?_, ?_⟩
  · refine ⟨0, 1, { asking heldQ with stopes := [(19, { tallies := [(49, { count := 1 })] })] }, ?_⟩; dsimp only <;> decide +kernel
  · refine ⟨0, 1, { withMem (asking heldQ) (storeAddr 19 (outboxOffset 1)) [0xC1, 7] with stopes := [(19, { tallies := [(49, { count := 1 })] })] }, ?_⟩; dsimp only <;> decide +kernel
  · refine ⟨0, 1, { asking { heldQ with voided := true } with stopes := [(19, { tallies := [(49, { count := 1 })] })] }, ?_⟩; dsimp only <;> decide +kernel
  · refine ⟨0, 1, { asking { heldQ with voidAt := 950 } with stopes := [(19, { tallies := [(49, { count := 1 })] })] }, ?_⟩; dsimp only <;> decide +kernel
  · refine ⟨0, 1, { asking { heldQ with voided := true } with stopes := [(19, { tallies := [(49, { count := 1 })] })] }, ?_⟩; dsimp only <;> decide +kernel
  · refine ⟨0, 1, { asking heldQ with stopes := [(19, { tallies := [(49, { count := 1 })] })] }, ?_⟩; dsimp only <;> decide +kernel

/-- States that meet the premises of I3cAddressesAndCodes. -/
theorem test_meets_I3cAddressesAndCodes :
  (∃ a : Nat, ∃ s : State, ∃ i, (s.pins.vauxOk = false) ∧
    (i ∈ [Instr.i3cEntdaa a, .i3cSetdasa a, .i3cSetnewda a, .i3cRstdaa, .i3cEnec, .i3cDisec, .i3cGetpid, .i3cGetbcr,
    .i3cGetdcr, .i3cGetstatus])) ∧
  (∃ s : State, (s.pins.vauxOk = true) ∧
    (s.i3c.dyn = none)) ∧
  (∃ s : State, ∃ d, (s.pins.vauxOk = true) ∧
    (s.i3c.dyn = some d)) ∧
  (∃ s : State, (s.pins.vauxOk = true)) := by
  refine ⟨?_, ?_, ?_, ?_⟩
  · refine ⟨200, sideDown (ready []), .i3cEnec, ?_⟩; decide +kernel
  · refine ⟨awake (ready []), ?_⟩; decide +kernel
  · refine ⟨{ awake (ready []) with i3c := { dyn := some 4 } }, 4, ?_⟩; decide +kernel
  · refine ⟨awake (ready []), ?_⟩; decide +kernel

/-- States that meet the premises of I3cRegisters. -/
theorem test_meets_I3cRegisters :
  (∃ s : State, (s.pins.vauxOk = false)) ∧
  (∃ i : Nat, ∃ v : Nat, ∃ s : State, (s.pins.vauxOk = true) ∧
    (i < 256) ∧
    (v < 2 ^ 32)) ∧
  (∃ i : Nat, ∃ v : Nat, ∃ s : State, (s.pins.vauxOk = true) ∧
    (i < 256) ∧
    (v < 2 ^ 32) ∧
    (i ≠ 0x14) ∧
    (i ≠ 0x18) ∧
    (i ≠ 0x1C)) ∧
  (∃ i : Nat, ∃ v : Nat, ∃ s : State, ∃ bs : List Byte, (s.pins.vauxOk = true) ∧
    (i < 256) ∧
    (v < 2 ^ 32) ∧
    (bs.length ≠ 1) ∧
    (bs.length ≠ 5)) ∧
  (∃ s : State, ∃ b, (bit s.i3c.alert.toNat b = false)) ∧
  (∃ s : State, (s.pending = [])) := by
  refine ⟨?_, ?_, ?_, ?_, ?_, ?_⟩
  · refine ⟨sideDown (ready []), ?_⟩; decide +kernel
  · refine ⟨0x20, 90, awake (ready []), ?_⟩; decide +kernel
  · refine ⟨0x20, 90, awake (ready []), ?_⟩; decide +kernel
  · refine ⟨0x20, 90, awake (ready []), [1, 2], ?_⟩; decide +kernel
  · refine ⟨awake (ready []), 3, ?_⟩; decide +kernel
  · refine ⟨awake (ready []), ?_⟩; decide +kernel

/-- States that meet the premises of JtagInstructions. -/
theorem test_meets_JtagInstructions :
  (∃ s : State, (s.pins.vauxOk = true)) ∧
  (∃ s : State, (s.pins.vauxOk = true) ∧
    (s.pins.resetLow = false)) ∧
  (∃ s : State, (s.pins.vauxOk = true) ∧
    (s.pins.resetLow = true)) ∧
  (∃ bs : List Bool, ∃ s : State, ∃ i, (s.pins.vauxOk = false) ∧
    (i ∈ [Instr.jtagBypass, .jtagIdcode, .jtagSamplePreload bs, .jtagExtest, .jtagClamp, .jtagHighz])) ∧
  (∃ s : State, (s.pins.vauxOk = false ∨ (s.pins.resetLow = true ∧ s.pins.instr = .highz))) := by
  refine ⟨?_, ?_, ?_, ?_, ?_⟩
  · refine ⟨awake (ready []), ?_⟩; decide +kernel
  · refine ⟨awake (ready []), ?_⟩; decide +kernel
  · refine ⟨{ awake (ready []) with pins := { vauxOk := true, resetLow := true, boundary := [true, false] } }, ?_⟩; decide +kernel
  · refine ⟨[true, false, true], sideDown (ready []), Instr.jtagHighz, ?_⟩; decide +kernel
  · refine ⟨sideDown (ready []), ?_⟩; decide +kernel

/-- States that meet the premises of PowerStatesAreReached. -/
theorem test_meets_PowerStatesAreReached :
  (∃ s : State, (s.power = .full) ∧
    (s.powerNext = none) ∧
    (tramsOff s = false) ∧
    (idleHolds s = true)) ∧
  (∃ s : State, (s.power ≠ .full ∨ s.powerNext ≠ none ∨ tramsOff s = true ∨ idleHolds s = false)) ∧
  (∃ s : State, (s.boot.steps = []) ∧
    (s.powerNext = none)) ∧
  (∃ n : Nat, ∃ s : State, ∃ p, (s.boot.steps = []) ∧
    (s.powerNext = some (p, n)) ∧
    (tramsOff s = true ∨ p = .idle ∨ p = .starting ∨ p = .quenched ∨ (p = .full ∧ s.power ≠ .doze))) ∧
  (∃ n : Nat, ∃ s : State, (s.boot.steps = []) ∧
    (tramsOff s = false) ∧
    (s.powerNext = some (.doze, n))) ∧
  (∃ n : Nat, ∃ s : State, (s.boot.steps = []) ∧
    (tramsOff s = false) ∧
    (s.powerNext = some (.vigil, n))) ∧
  (∃ n : Nat, ∃ s : State, (s.boot.steps = []) ∧
    (tramsOff s = false) ∧
    (s.powerNext = some (.full, n)) ∧
    (s.power = .doze)) := by
  refine ⟨?_, ?_, ?_, ?_, ?_, ?_, ?_⟩
  · refine ⟨{ sup (ready []) with rnd := { round := 7 } }, ?_⟩; decide +kernel
  · refine ⟨{ sup (ready []) with power := .idle }, ?_⟩; decide +kernel
  · refine ⟨{ sup (ready []) with rnd := { round := 7 } }, ?_⟩; decide +kernel
  · refine ⟨9000, { sup (ready []) with powerNext := some (.idle, 9000) }, .idle, ?_⟩; decide +kernel
  · refine ⟨9000, { sup (ready []) with powerNext := some (.doze, 9000) }, ?_⟩; decide +kernel
  · refine ⟨9000, { sup (withMem (ready [cmdAs .queued runDesc]) 0x100 [1]) with powerNext := some (.vigil, 9000) }, ?_⟩; decide +kernel
  · refine ⟨9000, { sup (ready []) with powerNext := some (.full, 9000), power := .doze }, ?_⟩; decide +kernel

/-- States that meet the premises of BringUpProceeds. -/
theorem test_meets_BringUpProceeds :
  (∃ x : BootStep, ∃ rest : List BootStep, ∃ s : State, (s.boot.steps = x :: rest)) := by
  refine ⟨.aon, [.ready], { booting .aon with boot := { steps := [.aon, .ready] } }, ?_⟩; decide +kernel

/-- States that meet the premises of EbbAndQuench. -/
theorem test_meets_EbbAndQuench :
  (∃ s : State, (supervised s = false)) ∧
  (∃ s : State, (supervised s = true) ∧
    (s.ebb = false) ∧
    (s.quench = false)) ∧
  (∃ s : State, (s.ebb = true ∨ s.quench = true)) ∧
  (∃ s : State, (s.ebb = true)) ∧
  (∃ s : State, (s.ebb = false)) ∧
  (∃ s : State, ∃ q : QuenchCause, (supervised s = true) ∧
    ((q = .trip → s.pins.tripLatch = true)) ∧
    (s.quench = true)) ∧
  (∃ s : State, ∃ q : QuenchCause, (supervised s = true) ∧
    ((q = .trip → s.pins.tripLatch = true)) ∧
    (s.quench = false) ∧
    (s.flt.safeHalt = true)) ∧
  (∃ s : State, ∃ q : QuenchCause, (supervised s = true) ∧
    ((q = .trip → s.pins.tripLatch = true)) ∧
    (s.quench = false) ∧
    (s.flt.safeHalt = false) ∧
    (headsUp s = true)) ∧
  (∃ s : State, ∃ q : QuenchCause, (supervised s = true) ∧
    ((q = .trip → s.pins.tripLatch = true)) ∧
    (s.quench = false) ∧
    (s.flt.safeHalt = false) ∧
    (headsUp s = false)) ∧
  (∃ s : State, (s.pins.tripLatch = false)) ∧
  (∃ s : State, (supervised s = true)) ∧
  (∃ s : State, (s.quench = false ∨ s.pins.tripLatch = true ∨ s.flt.safeHalt = true)) ∧
  (∃ s : State, (supervised s = true) ∧
    (s.quench = true) ∧
    (s.pins.tripLatch = false) ∧
    (s.flt.safeHalt = false) ∧
    (s.boot.again = true)) ∧
  (∃ s : State, (supervised s = true) ∧
    (s.quench = true) ∧
    (s.pins.tripLatch = false) ∧
    (s.flt.safeHalt = false) ∧
    (s.boot.again = false) ∧
    (headsUp s = false)) ∧
  (∃ s : State, (supervised s = true) ∧
    (s.quench = true) ∧
    (s.pins.tripLatch = false) ∧
    (s.flt.safeHalt = false) ∧
    (s.boot.again = false) ∧
    (headsUp s = true)) := by
  refine ⟨?_, ?_, ?_, ?_, ?_, ?_, ?_, ?_, ?_, ?_, ?_, ?_, ?_, ?_, ?_⟩
  · refine ⟨ready [], ?_⟩; decide +kernel
  · refine ⟨sup (ready [cmdAs .running runDesc]), ?_⟩; decide +kernel
  · refine ⟨{ sup (ready []) with ebb := true }, ?_⟩; decide +kernel
  · refine ⟨{ sup (ready []) with ebb := true }, ?_⟩; decide +kernel
  · refine ⟨sup (ready [cmdAs .running runDesc]), ?_⟩; decide +kernel
  · refine ⟨{ sup (ready []) with quench := true, power := .quenched }, .vinLow, ?_⟩; decide +kernel
  · refine ⟨{ sup (ready []) with flt := { safeHalt := true } }, .vinLow, ?_⟩; decide +kernel
  · refine ⟨sup (ready [cmdAs .running runDesc]), .vinHigh, ?_⟩; decide +kernel
  · refine ⟨{ sup (ready []) with flt := {} }, .vinLow, ?_⟩; decide +kernel
  · refine ⟨sup (ready [cmdAs .running runDesc]), ?_⟩; decide +kernel
  · refine ⟨sup (ready [cmdAs .running runDesc]), ?_⟩; decide +kernel
  · refine ⟨sup (ready [cmdAs .running runDesc]), ?_⟩; decide +kernel
  · refine ⟨{ sup (ready []) with quench := true, power := .quenched, boot := { aon := true, again := true } }, ?_⟩; decide +kernel
  · refine ⟨{ sup (ready []) with flt := {}, quench := true, power := .quenched }, ?_⟩; decide +kernel
  · refine ⟨{ sup (ready []) with quench := true, power := .quenched }, ?_⟩; decide +kernel

/-- States that meet the premises of SuppliesAndResetPin. -/
theorem test_meets_SuppliesAndResetPin :
  (∃ s : State, (s.pins.vinOk = true)) ∧
  (∃ s : State, (s.pins.vinOk = false)) ∧
  (∃ s : State, (s.pins.vauxOk = true)) ∧
  (∃ s : State, (s.pins.vauxOk = false)) ∧
  (∃ s : State, let waits := s.power = .starting ∧ s.boot.steps = [] ∧ s.boot.released = none ∧ s.boot.aon = false ∧ headsUp s = false ∧ s.flt.safeHalt = false
    (¬ waits)) ∧
  (∃ s : State, let waits := s.power = .starting ∧ s.boot.steps = [] ∧ s.boot.released = none ∧ s.boot.aon = false ∧ headsUp s = false ∧ s.flt.safeHalt = false
    (waits) ∧
    (s.pins.resetLow = true)) ∧
  (∃ s : State, let waits := s.power = .starting ∧ s.boot.steps = [] ∧ s.boot.released = none ∧ s.boot.aon = false ∧ headsUp s = false ∧ s.flt.safeHalt = false
    (waits) ∧
    (s.pins.resetLow = false)) ∧
  (∃ s : State, (s.flt.safeHalt = true ∨ supervised s = false)) ∧
  (∃ n : Nat, ∃ s : State, let total := s.pins.lowNs + n
    (supervised s = true) ∧
    (s.flt.safeHalt = false) ∧
    (s.pins.lowActed = false) ∧
    (total < 1000)) ∧
  (∃ n : Nat, ∃ s : State, let total := s.pins.lowNs + n
    (supervised s = true) ∧
    (s.flt.safeHalt = false) ∧
    (s.pins.lowActed = false) ∧
    (total < 10000)) ∧
  (∃ n : Nat, ∃ s : State, let total := s.pins.lowNs + n
    (supervised s = true) ∧
    (s.flt.safeHalt = false) ∧
    (s.pins.lowActed = false) ∧
    (1000 ≤ total) ∧
    (total < 10000)) ∧
  (∃ n : Nat, ∃ s : State, let total := s.pins.lowNs + n
    (supervised s = true) ∧
    (s.flt.safeHalt = false) ∧
    (s.pins.lowActed = false) ∧
    (10000 ≤ total)) ∧
  (∃ s : State, (supervised s = true) ∧
    (s.flt.safeHalt = false) ∧
    (s.pins.lowActed = true)) ∧
  (∃ n : Nat, ∃ s : State, let total := s.pins.lowNs + n
    (supervised s = true) ∧
    (s.flt.safeHalt = false) ∧
    (s.pins.lowActed = true ∨ 10000 ≤ total)) := by
  refine ⟨?_, ?_, ?_, ?_, ?_, ?_, ?_, ?_, ?_, ?_, ?_, ?_, ?_, ?_⟩
  · refine ⟨sup (bootable (ready [])), ?_⟩; decide +kernel
  · refine ⟨{ downPowered with trust := { fwA := { valid := true, confirmed := true, verifies := true, svn := 2, version := 3 } } }, ?_⟩; decide +kernel
  · refine ⟨sup (bootable (ready [])), ?_⟩; decide +kernel
  · refine ⟨{ downPowered with trust := { fwA := {} }, pins := {} }, ?_⟩; decide +kernel
  · refine ⟨sup (bootable (ready [])), ?_⟩; dsimp only <;> decide +kernel
  · refine ⟨bootable { downPowered with pins := { resetLow := true } }, ?_⟩; dsimp only <;> decide +kernel
  · refine ⟨{ downPowered with trust := { fwA := { valid := true, confirmed := true, verifies := true, svn := 2, version := 3 } } }, ?_⟩; dsimp only <;> decide +kernel
  · refine ⟨{ downPowered with trust := { fwA := {} }, pins := {} }, ?_⟩; decide +kernel
  · refine ⟨0, sup (bootable (ready [])), ?_⟩; dsimp only <;> decide +kernel
  · refine ⟨0, sup (bootable (ready [])), ?_⟩; dsimp only <;> decide +kernel
  · refine ⟨1000, sup (bootable (ready [])), ?_⟩; dsimp only <;> decide +kernel
  · refine ⟨20000, sup (bootable (ready [])), ?_⟩; dsimp only <;> decide +kernel
  · refine ⟨lowPin, ?_⟩; decide +kernel
  · refine ⟨20000, sup (bootable (ready [])), ?_⟩; dsimp only <;> decide +kernel

/-- States that meet the premises of AlertsEndpointAndClocks. -/
theorem test_meets_AlertsEndpointAndClocks :
  (∃ lvl : Option Nat, ∃ temp : Nat, ∃ s : State, let known := ∀ n, lvl = some n → n < 8
    (supervised s = true) ∧
    (known) ∧
    (s.i3c.warn ≤ temp)) ∧
  (∃ s : State, (supervised s = true) ∧
    (s.ebb = false) ∧
    (s.quench = false)) ∧
  (∃ s : State, (supervised s = true)) ∧
  (∃ s : State, (supervised s = false)) ∧
  (∃ lvl : Option Nat, ∃ temp : Nat, ∃ s : State, let known := ∀ n, lvl = some n → n < 8
    (¬ known ∨ temp < s.i3c.warn)) ∧
  (∃ s : State, (s.ebb = true ∨ s.quench = true)) := by
  refine ⟨?_, ?_, ?_, ?_, ?_, ?_⟩
  · refine ⟨some 3, 101, sup (ready []), ?_⟩; dsimp only <;> decide +kernel
  · refine ⟨sup (ready []), ?_⟩; decide +kernel
  · refine ⟨sup (ready []), ?_⟩; decide +kernel
  · refine ⟨ready [], ?_⟩; decide +kernel
  · refine ⟨none, 0, { sup (ready []) with ebb := true }, ?_⟩; dsimp only <;> decide +kernel
  · refine ⟨{ sup (ready []) with ebb := true }, ?_⟩; decide +kernel

/-- States that meet the premises of MemoryIsScrubbedAndRetired. -/
theorem test_meets_MemoryIsScrubbedAndRetired :
  (∃ k : Nat, ∃ pc : Nat, (16 ≤ k ∨ 32 ≤ pc)) ∧
  (∃ k : Nat, ∃ pc : Nat, ∃ s : State, (16 ≤ k ∨ 32 ≤ pc ∨ headsUp s = false)) ∧
  (∃ s : State, (headsUp s = false)) ∧
  (∃ k : Nat, ∃ pc : Nat, ∃ s : State, (k < 16) ∧
    (pc < 32) ∧
    (headsUp s = true) ∧
    (s.flt.takeover = none)) ∧
  (∃ k : Nat, ∃ pc : Nat, ∃ s : State, let x := stackOf s k
    (k < 16) ∧
    (pc < 32) ∧
    (headsUp s = true) ∧
    (s.flt.takeover = none) ∧
    (dayCount s (dayAdd s x.pcCorr pc) pc ≠ 65)) ∧
  (∃ k : Nat, ∃ pc : Nat, ∃ s : State, let x := stackOf s k
    (k < 16) ∧
    (pc < 32) ∧
    (headsUp s = true) ∧
    (s.flt.takeover = none) ∧
    (dayCount s (dayAdd s x.pcCorr pc) pc = 65)) ∧
  (∃ k : Nat, ∃ pc : Nat, ∃ s : State, let x := stackOf s k
    let known := fun (c : Nat) => bit x.retired c = true ∨ x.migrating = some c ∨ c ∈ x.due
    let left := x.moved.length + b2n x.migrating.isSome + x.due.length < spillOf s k
    (k < 16) ∧
    (pc < 32) ∧
    (headsUp s = true) ∧
    (s.flt.takeover = none) ∧
    (pcTrigger s k pc = true) ∧
    (¬ known pc) ∧
    (left) ∧
    (x.migrating = none)) ∧
  (∃ k : Nat, ∃ pc : Nat, ∃ s : State, let x := stackOf s k
    let known := fun (c : Nat) => bit x.retired c = true ∨ x.migrating = some c ∨ c ∈ x.due
    let left := x.moved.length + b2n x.migrating.isSome + x.due.length < spillOf s k
    (k < 16) ∧
    (pc < 32) ∧
    (headsUp s = true) ∧
    (s.flt.takeover = none) ∧
    (pcTrigger s k pc = true) ∧
    (¬ known pc) ∧
    (left) ∧
    (x.migrating ≠ none)) ∧
  (∃ k : Nat, ∃ pc : Nat, ∃ s : State, let x := stackOf s k
    let known := fun (c : Nat) => bit x.retired c = true ∨ x.migrating = some c ∨ c ∈ x.due
    let left := x.moved.length + b2n x.migrating.isSome + x.due.length < spillOf s k
    (k < 16) ∧
    (pc < 32) ∧
    (headsUp s = true) ∧
    (s.flt.takeover = none) ∧
    (pcTrigger s k pc = true) ∧
    (¬ known pc) ∧
    (¬ left)) ∧
  (∃ k : Nat, ∃ pc : Nat, ∃ s : State, let x := stackOf s k
    let known := fun (c : Nat) => bit x.retired c = true ∨ x.migrating = some c ∨ c ∈ x.due
    (k < 16) ∧
    (pc < 32) ∧
    (headsUp s = true) ∧
    (s.flt.takeover = none) ∧
    (pcTrigger s k pc = false ∨ known pc)) ∧
  (∃ k : Nat, ∃ o : Nat, ∃ s : State, (k < 16) ∧
    (o < dataEnd s k) ∧
    (headsUp s = true)) ∧
  (∃ k : Nat, ∃ o : Nat, ∃ s : State, let x := stackOf s k
    let known := fun (c : Nat) => bit x.retired c = true ∨ x.migrating = some c ∨ c ∈ x.due
    let left := x.moved.length + b2n x.migrating.isSome + x.due.length < spillOf s k
    (k < 16) ∧
    (o < dataEnd s k) ∧
    (headsUp s = true) ∧
    (¬ known (pcOf o)) ∧
    (x.migrating = none) ∧
    (left)) ∧
  (∃ o : Nat, ∃ s : State, ∃ st, ∃ p, (st < 160) ∧
    (o < 2 ^ 24) ∧
    (headsUp s = true) ∧
    (physHolding s st = some p)) ∧
  (∃ k : Nat, ∃ s : State, let x := stackOf s k
    (x.migrating = none)) ∧
  (∃ k : Nat, ∃ s : State, ∃ c, let x := stackOf s k
    (x.migrating = some c)) := by
  refine ⟨?_, ?_, ?_, ?_, ?_, ?_, ?_, ?_, ?_, ?_, ?_, ?_, ?_, ?_, ?_⟩
  · refine ⟨16, 5, ?_⟩; decide +kernel
  · refine ⟨16, 5, sup (ready []), ?_⟩; decide +kernel
  · refine ⟨{ sup (ready []) with flt := {} }, ?_⟩; decide +kernel
  · refine ⟨2, 5, sup (ready []), ?_⟩; decide +kernel
  · refine ⟨2, 5, sup (ready []), ?_⟩; dsimp only <;> decide +kernel
  · refine ⟨2, 5, { sup (ready []) with stackTab := [(2, { pcCorr := [(5, 64)] })] }, ?_⟩; dsimp only <;> decide +kernel
  · refine ⟨2, 5, { sup (ready []) with stackTab := [(2, { pcBad := [(5, 2)] })], conf := { spill := 0x55555555 } }, ?_⟩; dsimp only <;> decide +kernel
  · refine ⟨2, 5, { sup (ready []) with stackTab := [(2, { pcBad := [(5, 2)], migrating := some 6 })], conf := { spill := 0xAAAAAAAA } }, ?_⟩; dsimp only <;> decide +kernel
  · refine ⟨2, 5, { sup (ready []) with stackTab := [(2, { pcBad := [(5, 2)] })], conf := { spill := 0 } }, ?_⟩; dsimp only <;> decide +kernel
  · refine ⟨2, 5, sup (ready []), ?_⟩; dsimp only <;> decide +kernel
  · refine ⟨2, 0x5400, sup (ready []), ?_⟩; decide +kernel
  · refine ⟨2, 0x5400, { sup (ready []) with stackTab := [(2, { pcBad := [(5, 2)] })], conf := { spill := 0x55555555 } }, ?_⟩; dsimp only <;> decide +kernel
  · refine ⟨0x5400, { sup (ready []) with phys := [(8, { logical := 7, state := 1 })] }, 7, 8, ?_⟩; decide +kernel
  · refine ⟨2, sup (ready []), ?_⟩; dsimp only <;> decide +kernel
  · refine ⟨2, { sup (ready []) with stackTab := [(2, { migrating := some 5 })], phys := [(8, { logical := 7, state := 1 })] }, 5, ?_⟩; dsimp only <;> decide +kernel

/-- States that meet the premises of LevelFaultsAndRecords. -/
theorem test_meets_LevelFaultsAndRecords :
  (∃ n : Nat, ∃ s : State, (8 ≤ n ∨ (levelOf s n).up = false)) ∧
  (∃ n : Nat, ∃ s : State, (n < 8) ∧
    ((levelOf s n).up = true)) ∧
  (∃ n : Nat, ∃ s : State, (8 ≤ n ∨ (levelOf s n).monRetired = true ∨ headsUp s = false)) ∧
  (∃ s : State, (headsUp s = false)) ∧
  (∃ n : Nat, ∃ s : State, (n < 8) ∧
    ((levelOf s n).monRetired = false) ∧
    (headsUp s = true) ∧
    (s.flt.takeover = none)) ∧
  (∃ st : Nat, ∃ bs : List Byte, ∃ s : State, (bs.length = 64) ∧
    (headsUp s = true) ∧
    (s.flt.takeover = none) ∧
    (s.flt.subm.find? (fun e => decide (e.2 = bs)) = some (st, bs))) ∧
  (∃ bs : List Byte, ∃ s : State, (bs.length = 64) ∧
    (headsUp s = true) ∧
    (s.flt.takeover = none) ∧
    (s.flt.subm.find? (fun e => decide (e.2 = bs)) = none)) := by
  refine ⟨?_, ?_, ?_, ?_, ?_, ?_, ?_⟩
  · refine ⟨8, { physed [(1, { logical := 257, state := 1 })] true with flt := { h0Active := true } }, ?_⟩; decide +kernel
  · refine ⟨0, { physed [(0, { logical := 0, state := 1 })] true with flt := { h0Active := true, subm := [(0, record)] } }, ?_⟩; decide +kernel
  · refine ⟨8, { physed [(1, { logical := 257, state := 1 })] true with flt := { h0Active := true } }, ?_⟩; decide +kernel
  · refine ⟨failing {}, ?_⟩; decide +kernel
  · refine ⟨0, { physed [(0, { logical := 0, state := 1 })] true with flt := { h0Active := true, subm := [(0, record)] } }, ?_⟩; decide +kernel
  · refine ⟨0, record, { physed [(0, { logical := 0, state := 1 })] true with flt := { h0Active := true, subm := [(0, record)] } }, ?_⟩; decide +kernel
  · refine ⟨record, { physed [(1, { logical := 257, state := 1 })] true with flt := { h0Active := true } }, ?_⟩; decide +kernel

/-- States that meet the premises of ControllersFailOver. -/
theorem test_meets_ControllersFailOver :
  (∃ h : Nat, ∃ s : State, let f := s.flt
    (ActiveOn f h) ∧
    (f.takeover = none)) ∧
  (∃ h : Nat, ∃ s : State, let f := s.flt
    (ActiveOn f h) ∧
    (f.takeover = none) ∧
    (f.standby = true) ∧
    (f.safeHalt = false)) ∧
  (∃ h : Nat, ∃ s : State, let f := s.flt
    (ActiveOn f h) ∧
    (f.takeover = none) ∧
    (f.standby = false ∨ f.safeHalt = true)) ∧
  (∃ h : Nat, ∃ s : State, let f := s.flt
    (ActiveOn f h) ∧
    (f.takeover = none) ∧
    (1 - h ∉ f.dead)) ∧
  (∃ h : Nat, ∃ s : State, let f := s.flt
    (ActiveOn f h) ∧
    (f.takeover = none) ∧
    (1 - h ∈ f.dead)) ∧
  (∃ h : Nat, ∃ s : State, let f := s.flt
    (ActiveOn f h) ∧
    (f.takeover = none) ∧
    (f.standby = true)) ∧
  (∃ h : Nat, ∃ s : State, let f := s.flt
    (ActiveOn f h) ∧
    (f.takeover = none) ∧
    (f.standby = false)) ∧
  (∃ g : Nat, ∃ n : Nat, ∃ s : State, let f := s.flt
    (f.takeover = some (g, n))) ∧
  (∃ s : State, let f := s.flt
    (f.h0Active = false) ∧
    (f.h1Active = false)) ∧
  (∃ s : State, let f := s.flt
    (f.h0Active = false) ∧
    (f.h1Active = false) ∧
    (f.takeover = none)) ∧
  (∃ h : Nat, ∃ g : Nat, ∃ n : Nat, ∃ c : Nat, ∃ s : State, ∃ at', let f := s.flt
    (f.safeHalt = false) ∧
    (h < 2) ∧
    (s.pins.vauxOk = true) ∧
    ((c = 1 ∧ 0 < f.lastBeat ∧ f.takeover = none ∧ at' = f.lastBeat + 300000) ∨
    (c = 2 ∧ f.takeover = some (g, n) ∧ at' = n + 2000000) ∨
    (c = 3 ∧ (f.h0Active = true ∨ f.h1Active = true) ∧ f.standby = false ∧ at' = s.now) ∨
    (c = 4 ∧ s.boot.released = some n ∧ at' = n + 2500000000))) ∧
  (∃ h : Nat, ∃ c : Nat, ∃ s : State, let f := s.flt
    (f.safeHalt = true ∨ 2 ≤ h ∨ s.pins.vauxOk = false ∨ (c ≠ 1 ∧ c ≠ 2 ∧ c ≠ 3 ∧ c ≠ 4) ∨ (c = 1 ∧ (f.lastBeat = 0 ∨ f.takeover ≠ none)) ∨
    (c = 2 ∧ f.takeover = none) ∨ (c = 3 ∧ (f.standby = true ∨ (f.h0Active = false ∧ f.h1Active = false))) ∨
    (c = 4 ∧ s.boot.released = none))) ∧
  (∃ h : Nat, ∃ s : State, (2 ≤ h ∨ s.pins.vauxOk = false)) ∧
  (∃ h : Nat, ∃ s : State, let f := s.flt
    (h < 2) ∧
    (s.pins.vauxOk = true) ∧
    (f.h0Active = false) ∧
    (f.h1Active = false)) ∧
  (∃ h : Nat, ∃ s : State, let f := s.flt
    (h < 2) ∧
    (s.pins.vauxOk = true) ∧
    (f.h0Active = true ∨ f.h1Active = true)) := by
  refine ⟨?_, ?_, ?_, ?_, ?_, ?_, ?_, ?_, ?_, ?_, ?_, ?_, ?_, ?_, ?_⟩
  · refine ⟨0, failing { h0Active := true, standby := true }, ?_⟩; dsimp only <;> (unfold ActiveOn; decide +kernel)
  · refine ⟨0, failing { h0Active := true, standby := true }, ?_⟩; dsimp only <;> (unfold ActiveOn; decide +kernel)
  · refine ⟨1, failing { h1Active := true }, ?_⟩; dsimp only <;> (unfold ActiveOn; decide +kernel)
  · refine ⟨0, failing { h0Active := true, standby := true }, ?_⟩; dsimp only <;> (unfold ActiveOn; decide +kernel)
  · refine ⟨1, failing { h1Active := true, dead := [0], ctlFails := [(0, 900), (0, 950)] }, ?_⟩; dsimp only <;> (unfold ActiveOn; decide +kernel)
  · refine ⟨0, failing { h0Active := true, standby := true }, ?_⟩; dsimp only <;> (unfold ActiveOn; decide +kernel)
  · refine ⟨1, failing { h1Active := true }, ?_⟩; dsimp only <;> (unfold ActiveOn; decide +kernel)
  · refine ⟨1, 900, failing { takeover := some (1, 900) }, ?_⟩; dsimp only <;> decide +kernel
  · refine ⟨failing { takeover := some (1, 900) }, ?_⟩; dsimp only <;> decide +kernel
  · refine ⟨{ failing {} with boot := { aon := true, released := some 900 } }, ?_⟩; dsimp only <;> decide +kernel
  · refine ⟨0, 0, 0, 1, failing { h0Active := true, standby := true, lastBeat := 500 }, 300500, ?_⟩; dsimp only <;> decide +kernel
  · refine ⟨0, 2, failing { h0Active := true, standby := true }, ?_⟩; dsimp only <;> decide +kernel
  · refine ⟨2, failing {}, ?_⟩; decide +kernel
  · refine ⟨0, failing { takeover := some (1, 900) }, ?_⟩; dsimp only <;> decide +kernel
  · refine ⟨0, failing { h0Active := true, standby := true }, ?_⟩; dsimp only <;> decide +kernel

/-- States that meet the premises of RegisterWritesTakeEffect. -/
theorem test_meets_RegisterWritesTakeEffect :
  (∃ k : Nat, ∃ m : Nat, ∃ s : State, (k < 16) ∧
    (m < 8) ∧
    (let u := advance s (s.now + 1)
    ((activeHead u).isSome = false))) ∧
  (∃ k : Nat, ∃ m : Nat, ∃ s : State, (k < 16) ∧
    (m < 8) ∧
    (let u := advance s (s.now + 1)
    ((activeHead u).isSome = true) ∧
    (aonOn u = false))) ∧
  (∃ k : Nat, ∃ m : Nat, ∃ s : State, (k < 16) ∧
    (m < 8) ∧
    (let u := advance s (s.now + 1)
    ((activeHead u).isSome = true))) ∧
  (∃ k : Nat, ∃ m : Nat, ∃ s : State, (k < 16) ∧
    (m < 8) ∧
    (let u := advance s (s.now + 1)
    ((activeHead u).isSome = true) ∧
    (aonOn u = true))) ∧
  (∃ k : Nat, ∃ m : Nat, ∃ s : State, ∃ x, (k < 16) ∧
    (m < 8) ∧
    (let u := advance s (s.now + 1)
    let key := 0x030300200100 + 8 * k
    ((activeHead u).isSome = true) ∧
    (aonOn u = true) ∧
    (heldLow u key = some x))) ∧
  (∃ k : Nat, ∃ m : Nat, ∃ s : State, (k < 16) ∧
    (m < 8) ∧
    (let u := advance s (s.now + 1)
    let key := 0x030300200100 + 8 * k
    ((activeHead u).isSome = true) ∧
    (aonOn u = true) ∧
    (heldLow u key = none))) ∧
  (∃ k : Nat, ∃ m : Nat, ∃ o : Nat, ∃ s : State, (k < 16) ∧
    (m < 8) ∧
    (let u := advance s (s.now + 1)
    ((activeHead u).isSome = true) ∧
    (aonOn u = true) ∧
    (o % 4 = 0) ∧
    (o < 2 ^ 16))) ∧
  (∃ host : Bool, ∃ k : Nat, ∃ m : Nat, ∃ o : Nat, ∃ width, (k < 16) ∧
    (m < 8) ∧
    (o % 4 ≠ 0 ∨ (width ≠ 4 ∧ width ≠ 8) ∨ (host = false ∧ (o < 0x030000000000 ∨ 0x030400000000 ≤ o)))) ∧
  (∃ k : Nat, ∃ m : Nat, ∃ s : State, (k < 16) ∧
    (m < 8) ∧
    (let u := advance s (s.now + 1)
    (u.ep.cfgServed = false ∨ aonOn u = false))) ∧
  (∃ k : Nat, ∃ m : Nat, ∃ s : State, (k < 16) ∧
    (m < 8) ∧
    (let u := advance s (s.now + 1)
    (u.ep.cfgServed = true) ∧
    (aonOn u = true))) ∧
  (∃ k : Nat, ∃ m : Nat, ∃ v : Word64, ∃ s : State, (k < 16) ∧
    (m < 8) ∧
    (let w := v.toNat % 2 ^ 32
    let u := advance s (s.now + 1)
    (u.ep.cfgServed = true) ∧
    (aonOn u = true) ∧
    (let on := bit u.ep.msixCtl.toNat 15 = true ∧ bit u.ep.msixCtl.toNat 14 = false
    (bit w 0 = false) ∧
    (bit u.ep.pba m = true) ∧
    (on)))) ∧
  (∃ k : Nat, ∃ m : Nat, ∃ v : Word64, ∃ s : State, (k < 16) ∧
    (m < 8) ∧
    (let w := v.toNat % 2 ^ 32
    let u := advance s (s.now + 1)
    (u.ep.cfgServed = true) ∧
    (aonOn u = true) ∧
    (let on := bit u.ep.msixCtl.toNat 15 = true ∧ bit u.ep.msixCtl.toNat 14 = false
    (bit w 0 = true ∨ bit u.ep.pba m = false ∨ ¬ on)))) ∧
  (∃ k : Nat, ∃ m : Nat, ∃ s : State, (k < 16) ∧
    (m < 8) ∧
    (let u := advance s (s.now + 1)
    (u.ep.cfgServed = true) ∧
    (aonOn u = true) ∧
    (u.ep.winBase.toNat = 0x030300200000))) ∧
  (∃ k : Nat, ∃ m : Nat, ∃ s : State, (k < 16) ∧
    (m < 8) ∧
    (let u := advance s (s.now + 1)
    (u.ep.cfgServed = true) ∧
    (aonOn u = true) ∧
    (u.ep.winBase.toNat = 0x030200100000) ∧
    (headsUp u = true))) ∧
  (∃ k : Nat, ∃ m : Nat, ∃ o : Nat, ∃ s : State, (k < 16) ∧
    (m < 8) ∧
    (let u := advance s (s.now + 1)
    (u.ep.cfgServed = true) ∧
    (aonOn u = true) ∧
    (winOk u.ep.winBase.toNat = false) ∧
    (o < 0x2000))) := by
  refine ⟨?_, ?_, ?_, ?_, ?_, ?_, ?_, ?_, ?_, ?_, ?_, ?_, ?_, ?_, ?_⟩
  · refine ⟨3, 1, { sup (ready []) with flt := {} }, ?_⟩; dsimp only <;> decide +kernel
  · refine ⟨3, 1, { sup (ready []) with boot := {} }, ?_⟩; dsimp only <;> decide +kernel
  · refine ⟨3, 1, sup (ready []), ?_⟩; dsimp only <;> decide +kernel
  · refine ⟨3, 1, sup (ready []), ?_⟩; dsimp only <;> decide +kernel
  · refine ⟨3, 1, { sup (ready []) with lowHeld := [(0x030300200118, 5)], ep := { cfgServed := true, pba := 2, winBase := 0x030300200000 } }, 5, ?_⟩; dsimp only <;> decide +kernel
  · refine ⟨3, 1, sup (ready []), ?_⟩; dsimp only <;> decide +kernel
  · refine ⟨3, 1, 0x8008, sup (ready []), ?_⟩; dsimp only <;> decide +kernel
  · refine ⟨false, 3, 1, 0x8009, 4, ?_⟩; decide +kernel
  · refine ⟨3, 7, { sup (ready []) with ep := { cfgServed := false } }, ?_⟩; dsimp only <;> decide +kernel
  · refine ⟨3, 1, { sup (ready []) with lowHeld := [(0x030300200118, 5)], ep := { cfgServed := true, pba := 2, winBase := 0x030300200000 } }, ?_⟩; dsimp only <;> decide +kernel
  · refine ⟨3, 1, 0x123456789ABCDEF0, { sup (ready []) with ep := { cfgServed := true, pba := 2, msixCtl := 0x8000, winBase := 0x030000000000 } }, ?_⟩; dsimp only <;> decide +kernel
  · refine ⟨3, 1, 0x123456789ABCDEF0, { sup (ready []) with lowHeld := [(0x030300200118, 5)], ep := { cfgServed := true, pba := 2, winBase := 0x030300200000 } }, ?_⟩; dsimp only <;> decide +kernel
  · refine ⟨3, 1, { sup (ready []) with lowHeld := [(0x030300200118, 5)], ep := { cfgServed := true, pba := 2, winBase := 0x030300200000 } }, ?_⟩; dsimp only <;> decide +kernel
  · refine ⟨3, 1, { sup (ready []) with ep := { cfgServed := true, pba := 2, winBase := 0x030200100000 } }, ?_⟩; dsimp only <;> decide +kernel
  · refine ⟨3, 1, 0x1000, { sup (ready []) with ep := { cfgServed := true, winBase := 0x050000000000 } }, ?_⟩; dsimp only <;> decide +kernel

/-- States that meet the premises of StepRunsTheFrontCommand. -/
theorem test_meets_StepRunsTheFrontCommand :
  (∃ s : State, (s.pending = [])) := by
  refine ⟨ready [], ?_⟩; decide +kernel

/-- States that meet the premises of StepsKeepMemoryCanonical. -/
theorem test_meets_StepsKeepMemoryCanonical :
  (∃ s : State, ∃ t : State, (MemOk s) ∧
    (step s = .next t)) := by
  exact ⟨{ ready [] with pending := [.i3cRstdaa], mem := [(4, 9)] }, _, by unfold MemOk; decide, rfl⟩

/-- States that meet the premises of ResetLeavesTheSpecsValues. -/
theorem test_meets_ResetLeavesTheSpecsValues :
  (∃ st, ∃ n, ∃ p, ∃ x, (st < 160) ∧
    (n < 8) ∧
    (p < 12) ∧
    (x ∈ resetRegisters st n p)) ∧
  (∃ n, ∃ k, (n < 8) ∧
    (k < 22)) := by
  refine ⟨?_, ?_⟩
  · refine ⟨159, 7, 11, (.stp 159, 0x0140, 8), ?_⟩; decide +kernel
  · refine ⟨7, 21, ?_⟩; decide +kernel

/-- States that meet the premises of WakeStartsTheExit. -/
theorem test_meets_WakeStartsTheExit :
  (∃ p : Nat, ∃ s : State, let ok := bit (portOf s p).live.toNat 7
    (carries (portOf s p) = true) ∧
    (s.powerNext = none) ∧
    (s.boot.steps = []) ∧
    (tramsOff s = false) ∧
    (ok = true) ∧
    (s.power = .doze)) ∧
  (∃ p : Nat, ∃ s : State, let ok := bit (portOf s p).live.toNat 7
    (carries (portOf s p) = true) ∧
    (s.powerNext = none) ∧
    (s.boot.steps = []) ∧
    (tramsOff s = false) ∧
    (ok = true) ∧
    (s.power = .vigil)) ∧
  (∃ s : State, (s.power ≠ .vigil) ∧
    (s.power ≠ .doze)) ∧
  (∃ p : Nat, ∃ s : State, let ok := bit (portOf s p).live.toNat 7
    (ok = false)) ∧
  (∃ s : State, (s.powerNext ≠ none ∨ s.boot.steps ≠ [] ∨ tramsOff s = true)) := by
  refine ⟨?_, ?_, ?_, ?_, ?_⟩
  · refine ⟨2, { linked upPort with power := .doze }, ?_⟩; dsimp only <;> decide +kernel
  · refine ⟨2, { linked upPort with power := .vigil }, ?_⟩; dsimp only <;> decide +kernel
  · refine ⟨linked upPort, ?_⟩; decide +kernel
  · refine ⟨7, { linked upPort with ports := [] }, ?_⟩; dsimp only <;> decide +kernel
  · refine ⟨{ linked upPort with power := .doze, powerNext := some (.full, 5000) }, ?_⟩; decide +kernel

/-- States that meet the premises of ColumnReadsThatTrap. -/
theorem test_meets_ColumnReadsThatTrap :
  (∃ st : Nat, ∃ ag : Nat, ∃ w : Word64, ∃ s : State, ∃ a : Nat, (ag < 16) ∧
    (streamWord w = true) ∧
    (let x0 := stopeOf s st
    let c := atCycle s st ag plain (feedFloor x0 w) (feedAdmits x0 w true)
    let u := atIssue s st ag c
    let x := stopeOf u st
    let k := crewOf u st ag
    let y := tileOf k (sourceTile w a)
    let mxfp4 := (planeOf (arrOf x a) (activeAt (arrOf x a) c)).fmt = 8
    let wide := wideAt (arrOf x a) c
    (Issues s st ag w 0x34) ∧
    (a ∈ targets w) ∧
    ((∀ b ∈ targets w, b < a → streamFault x k w true c b = none)) ∧
    (y.rows ≠ 0) ∧
    ((twoHalves y.fmt = true → wide = false → (tileOf k ((sourceTile w a + 1) % 8)).rows ≠ 0)) ∧
    ((wide = true ∨ mxfp4)))) := by
  refine ⟨0, 3, wd [(0, 0x34), (16, 2), (21, 2)], tiled 3 [] [(2, { rows := 4, len := 256, fmt := 4 })] { arr1 := { plane0 := { valid := true, fmt := 8 } } }, 1, ?_⟩; dsimp only <;> (unfold Issues; decide +kernel)

end Sys2Proof.Tests
end

section
/-! A synchronous fault of a crew: the word takes its fault, nothing else that an issue writes moves, and one trace record is written
(R130, R337, R339). -/

namespace Sys2Proof.Machine

open Sys2Proof.Claims

/-! ### Trace records -/

theorem mem_cellsAt {a : Nat} {bs : List Byte} {e : Host.Cell} (h : e ∈ cellsAt a bs) : a ≤ e.1 ∧ e.1 < a + bs.length := by
  unfold cellsAt at h
  obtain ⟨⟨i, b⟩, hm, rfl⟩ := List.mem_map.mp h
  have hi := List.mem_range.mp (List.of_mem_zip hm).1
  exact ⟨Nat.le_add_right a i, Nat.add_lt_add_left hi a⟩

theorem length_traceBytes (s : State) (code tag epoch agent arg : Nat) : (traceBytes s code tag epoch agent arg).length = 32 := by
  simp [traceBytes, toBytes]

/-- A place up to k records behind the head, k of them movable, is one of the records counted from the first movable one. Where more are
movable than the ring and its head hold, those go all round the ring. -/
theorem recordAddr_behind_head (u : State) {st k i : Nat} (hk : k ≤ movable u st) (hi : i ≤ k) :
    ∃ j, j < movable u st + 1 ∧
      recordAddr u st j = traceAddr st (((stopeOf u st).trace.head + 8192 - k + i) % 8192 * 32) := by
  unfold recordAddr
  generalize (stopeOf u st).trace.head = head
  by_cases hm : movable u st ≤ head + 8192
  · refine ⟨movable u st - k + i, by omega, ?_⟩
    have : head + 8192 - movable u st + (movable u st - k + i) = head + 8192 - k + i := by omega
    rw [this]
  · refine ⟨(head + 8192 - k + i) % 8192, by omega, ?_⟩
    have : head + 8192 - movable u st = 0 := by omega
    rw [this, Nat.zero_add, Nat.mod_mod]

/-- A record and those that it moves on lie in the ring's next record and the movable ones. -/
theorem traceCells_inTrace (s : State) (st agent : Nat) {bs : List Byte} (hb : bs.length = 32) :
    ∀ e ∈ traceCells s st agent bs, InTrace s st 1 e.1 := by
  intro e he
  unfold traceCells at he
  dsimp only at he
  generalize hk : ((agentsNow (stopeOf s st).trace s.now).filter (fun a => decide (agent < a))).length = k at he
  have hle : k ≤ movable s st := by
    have hf := List.length_filter_le (fun a => decide (agent < a)) (agentsNow (stopeOf s st).trace s.now)
    have ha : (agentsNow (stopeOf s st).trace s.now).length ≤ movable s st := by
      unfold agentsNow movable; split <;> simp
    omega
  have at_place : ∀ i ≤ k, ∀ cs : List Byte, cs.length = 32 →
      e ∈ cellsAt (traceAddr st (((stopeOf s st).trace.head + 8192 - k + i) % 8192 * 32)) cs → InTrace s st 1 e.1 := by
    intro i hi cs hc hm
    obtain ⟨j, hj, hr⟩ := recordAddr_behind_head s hle hi
    have hb := mem_cellsAt hm
    rw [← hr, hc] at hb
    exact ⟨j, hj, hb⟩
  rcases List.mem_append.mp he with h | h
  · exact at_place 0 (Nat.zero_le k) bs hb h
  · obtain ⟨i, hi, hm⟩ := List.mem_flatMap.mp h
    exact at_place (i + 1) (List.mem_range.mp hi) _ (by simp [readBytes]) hm

@[simp] theorem stopeOf_writeCells (s : State) (cs : List Host.Cell) (st : Nat) : stopeOf (writeCells s cs) st = stopeOf s st := rfl

/-- A record changes its stope's trace figures alone, or nothing. -/
theorem stopeOf_traceRec (s : State) (st code tag epoch agent arg : Nat) :
    ∃ tr, stopeOf (traceRec s st code tag epoch agent arg) st = { stopeOf s st with trace := tr } := by
  unfold traceRec
  dsimp only
  split
  · exact ⟨_, rfl⟩
  · split
    · rw [stopeOf_putStope]; exact ⟨_, rfl⟩
    · rw [stopeOf_writeCells, stopeOf_putStope]; exact ⟨_, rfl⟩

theorem traceRec_onlyTraced (s : State) (st code tag epoch agent arg : Nat) :
    OnlyTraced s (traceRec s st code tag epoch agent arg) st 1 := by
  unfold traceRec
  dsimp only
  split
  · exact ⟨rfl, fun _ _ => rfl, fun _ _ => rfl⟩
  · split
    · exact ⟨rfl, fun _ h => stopeOf_putStope_ne _ _ h, fun _ _ => rfl⟩
    · refine ⟨by simp only [writeCells, putStope], fun _ h => ?_, fun pa hpa => ?_⟩
      · rw [stopeOf_writeCells, stopeOf_putStope_ne s _ h]
      rw [writeCells_mem, putStope_mem]
      refine cellAt_cellsPut_ne fun e he heq => ?_
      exact hpa (heq ▸ traceCells_inTrace s st agent (length_traceBytes s code tag epoch agent arg) e he)

/-- A change of the stope that leaves the trace goes before a traced change. -/
theorem onlyTraced_after {u v t : State} {st n : Nat} (hv : OnlyStope u v st) (ht : (stopeOf v st).trace = (stopeOf u st).trace)
    (h : OnlyTraced v t st n) : OnlyTraced u t st n := by
  obtain ⟨hrest, hother, hmem⟩ := h
  obtain ⟨hstope, hne⟩ := hv
  refine ⟨hrest.trans (congrArg (fun s : State => { s with mem := [], freeCtr := 0 }) hstope),
    fun st' h => (hother st' h).trans (hne st' h), ?_⟩
  intro pa hpa
  have hm : v.mem = u.mem := by injection hstope
  rw [← hm]
  refine hmem pa fun hin => hpa ?_
  simpa only [InTrace, recordAddr, movable, ht] using hin

/-- Free values may be used before a traced change. -/
theorem onlyTraced_useFree {u t : State} {st n k : Nat} (h : OnlyTraced (useFree u k) t st n) : OnlyTraced u t st n := h

/-! ### What a fault leaves alone -/

/-- A crew without what its own fault writes. -/
def sansTrap (k : Crew) : Crew := { sansFlow k with state := .idle, faultCode := 0, faultPc := 0 }

/-- From x to y crew ag may have taken a fault, the overman may have woken, and stall figures may have moved; the arrays, the store's
sidecar entries and every register stand. -/
structure TrapFrame (ag : Nat) (x y : Stope) : Prop where
  arrays : ∀ b, { arrOf y b with stallWeight := 0 } = { arrOf x b with stallWeight := 0 }
  side : y.side = x.side
  pc : (agentOf y ag).pc = (agentOf x ag).pc
  pend : (agentOf y ag).pend = (agentOf x ag).pend
  crew : sansTrap (agentOf y ag) = sansTrap (agentOf x ag)
  others : ∀ b, b ≠ ag → b ≠ 16 → agentOf y b = agentOf x b
  overman : { agentOf y 16 with state := .idle, nextIssue := 0 } = { agentOf x 16 with state := .idle, nextIssue := 0 }

theorem TrapFrame.trans {ag : Nat} {x y z : Stope} (h : TrapFrame ag x y) (k : TrapFrame ag y z) : TrapFrame ag x z where
  arrays b := (k.arrays b).trans (h.arrays b)
  side := k.side.trans h.side
  pc := k.pc.trans h.pc
  pend := k.pend.trans h.pend
  crew := k.crew.trans h.crew
  others b h₁ h₂ := (k.others b h₁ h₂).trans (h.others b h₁ h₂)
  overman := k.overman.trans h.overman

/-- A change of the stope that leaves its agents. -/
theorem trapFrame_of_agents (ag : Nat) {x y : Stope} (ha : y.agents = x.agents) (hs : y.side = x.side)
    (hr : ∀ b, { arrOf y b with stallWeight := 0 } = { arrOf x b with stallWeight := 0 }) : TrapFrame ag x y := by
  have h := agentOf_of_agents y x ha
  exact ⟨hr, hs, by rw [h], by rw [h], by rw [h], fun b _ _ => h b, by rw [h]⟩

theorem trapFrame_trace (ag : Nat) (x : Stope) (tr : Trace) : TrapFrame ag x { x with trace := tr } :=
  trapFrame_of_agents ag rfl rfl fun _ => rfl

/-- A change of crew ag that leaves its place, its writes in flight and its registers. -/
theorem trapFrame_putAgent {ag : Nat} (x : Stope) {k : Crew} (hag : ag ≠ 16) (hpc : k.pc = (agentOf x ag).pc)
    (hpend : k.pend = (agentOf x ag).pend) (hk : sansTrap k = sansTrap (agentOf x ag)) : TrapFrame ag x (putAgent x ag k) where
  arrays _ := rfl
  side := rfl
  pc := by rw [agentOf_putAgent, hpc]
  pend := by rw [agentOf_putAgent, hpend]
  crew := by rw [agentOf_putAgent, hk]
  others b h _ := agentOf_putAgent_ne x k h
  overman := by rw [agentOf_putAgent_ne x k hag.symm]

/-- A crew's event joins a queue and may wake the overman. -/
theorem raiseIn_trapFrame {ag : Nat} (x : Stope) (now : Nat) (e : Event) (hag : ag ≠ 16) :
    TrapFrame ag x (raiseIn x now e) ∧ (raiseIn x now e).trace = x.trace := by
  unfold raiseIn
  dsimp only
  split
  · have hq : TrapFrame ag x { x with events := x.events ++ [e] } := trapFrame_of_agents ag rfl rfl fun _ => rfl
    split
    · refine ⟨hq.trans ⟨fun _ => rfl, rfl, ?_, ?_, ?_, fun b _ h => agentOf_putAgent_ne _ _ h, ?_⟩, rfl⟩
      · rw [agentOf_putAgent_ne _ _ hag]
      · rw [agentOf_putAgent_ne _ _ hag]
      · rw [agentOf_putAgent_ne _ _ hag]
      · rw [agentOf_putAgent]
    · exact ⟨hq, rfl⟩
  · exact ⟨trapFrame_of_agents ag rfl rfl fun _ => rfl, rfl⟩

theorem crewFault_trapFrame (u : State) (st ag code arg : Nat) (hag : ag < 16) :
    TrapFrame ag (stopeOf u st) (stopeOf (crewFault u st ag code arg) st) ∧ OnlyTraced u (crewFault u st ag code arg) st 1 := by
  have hne : ag ≠ 16 := by omega
  unfold crewFault
  dsimp only
  generalize hk : { countHeld (monitorOff u (stopeLevel st)) (cnt (stopeOf u st).clk u.now) (agentOf (stopeOf u st) ag) with
    state := .faulted, faultCode := code, faultPc := (agentOf (stopeOf u st) ag).pc, ranOff := false } = k
  generalize Event.mk .. = e
  have hheld := countHeld_frame (monitorOff u (stopeLevel st)) (cnt (stopeOf u st).clk u.now) (agentOf (stopeOf u st) ag)
  have hcrew : TrapFrame ag (stopeOf u st) (putAgent (stirred (stopeOf u st) u.now) ag k) := by
    have hstir : TrapFrame ag (stopeOf u st) (stirred (stopeOf u st) u.now) := trapFrame_of_agents ag rfl rfl fun _ => rfl
    refine hstir.trans (trapFrame_putAgent _ hne ?_ ?_ ?_)
    · rw [← hk]; exact hheld.2.1
    · rw [← hk]; exact hheld.2.2.2.2.2.1
    · rw [← hk]; exact congrArg (fun c : Crew => { c with state := .idle, faultCode := 0, faultPc := 0 }) hheld.1
  obtain ⟨hraise, htrace⟩ := raiseIn_trapFrame (putAgent (stirred (stopeOf u st) u.now) ag k) u.now e hne
  constructor
  · obtain ⟨tr, htr⟩ := stopeOf_traceRec
      (putStope u st (raiseIn (putAgent (stirred (stopeOf u st) u.now) ag k) u.now e)) st 0x0010
      (agentOf (stopeOf u st) ag).tag (agentOf (stopeOf u st) ag).epoch ag (code + (agentOf (stopeOf u st) ag).pc * 2 ^ 16)
    rw [htr, stopeOf_putStope]
    exact (hcrew.trans hraise).trans (trapFrame_trace ag _ tr)
  · refine onlyTraced_after (onlyStope_put u st _) ?_ (traceRec_onlyTraced _ _ _ _ _ _ _)
    rw [stopeOf_putStope, htrace]
    rfl

/-- Counting the conflicts of an issue that faults moves a stall figure of the crew. -/
theorem blockedAt_trapFrame (s u : State) {st ag : Nat} (c : Nat) (hag : ag ≠ 16) :
    TrapFrame ag (stopeOf u st) (stopeOf (blockedAt s u st ag c) st) ∧
    (stopeOf (blockedAt s u st ag c) st).trace = (stopeOf u st).trace := by
  unfold blockedAt countBlocked modCrew
  rw [stopeOf_modStope]
  exact ⟨trapFrame_putAgent _ hag rfl rfl rfl, rfl⟩

theorem blockedAt_onlyStope (s u : State) (st ag c : Nat) : OnlyStope u (blockedAt s u st ag c) st := onlyStope_mod _ _ _

/-- A word whose body traps after an effect of its own takes its fault from the state that holds this effect. -/
theorem issue_trapAfter {s : State} {st ag : Nat} {w : Word64} {op : Nat} {n : Nat → Need} {floor : Nat} {adm : Nat → Bool}
    {body : State → Nat → IssueRes} {v : State} {code : Nat} (hi : Issues s st ag w op)
    (hb : body (atIssue s st ag (atCycle s st ag n floor adm)) (atCycle s st ag n floor adm) = .trapAfter v code) :
    issue s st ag w op n floor adm body = takeOpen (blockedAt s v st ag (atCycle s st ag n floor adm)) st ag code := by
  obtain ⟨hmay, hran, hop⟩ := hi
  unfold issue
  simp only [hmay, hop, true_or, and_self, if_true, hran, Bool.false_eq_true, if_false, ne_eq, not_true]
  unfold atIssue atCycle at hb
  rw [hb]
  rfl

/-- A crew that faults after an effect y on its stope within the frame: it is faulted at its word, with the code, and from the state
of its issue nothing but the frame's figures and one trace record has moved. -/
theorem takeOpen_trapFrame (s u : State) {st ag : Nat} {y : Stope} (c code : Nat) (hag : ag < 16) (hy : TrapFrame ag (stopeOf u st) y)
    (ht : y.trace = (stopeOf u st).trace) :
    let t := takeOpen (blockedAt s (putStope u st y) st ag c) st ag code
    ((crewOf t st ag).state = .faulted ∧ (crewOf t st ag).faultCode = code ∧ (crewOf t st ag).faultPc = (crewOf u st ag).pc) ∧
    TrapFrame ag (stopeOf u st) (stopeOf t st) ∧ OnlyTraced u t st 1 := by
  have hne : ag ≠ 16 := by omega
  obtain ⟨hblock, htrace⟩ := blockedAt_trapFrame s (putStope u st y) (st := st) c hne
  have honly := blockedAt_onlyStope s (putStope u st y) st ag c
  rw [stopeOf_putStope] at hblock
  simp only [takeOpen, takeFault, hne, if_false]
  generalize blockedAt s (putStope u st y) st ag c = v at hblock htrace honly ⊢
  have hbefore : TrapFrame ag (stopeOf u st) (stopeOf v st) := hy.trans hblock
  obtain ⟨hfault, htraced⟩ := crewFault_trapFrame (useFree v 1) st ag code (freeAt v 0) hag
  obtain ⟨hstate, hcode, hpc⟩ := crewFault_facts (useFree v 1) st ag code (freeAt v 0) hag
  rw [crewOf_useFree] at hpc
  refine ⟨⟨hstate, hcode, hpc.trans hbefore.pc⟩, hbefore.trans hfault, ?_⟩
  exact onlyTraced_after (onlyStope_put u st y) (by rw [stopeOf_putStope, ht])
    (onlyTraced_after honly htrace (onlyTraced_useFree htraced))

end Sys2Proof.Machine
end

section
/-! MSTRT against a plane in MXFP4 or on a wide-shallow array (R55). -/

namespace Sys2Proof.Machine

open Sys2Proof.Claims

theorem exec_mstrt (st ag : Nat) (w : Word64) (s : State) : exec (.mstrt st ag w) s = .next (streamOp st ag w 0x34 true s) := rfl

/-- A weight wait counts on its array's stall figure alone. -/
theorem modArr_stallWeight_trapFrame (x : Stope) (a n ag : Nat) :
    let y := modArr x a (fun r => { r with stallWeight := r.stallWeight + n })
    TrapFrame ag x y ∧ y.trace = x.trace := by
  by_cases ha : a = 0
  · subst ha
    refine ⟨trapFrame_of_agents ag rfl rfl fun b => ?_, rfl⟩
    by_cases hb : b = 0 <;> simp [modArr, putArr, arrOf, hb]
  · simp only [modArr, putArr, ha, if_false]
    refine ⟨trapFrame_of_agents ag rfl rfl fun b => ?_, trivial⟩
    by_cases hb : b = 0 <;> simp [arrOf, ha, hb]

theorem countTurn_trapFrame (x : Stope) (w : Word64) (column : Bool) (first c ag : Nat) (counted : Nat → Nat) :
    TrapFrame ag x (countTurn x w column first c counted) ∧ (countTurn x w column first c counted).trace = x.trace := by
  unfold countTurn
  dsimp only
  generalize holdWait x first c = held
  induction targets w generalizing x with
  | nil => exact ⟨trapFrame_of_agents ag rfl rfl fun _ => rfl, rfl⟩
  | cons a l ih =>
    obtain ⟨hframe, htrace⟩ :=
      modArr_stallWeight_trapFrame x a (counted (turnWait (arrOf x a) column first c + held)) ag
    obtain ⟨ihframe, ihtrace⟩ := ih (modArr x a fun r =>
      { r with stallWeight := r.stallWeight + counted (turnWait r column first c + held) })
    exact ⟨hframe.trans ihframe, ihtrace.trans htrace⟩

/-- The first named array with a fault gives a stream its code. -/
theorem findSome_targets {w : Word64} {a code : Nat} {f : Nat → Option Nat} (ha : a ∈ targets w)
    (hbefore : ∀ b ∈ targets w, b < a → f b = none) (hf : f a = some code) : (targets w).findSome? f = some code := by
  unfold targets at *
  by_cases h0 : bit (mTgt w) 0 = true <;> by_cases h1 : bit (mTgt w) 1 = true <;>
    simp only [h0, h1, if_true, if_false, List.append_nil, List.nil_append, List.cons_append, List.mem_cons, List.not_mem_nil,
      or_false, Bool.false_eq_true] at ha hbefore ⊢
  · rcases ha with rfl | rfl
    · simp [hf]
    · simp [hbefore 0 (.inl rfl) Nat.one_pos, hf]
  · subst ha; simp [hf]
  · subst ha; simp [hf]

/-- The code of a column read whose source tiles hold rows, on an array of the wide shape or against a plane in MXFP4 (R55). -/
theorem streamFault_column {x : Stope} {k : Crew} {w : Word64} {c a : Nat} (hrows : (tileOf k (sourceTile w a)).rows ≠ 0)
    (hpair : twoHalves (tileOf k (sourceTile w a)).fmt = true → wideAt (arrOf x a) c = false →
      (tileOf k ((sourceTile w a + 1) % 8)).rows ≠ 0)
    (h : wideAt (arrOf x a) c = true ∨ (planeOf (arrOf x a) (activeAt (arrOf x a) c)).fmt = 8) :
    streamFault x k w true c a = some (if wideAt (arrOf x a) c = true then fcArrayMode else fcArrayFormat) := by
  unfold streamFault
  dsimp only
  rw [if_neg (by simpa [hrows] using hpair)]
  cases hw : wideAt (arrOf x a) c with
  | true => simp
  | false =>
    have hfmt : (planeOf (arrOf x a) (activeAt (arrOf x a) c)).fmt = 8 := by simpa [hw] using h
    simp only [hfmt, true_and, Bool.false_eq_true, if_false, if_true, ite_self]

/-- A legal stream whose named arrays fault takes the fault, its wait being counted (R57; DESIGN CHOICE, log 11). -/
theorem streamOp_trap {s : State} {st ag op code : Nat} {w : Word64} {column : Bool} (hag : ag ≠ 16) (hw : streamWord w = true)
    (hi : Issues s st ag w op) :
    let c := atCycle s st ag plain (feedFloor (stopeOf s st) w) (feedAdmits (stopeOf s st) w column)
    let u := atIssue s st ag c
    let k := crewOf u st ag
    (targets w).findSome? (streamFault (stopeOf u st) k w column c) = some code →
    streamOp st ag w op column s =
      takeOpen (blockedAt s (putStope u st (countTurn (stopeOf u st) w column k.nextIssue c (stallOf s st))) st ag c) st ag code := by
  intro c u k hf
  unfold streamWord at hw
  unfold streamOp
  simp only [hw, if_true]
  apply issue_trapAfter hi
  have hf' : (targets w).findSome? (streamFault (stopeOf u st) (agentOf (stopeOf u st) ag) w column c) = some code := hf
  simp only [crewOnly, hag, if_false]
  rw [hf']
  rfl

/-- Settles O6: the first named array that faults gives the code, and a fault writes within its frame. -/
theorem columnReadsTrap : Obligations.ColumnReadsTrap := by
  intro st ag w s a hag hw x0 c u x k y mxfp4 wide hi ha hbefore hrows hpair hbad
  have hcode := findSome_targets ha hbefore (streamFault_column hrows hpair hbad)
  have hexec := streamOp_trap (by omega) hw hi hcode
  obtain ⟨hturn, htrace⟩ := countTurn_trapFrame x w true k.nextIssue c ag (stallOf s st)
  obtain ⟨⟨hstate, hfc, hfpc⟩, hframe, htraced⟩ :=
    takeOpen_trapFrame s u c (if wide = true then fcArrayMode else fcArrayFormat) hag hturn htrace
  refine ⟨_, (exec_mstrt st ag w s).trans (congrArg _ hexec), hstate, ?_, hfpc, hframe.arrays, hframe.side, hframe.pc, hframe.pend,
    hframe.crew, hframe.others, hframe.overman, htraced⟩
  rw [hfc]
  cases hwide : wide with
  | true => simp
  | false =>
    have hfmt : mxfp4 := hbad.resolve_left (by simp [hwide])
    exact ⟨fun _ => rfl, fun h => absurd hfmt h, .inr rfl⟩

end Sys2Proof.Machine
end

section
/-! WAKE: when it starts the exit to Full, what the exit writes, and when it has no effect (R250). -/

namespace Sys2Proof.Machine

open Sys2Proof.Claims

theorem asleep_iff {s : State} : asleep s = true ↔ s.power = .doze ∨ s.power = .vigil := by
  unfold asleep
  cases s.power <;> simp

theorem noTransition_iff {s : State} : noTransition s = true ↔ s.powerNext = none ∧ s.boot.steps = [] := by
  simp [noTransition]

theorem startWake_doze {s : State} (h : s.power = .doze) : startWake s = { s with powerNext := some (.full, s.now + 25000000) } :=
  if_neg (by simp [h])

theorem startWake_vigil {s : State} (h : s.power = .vigil) :
    startWake s = { s with boot := { s.boot with steps := vigilSteps, t0 := s.now } } :=
  if_pos h

/-- A WAKE on port p counts: the port carries flits and has WAKE_OK, the device is in Doze or Vigil, and nothing is under way or off
(R250; DEDUCED, log 29). -/
structure WakeCounts (p : Nat) (s : State) : Prop where
  carried : carries (portOf s p) = true
  wakeOk : bit (portOf s p).live.toNat 7 = true
  sleeping : s.power = .doze ∨ s.power = .vigil
  powerStands : s.powerNext = none
  bootDone : s.boot.steps = []
  tramsOn : tramsOff s = false

theorem wakeCounts_iff {p : Nat} {s : State} :
    WakeCounts p s ↔
      carries (portOf s p) ∧ cfgWakeOk (portOf s p).live ∧ asleep s ∧ noTransition s ∧ tramsOff s = false := by
  rw [asleep_iff, noTransition_iff]
  constructor
  · intro ⟨hcarried, hok, hsleep, hpower, hboot, hon⟩
    exact ⟨hcarried, hok, hsleep, ⟨hpower, hboot⟩, hon⟩
  · intro ⟨hcarried, hok, hsleep, ⟨hpower, hboot⟩, hon⟩
    exact ⟨hcarried, hok, hsleep, hpower, hboot, hon⟩

theorem gives_wake_start {p : Nat} {s : State} (h : WakeCounts p s) : Gives (.wake p) s (startWake s) :=
  if_pos (wakeCounts_iff.mp h)

theorem gives_wake_same {p : Nat} {s : State} (h : ¬ WakeCounts p s) : Gives (.wake p) s s :=
  if_neg (mt wakeCounts_iff.mpr h)

/-- Settles O5: a WAKE that counts starts the exit, and each of the other cases breaks one condition of `WakeCounts`. -/
theorem wakeStartsExit : Obligations.WakeStartsExit := by
  intro p s ok
  refine ⟨fun hcarried hpower hboot hon hok => ⟨fun hdoze => ?_, fun hvigil => ?_⟩, fun hnv hnd => ?_, fun hok => ?_, fun hbusy => ?_⟩
  · rw [← startWake_doze hdoze]
    exact gives_wake_start ⟨hcarried, hok, .inl hdoze, hpower, hboot, hon⟩
  · rw [← startWake_vigil hvigil]
    exact gives_wake_start ⟨hcarried, hok, .inr hvigil, hpower, hboot, hon⟩
  · exact gives_wake_same fun h => h.sleeping.elim hnd hnv
  · exact gives_wake_same fun h => Bool.false_ne_true (hok.symm.trans h.wakeOk)
  · refine gives_wake_same fun h => ?_
    obtain hpower | hboot | hoff := hbusy
    · exact hpower h.powerStands
    · exact hboot h.bootDone
    · exact Bool.false_ne_true (h.tramsOn.symm.trans hoff)

end Sys2Proof.Machine
end

section
/-! The two writes that make a software trace record: what a record is kept or lost by, and where its bytes stand in the ring (R337 to
R340; DEDUCED, log 48). -/

namespace Sys2Proof.Machine

open Sys2Proof.Claims

/-! ### The cells of a record -/

theorem mem_cellsAt_iff {a : Nat} {bs : List Byte} {e : Host.Cell} :
    e ∈ cellsAt a bs ↔ ∃ i < bs.length, e = (a + i, bs.getD i 0) := by
  unfold cellsAt
  rw [List.mem_map]
  constructor
  · rintro ⟨⟨i, b⟩, hmem, rfl⟩
    obtain ⟨n, hn, hget⟩ := List.mem_iff_getElem.mp hmem
    simp only [List.getElem_zip, List.getElem_range, Prod.mk.injEq] at hget
    obtain ⟨rfl, rfl⟩ := hget
    have hlt : n < bs.length := by simpa using hn
    exact ⟨n, hlt, by rw [← List.getElem_eq_getD (h := hlt) 0]⟩
  · rintro ⟨i, hi, rfl⟩
    refine ⟨(i, bs.getD i 0), List.mem_iff_getElem.mpr ⟨i, by simpa using hi, ?_⟩, rfl⟩
    simp [hi]

/-- A byte reads as written where all the cells that name it agree. -/
theorem cellAt_cellsPut_of_mem (m : List Host.Cell) {cs : List Host.Cell} {a : Nat} {b : Byte} (hmem : (a, b) ∈ cs)
    (hagree : ∀ c ∈ cs, c.1 = a → c.2 = b) : cellAt (cellsPut m cs) a = b := by
  induction cs generalizing m with
  | nil => cases hmem
  | cons c cs ih =>
    by_cases hlater : ∃ d ∈ cs, d.1 = a
    · obtain ⟨d, hd, rfl⟩ := hlater
      have hb : d.2 = b := hagree d (List.mem_cons_of_mem _ hd) rfl
      exact ih (tset m 0 c.1 c.2) (hb ▸ hd) fun e he => hagree e (List.mem_cons_of_mem _ he)
    · have hc : (a, b) = c := (List.mem_cons.mp hmem).resolve_right fun h => hlater ⟨_, h, rfl⟩
      subst hc
      exact cellAt_cellsPut_last m [] cs a b fun d hd hda => hlater ⟨d, hd, hda⟩

theorem readBytes_getD (s : State) (pa : Nat) {n i : Nat} (hi : i < n) : (readBytes s pa n).getD i 0 = byteAt s (pa + i) := by
  simp [readBytes, hi]

/-- Records of this cycle that go behind a record of an agent (R339). -/
def recordsAfter (s : State) (st agent : Nat) : Nat :=
  ((agentsNow (stopeOf s st).trace s.now).filter (fun b => decide (agent < b))).length

/-- The j-th of the places that a record of an agent and those behind it take. -/
def tracePlace (s : State) (st agent j : Nat) : Nat :=
  traceAddr st (((stopeOf s st).trace.head + 8192 - recordsAfter s st agent + j) % 8192 * 32)

/-- The bytes that go to the j-th of those places: the record's own, then those of the place before. -/
def placedBytes (s : State) (st agent : Nat) (bs : List Byte) : Nat → List Byte
  | 0 => bs
  | j + 1 => readBytes s (tracePlace s st agent j) 32

theorem length_placedBytes (s : State) (st agent : Nat) {bs : List Byte} (hb : bs.length = 32) (j : Nat) :
    (placedBytes s st agent bs j).length = 32 := by
  cases j with
  | zero => exact hb
  | succ j => simp [placedBytes, readBytes]

theorem placedBytes_succ_getD (s : State) (st agent j : Nat) (bs : List Byte) {i : Nat} (hi : i < 32) :
    (placedBytes s st agent bs (j + 1)).getD i 0 = byteAt s (tracePlace s st agent j + i) :=
  readBytes_getD s (tracePlace s st agent j) hi

theorem recordsAfter_le (s : State) (st agent : Nat) : recordsAfter s st agent ≤ (agentsNow (stopeOf s st).trace s.now).length :=
  List.length_filter_le _ _

theorem mem_traceCells {s : State} {st agent : Nat} {bs : List Byte} {e : Host.Cell} :
    e ∈ traceCells s st agent bs ↔
      ∃ j ≤ recordsAfter s st agent, e ∈ cellsAt (tracePlace s st agent j) (placedBytes s st agent bs j) := by
  have hcells : traceCells s st agent bs = cellsAt (tracePlace s st agent 0) bs ++
      (List.range (recordsAfter s st agent)).flatMap
        (fun j => cellsAt (tracePlace s st agent (j + 1)) (placedBytes s st agent bs (j + 1))) := rfl
  rw [hcells, List.mem_append, List.mem_flatMap]
  constructor
  · rintro (hown | ⟨j, hj, hmoved⟩)
    · exact ⟨0, Nat.zero_le _, hown⟩
    · exact ⟨j + 1, List.mem_range.mp hj, hmoved⟩
  · rintro ⟨_ | j, hj, he⟩
    · exact .inl he
    · exact .inr ⟨j, List.mem_range.mpr hj, he⟩

/-- Fewer than the ring's 8,192 places in a row do not overlap. -/
theorem tracePlace_add_inj {s : State} {st agent j j' i i' : Nat} (hk : recordsAfter s st agent < 8192) (hj : j ≤ recordsAfter s st agent)
    (hj' : j' ≤ recordsAfter s st agent) (hi : i < 32) (hi' : i' < 32) (h : tracePlace s st agent j + i = tracePlace s st agent j' + i') :
    j = j' ∧ i = i' := by
  unfold tracePlace traceAddr at h
  omega

/-- Each place that a record and those behind it take reads as the bytes that go there. -/
theorem cellAt_traceCells (s : State) (st agent : Nat) (m : List Host.Cell) {bs : List Byte} {j i : Nat} (hb : bs.length = 32)
    (hk : recordsAfter s st agent < 8192) (hj : j ≤ recordsAfter s st agent) (hi : i < 32) :
    cellAt (cellsPut m (traceCells s st agent bs)) (tracePlace s st agent j + i) = (placedBytes s st agent bs j).getD i 0 := by
  have hlen := length_placedBytes s st agent hb
  apply cellAt_cellsPut_of_mem
  · exact mem_traceCells.mpr ⟨j, hj, mem_cellsAt_iff.mpr ⟨i, by rw [hlen]; exact hi, rfl⟩⟩
  · intro c hc hat
    obtain ⟨j', hj', hc⟩ := mem_traceCells.mp hc
    obtain ⟨i', hi', rfl⟩ := mem_cellsAt_iff.mp hc
    rw [hlen] at hi'
    obtain ⟨rfl, rfl⟩ := tracePlace_add_inj hk hj' hj hi' hi hat
    rfl

/-! ### What becomes of a record -/

/-- No record of the code is made: the monitor is off, or tracing is, or the code's class is suppressed (R340, R342). -/
def TraceOff (s : State) (st code : Nat) : Prop :=
  let ctl := (stopeOf s st).trace.ctl.toNat
  monitorOff s (stopeLevel st) = true ∨ bit ctl 0 = false ∨ bit ctl (16 + traceClass code) = true

/-- A record would be lost: the ring is full in STOP mode, or the monitor's queue is (R339, R340). -/
def TraceLoses (s : State) (st : Nat) : Prop :=
  let t := (stopeOf s st).trace
  (bit t.ctl.toNat 1 = false ∧ 8192 ≤ t.sinceClear) ∨ 18 ≤ traceQueued t s.now

theorem not_traceLoses {s : State} {st : Nat}
    (hroom : bit (stopeOf s st).trace.ctl.toNat 1 = true ∨ (stopeOf s st).trace.sinceClear < 8192)
    (hqueue : traceQueued (stopeOf s st).trace s.now < 18) : ¬ TraceLoses s st := by
  rintro (⟨hstop, hfull⟩ | hqueued)
  · rcases hroom with hwrap | hspace
    · exact Bool.false_ne_true (hstop.symm.trans hwrap)
    · exact absurd hfull (Nat.not_le.mpr hspace)
  · exact absurd hqueued (Nat.not_le.mpr hqueue)

section
variable {s : State} {st code : Nat} (tag epoch agent arg : Nat)

theorem traceRec_off (hoff : TraceOff s st code) : traceRec s st code tag epoch agent arg = s := if_pos hoff

theorem traceRec_lost (hon : ¬ TraceOff s st code) (hlost : TraceLoses s st) :
    let x := stopeOf s st
    traceRec s st code tag epoch agent arg =
      putStope s st { x with trace := { x.trace with lost := satAdd 32 x.trace.lost 1 } } :=
  (if_neg hon).trans (if_pos hlost)

theorem traceRec_kept (hon : ¬ TraceOff s st code) (hkept : ¬ TraceLoses s st) :
    let x := stopeOf s st
    traceRec s st code tag epoch agent arg =
      writeCells (putStope s st { x with trace := { x.trace with
        head := (x.trace.head + 1) % 8192, count := x.trace.count + 1, sinceClear := x.trace.sinceClear + 1
        queued := traceQueued x.trace s.now + 1, queuedAt := s.now, cycleAgents := agent :: agentsNow x.trace s.now } })
        (traceCells s st agent (traceBytes s code tag epoch agent arg)) :=
  (if_neg hon).trans (if_neg hkept)

theorem stopeOf_traceRec_kept (hon : ¬ TraceOff s st code) (hkept : ¬ TraceLoses s st) :
    let x := stopeOf s st
    stopeOf (traceRec s st code tag epoch agent arg) st = { x with trace := { x.trace with
      head := (x.trace.head + 1) % 8192, count := x.trace.count + 1, sinceClear := x.trace.sinceClear + 1
      queued := traceQueued x.trace s.now + 1, queuedAt := s.now, cycleAgents := agent :: agentsNow x.trace s.now } } := by
  dsimp only
  rw [traceRec_kept tag epoch agent arg hon hkept, stopeOf_writeCells, stopeOf_putStope]

theorem cellAt_traceRec_kept (hon : ¬ TraceOff s st code) (hkept : ¬ TraceLoses s st) (hfew : recordsAfter s st agent < 8192) {j i : Nat}
    (hj : j ≤ recordsAfter s st agent) (hi : i < 32) :
    cellAt (traceRec s st code tag epoch agent arg).mem (tracePlace s st agent j + i) =
      (placedBytes s st agent (traceBytes s code tag epoch agent arg) j).getD i 0 := by
  rw [traceRec_kept tag epoch agent arg hon hkept, writeCells_mem, putStope_mem]
  exact cellAt_traceCells s st agent s.mem (length_traceBytes s code tag epoch agent arg) hfew hj hi

end

/-! ### The overman's two writes -/

/-- A stope's change that leaves the arrays alone leaves every byte. -/
theorem byteAt_modStope_of_arrays (s : State) (st : Nat) (f : Stope → Stope)
    (h : ∀ a, arrOf (f (stopeOf s st)) a = arrOf (stopeOf s st) a) (pa : Nat) : byteAt (modStope s st f) pa = byteAt s pa := by
  have harrays : ∀ st' a, arrOf (stopeOf (modStope s st f) st') a = arrOf (stopeOf s st') a := by
    intro st' a
    by_cases hst : st' = st
    · rw [hst, stopeOf_modStope, h]
    · rw [stopeOf_modStope_ne s f hst]
  unfold byteAt
  rw [locate_conf (s := s) rfl pa]
  simp only [harrays]
  rfl

theorem exec_ovmTrace (st : Nat) (v : Word64) (s : State) : exec (.ovmTrace st v) s = .next (writeTrace s st v.toNat) := rfl

theorem writeTrace_software {s : State} {st v : Nat} (hlow : 0x8000 ≤ v) (hhigh : v < 2 ^ 16) :
    let x := stopeOf s st
    writeTrace s st v = traceRec s st v (agentOf x 16).tag (agentOf x 16).epoch 0x10 x.traceArg.toNat :=
  if_pos ⟨hlow, hhigh⟩

theorem writeTrace_other {s : State} {st v : Nat} (h : v < 0x8000 ∨ 2 ^ 16 ≤ v) : writeTrace s st v = s :=
  if_neg (by omega)

/-- Tracing is off for a software record by its own class, 8 (R340). -/
theorem traceOff_software {s : State} {st v : Nat} (hlow : 0x8000 ≤ v) :
    TraceOff s st v ↔ (!monitorOff s (stopeLevel st) && bit (stopeOf s st).trace.ctl.toNat 0 &&
      !bit (stopeOf s st).trace.ctl.toNat 24) = false := by
  have hclass : traceClass v = 8 := if_pos hlow
  unfold TraceOff
  dsimp only
  rw [hclass]
  cases monitorOff s (stopeLevel st) <;> cases bit (stopeOf s st).trace.ctl.toNat 0 <;> simp

/-- The state once OVM_TRACE_ARG of stope st holds a. -/
def argued (s : State) (st : Nat) (a : Word64) : State := modStope s st (fun x => { x with traceArg := a })

section
variable (s : State) (st : Nat) (a : Word64)

theorem sysWrite_traceArg : sysWrite s st 0x31 a.toNat = argued s st a := by
  have hkeeps : BitVec.ofNat 64 a.toNat = a := by simp
  exact congrArg (argued s st) hkeeps

@[simp] theorem stopeOf_argued : stopeOf (argued s st a) st = { stopeOf s st with traceArg := a } := stopeOf_modStope _ _ _

theorem byteAt_argued (pa : Nat) : byteAt (argued s st a) pa = byteAt s pa := byteAt_modStope_of_arrays s st _ (fun _ => rfl) pa

theorem traceLoses_argued : TraceLoses (argued s st a) st ↔ TraceLoses s st := by
  unfold TraceLoses; rw [stopeOf_argued]; rfl

theorem traceOff_argued (code : Nat) : TraceOff (argued s st a) st code ↔ TraceOff s st code := by
  unfold TraceOff; rw [stopeOf_argued]; rfl

theorem recordsAfter_argued (agent : Nat) : recordsAfter (argued s st a) st agent = recordsAfter s st agent := by
  unfold recordsAfter; rw [stopeOf_argued]; rfl

theorem tracePlace_argued (agent j : Nat) : tracePlace (argued s st a) st agent j = tracePlace s st agent j := by
  unfold tracePlace; rw [stopeOf_argued, recordsAfter_argued]

/-- Both writes: the code's record carries the argument. -/
theorem gives_ovmTrace_argued {v : Word64} (hlow : 0x8000 ≤ v.toNat) (hhigh : v.toNat < 2 ^ 16) :
    let o := agentOf (stopeOf s st) 16
    Gives (.ovmTrace st v) (argued s st a) (traceRec (argued s st a) st v.toNat o.tag o.epoch 0x10 a.toNat) := by
  dsimp only
  unfold Gives
  rw [exec_ovmTrace, writeTrace_software hlow hhigh, stopeOf_argued]
  rfl

end

theorem gives_ovmTrace_same {s : State} {st : Nat} {v : Word64}
    (h : v.toNat < 0x8000 ∨ 2 ^ 16 ≤ v.toNat ∨ TraceOff s st v.toNat) : Gives (.ovmTrace st v) s s := by
  refine (exec_ovmTrace st v s).trans (congrArg _ ?_)
  by_cases hcode : v.toNat < 0x8000 ∨ 2 ^ 16 ≤ v.toNat
  · exact writeTrace_other hcode
  · have hoff : TraceOff s st v.toNat := (h.resolve_left fun hl => hcode (.inl hl)).resolve_left fun hh => hcode (.inr hh)
    rw [writeTrace_software (by omega) (by omega)]
    exact traceRec_off _ _ _ _ hoff

/-- Settles O7: the write of the argument moves nothing that decides on the record, and the write of the code then makes it. -/
theorem softwareTraceRecord : Obligations.SoftwareTraceRecord := by
  intro st a v s x o s1 bs now k place stands on
  have hs1 : s1 = argued s st a := sysWrite_traceArg s st a
  clear_value s1
  subst hs1
  have htracing : 0x8000 ≤ v.toNat → (TraceOff (argued s st a) st v.toNat ↔ on = false) := fun hlow =>
    (traceOff_argued s st a _).trans (traceOff_software hlow)
  refine ⟨onlyStope_mod s st _, stopeOf_argued s st a, fun hlow hhigh hon => ?_, fun hnone => gives_ovmTrace_same ?_⟩
  · have htraced : ¬ TraceOff (argued s st a) st v.toNat := by rw [htracing hlow, hon]; decide
    refine ⟨fun hroom hqueue hfew => ?_, fun hlost => ?_⟩
    · have hkept : ¬ TraceLoses (argued s st a) st := mt (traceLoses_argued s st a).mp (not_traceLoses hroom hqueue)
      have hbytes : traceBytes (argued s st a) v.toNat o.tag o.epoch 0x10 a.toNat = bs := by
        simp [traceBytes, bs, toBytes, argued, modStope]
      have hat : ∀ j ≤ k, ∀ i < 32, cellAt (traceRec (argued s st a) st v.toNat o.tag o.epoch 0x10 a.toNat).mem (place j + i) =
          (placedBytes (argued s st a) st 0x10 bs j).getD i 0 := by
        intro j hj i hi
        have hk : recordsAfter (argued s st a) st 0x10 = k := recordsAfter_argued s st a 0x10
        have hplace : place j = tracePlace (argued s st a) st 0x10 j := (tracePlace_argued s st a 0x10 j).symm
        rw [hplace, ← hbytes]
        exact cellAt_traceRec_kept _ _ _ _ htraced hkept (hk ▸ Nat.lt_of_le_of_lt (recordsAfter_le s st 0x10) hfew) (hk ▸ hj) hi
      refine ⟨_, gives_ovmTrace_argued s st a hlow hhigh, traceRec_onlyTraced _ _ _ _ _ _ _, ?_,
        fun i hi => hat 0 (Nat.zero_le k) i hi, fun j i hj hi => ?_⟩
      · rw [stopeOf_traceRec_kept _ _ _ _ htraced hkept, stopeOf_argued]
        rfl
      · rw [hat (j + 1) hj i hi, placedBytes_succ_getD _ _ _ _ _ hi, byteAt_argued]
        exact congrArg (fun pa => byteAt s (pa + i)) (tracePlace_argued s st a 0x10 j)
    · have hrec := traceRec_lost o.tag o.epoch 0x10 a.toNat htraced ((traceLoses_argued s st a).mpr hlost)
      refine ⟨_, gives_ovmTrace_argued s st a hlow hhigh, ?_, ?_⟩
      · rw [hrec]; exact onlyStope_put _ _ _
      · rw [hrec, stopeOf_putStope, stopeOf_argued]
  · rcases hnone with hlow | hhigh | hoff
    · exact .inl hlow
    · exact .inr (.inl hhigh)
    · exact (Nat.lt_or_ge v.toNat 0x8000).imp_right fun hlow => .inr ((htracing hlow).mpr hoff)

end Sys2Proof.Machine
end
